-- ==== Sys2Proof/Word.lean ====
section
/-! DEFINITION. The word types of the part: web positions and port bytes. Plain abbreviations, so that the library's
BitVec lemmas apply. Lengths, serials, codes and counts are Nat; signed quantities are Int. -/

namespace Sys2Proof

/-- A web position on PE or LE, one count being 50 µm of web, wrapping modulo 2^32 (Conventions, R1). -/
abbrev Word := BitVec 32

/-- One byte on a serial port (R197). -/
abbrev Byte := BitVec 8

/-- The cylinder angle, 16,384 steps per revolution (R3). -/
abbrev Angle := BitVec 14

/-- A pattern code: 8 characters, each any byte value (section 9.2). -/
abbrev Pattern := Vector Byte 8

end Sys2Proof
end

