-- ==== Sys2Proof/Config.lean ====
section
/-! DEFINITION. What is fixed for every DL460 (capacities and limits of the rules), and the free values: constants with
no body, so that no proof can see what they are. -/

namespace Sys2Proof.Config

/-- R33: the Repeat Queue holds up to 512 records. -/
def queueCapacity : Nat := 512
/-- R84: the Batch Table holds up to 16 entries. -/
def batchCapacity : Nat := 16
/-- R110: the Roll Table holds up to 16 entries. -/
def rollCapacity : Nat := 16
/-- R130: a start that leaves this many rolls or more logs ROLL_TABLE_LOW. -/
def rollTableLow : Nat := 14
/-- R141: the Knife Queue holds up to 4 cuts. -/
def knifeCapacity : Nat := 4
/-- R191: the event table holds up to 40 entries. -/
def eventCapacity : Nat := 40
/-- R191: the first 8 places are the retained part. -/
def eventRetained : Nat := 8
/-- R58: a defect list holds up to 4 entries. -/
def defectCapacity : Nat := 4
/-- R98, R95: the largest batch code. -/
def maxBatchCode : Nat := 16777215
/-- The largest 32-bit number: R22 (seq), R128 (roll serial), R187 (counts), R103 (rolls labelled). -/
def maxWord : Nat := 4294967295
/-- R203: the number that stands for NO_BATCH in a shade verdict on the wire. -/
def noBatchWire : Nat := 16777216

/-- FREE VALUE (log entry 4). The quotient of the rounding operation when its divisor is 0. The rules never divide by
0: a print length, a sample count and a shade count are at least 1 in every state a run reaches. -/
opaque quotientByZero : Int → Int

/-- FREE VALUE (log entry 5). The reserved batch counter in a state that uses it while it is unknown (R179). No run
reaches one: while the counters are unknown no recipe can be loaded (R175, R180). -/
opaque unknownBatchCounter : Nat

/-- FREE VALUE (log entry 5). The reserved roll counter, as `unknownBatchCounter`. -/
opaque unknownRollCounter : Nat

/-- FREE VALUE (log entry 6). The position used where a length or a position is measured from a capture that is absent.
No run needs it: a point in SYNC or LOST has matched a mark before (R39), and a BUILDING roll has had a hand-over. -/
opaque absentCapture : Word

/-- FREE VALUE (log entry 6). The credited length of an absent last hand-over, as `absentCapture`. -/
opaque absentLength : Nat

end Sys2Proof.Config
end

