-- ==== Sys2Proof/Syntax.lean ====
section
/-! DEFINITION. The commands of the part: one constructor of `Instr` per row of spec/opcode_table.json, with the
operands the rules give. Operands that a port request carries stand at their widths on the wire (section 11.2), so that
a value outside its range can be written and is answered as the rules say. -/

namespace Sys2Proof

/-- The three command ports (chapter 11). -/
inductive Port where
  | portP | portF | portQ
  deriving DecidableEq, Repr

/-- The two web encoders that keep a direction (R1, R2). -/
inductive Encoder where
  | pe | le
  deriving DecidableEq, Repr

/-- The three register-mark sensors (R5). -/
inductive Sensor where
  | pm | em | cm
  deriving DecidableEq, Repr

/-- The two kinds of device reset (R196). -/
inductive ResetCause where
  | powerOn | resetInput
  deriving DecidableEq, Repr

/-- The bytes of one frame, received while CS was low, and whether the frame ended with a part byte (R197). -/
structure Frame where
  bytes : List Byte
  part : Bool
  deriving DecidableEq, Repr

/-- The recipe image of WRITE RECIPE and READ RECIPE, field by field as section 11.6 lays its 38 bytes out. -/
structure RecipeImage where
  slot : BitVec 4
  drop16 : BitVec 4
  pattern : Pattern
  rNom : BitVec 16
  rTol : BitVec 14
  lookAhead : Bool
  emboss : Bool
  phiCut : BitVec 16
  lOrd : BitVec 24
  lShort : BitVec 24
  cc : BitVec 24
  aT : BitVec 14
  kcCode : BitVec 2
  db : Byte
  kp : Byte
  ki : Byte
  sl : Byte
  wLock : BitVec 12
  eTol : BitVec 12
  wCap : BitVec 16
  t : BitVec 12
  bSlots : BitVec 3
  drop : Bool
  nLearn : Byte
  deriving DecidableEq, Repr

/-- The 14 argument bytes of WRITE SETUP (section 11.2), field by field; one byte per group. -/
structure SetupArgs where
  sMax : BitVec 16
  cTol : BitVec 16
  tKnife : Byte
  lateTol : BitVec 16
  tracking : Byte
  emboss : Byte
  shade : Byte
  roll : Byte
  knife : Byte
  store : Byte
  session : Byte
  deriving DecidableEq, Repr

/-- One row of the command catalogue (section 11.2). -/
structure CommandRow where
  code : Nat
  ports : List Port
  lengths : List Nat
  deriving DecidableEq, Repr

/-- The commands. Web-side and internal events first, then the port requests in the order of the table. -/
inductive Instr where
  /-- R19. `commitLanded` says whether a commit attempt in flight had ended with the block marked valid (R185). -/
  | deviceReset (cause : ResetCause) (commitLanded : Bool)
  /-- R1. The levels of the encoder's A and B inputs after the edge. -/
  | encoderCount (encoder : Encoder) (a b : Bool)
  /-- R3. The levels of CA_A and CA_B after the edge. -/
  | caCount (a b : Bool)
  /-- R4. A rising edge of CA_IDX. -/
  | caIndex
  /-- R5. A rising edge of PM, EM or CM. -/
  | markCapture (sensor : Sensor)
  /-- R12. A rising edge of SPL. -/
  | splice
  /-- R147. A rising edge of KNIFE_ACK. -/
  | knifeAck
  /-- R148. Expiry of the knife wait timer. -/
  | knifeTimeout
  /-- R81. The end of a PWM period. -/
  | pwmPeriodEnd
  /-- R181. The suspension of the write in flight takes effect. -/
  | writeSuspend
  /-- R177. The write in flight ends; `agrees` is the outcome of its comparison. -/
  | storeWriteEnd (agrees : Bool)
  /-- R182. The commit attempt in flight ends; `agrees` is the outcome of its comparison. -/
  | commitAttemptEnd (agrees : Bool)
  /-- R201. `clocked` are the further bytes of the frame, whose content is ignored. -/
  | readStatus (port : Port) (clocked : List Byte)
  /-- R200. `clocked` as for READ STATUS. -/
  | fetchReply (port : Port) (clocked : List Byte)
  /-- R197. A frame that the frame check answers BAD_FRAME. -/
  | badFrame (port : Port) (frame : Frame)
  /-- R202. -/
  | setNotices (port : Port) (notices : Byte)
  /-- R202. -/
  | ackNotices (port : Port) (notices : Byte)
  /-- R31. -/
  | resumeLine (port : Port)
  /-- R26. -/
  | clearArm (port : Port)
  /-- R27. -/
  | clearLine (port : Port)
  /-- R20. -/
  | loadRecipe (port : Port) (slot : Byte)
  /-- R21. -/
  | startRun (port : Port)
  /-- R23. -/
  | endRun (port : Port)
  /-- R25. -/
  | flushRun (port : Port)
  /-- R176. -/
  | writeRecipe (port : Port) (image : RecipeImage)
  /-- R186. -/
  | readRecipe (port : Port) (slot : Byte)
  /-- R178. -/
  | writeSetup (port : Port) (args : SetupArgs)
  /-- R186. -/
  | readSetup (port : Port)
  /-- R180. -/
  | seedCounters (port : Port) (batch roll : BitVec 32)
  /-- R186. -/
  | readCounters (port : Port)
  /-- R57. A cross position of 65,535 means absent (section 11.2). -/
  | reportDefect (port : Port) (seq : BitVec 32) (kind severity : Byte) (cross : BitVec 16)
  /-- R86. -/
  | shadeReport (port : Port) (seq : BitVec 32) (l a b : BitVec 16)
  /-- R59. -/
  | readRepeat (port : Port) (seq : BitVec 32)
  /-- R139. -/
  | readRoll (port : Port) (serial : Option (BitVec 32))
  /-- R107. -/
  | readBatch (port : Port) (code : Option (BitVec 32))
  /-- R163. -/
  | getLabel (port : Port)
  /-- R165. -/
  | labelDone (port : Port) (serial : BitVec 32)
  /-- R169. -/
  | rollDisposition (port : Port) (serial : BitVec 32) (decision : Byte)
  /-- R194. -/
  | readEvents (port : Port) (start : BitVec 32)
  /-- R193. -/
  | clearEvents (port : Port)
  deriving DecidableEq, Repr

end Sys2Proof
end

