-- ==== Sys2Proof/Decode.lean ====
section
/-! DEFINITION. What the table's bits spell (nothing: no row of spec/opcode_table.json has bits), and the frames of the
command ports: the catalogue (section 11.2), the frame check (R197), the bytes of each request, and the request that a
frame spells. -/

namespace Sys2Proof

/-- The command that a table word spells. No row of the table gives bits, so no word spells one (log entry 18). -/
def decodeTableWord (_nbits _w : Nat) : Option Instr := none

/-- The `n` bytes of a number, least significant byte first (Conventions, Byte order). -/
def leBytes : Nat → Nat → List Byte
  | 0, _ => []
  | n + 1, v => BitVec.ofNat 8 v :: leBytes n (v / 256)

/-- The number that bytes hold, least significant byte first. -/
def leNat : List Byte → Nat
  | [] => 0
  | b :: bs => b.toNat + 256 * leNat bs

/-- All three ports. -/
def allPorts : List Port := [.portP, .portF, .portQ]

/-- The command catalogue of section 11.2. -/
def catalogue : List CommandRow :=
  [⟨1, allPorts, [0]⟩, ⟨2, allPorts, [0]⟩, ⟨3, allPorts, [1]⟩, ⟨4, allPorts, [1]⟩,
   ⟨8, allPorts, [0]⟩, ⟨9, allPorts, [0]⟩, ⟨10, allPorts, [0]⟩,
   ⟨16, [.portP], [1]⟩, ⟨17, [.portP], [0]⟩, ⟨18, [.portP], [0]⟩, ⟨19, [.portP, .portF], [0]⟩] ++
  [⟨24, [.portP, .portQ], [38]⟩, ⟨25, allPorts, [1]⟩, ⟨26, [.portF], [14]⟩, ⟨27, allPorts, [0]⟩,
   ⟨28, [.portF], [8]⟩, ⟨29, allPorts, [0]⟩] ++
  [⟨32, [.portP, .portQ], [8]⟩, ⟨33, [.portQ], [10]⟩, ⟨34, allPorts, [4]⟩, ⟨40, allPorts, [0, 4]⟩, ⟨41, allPorts, [0, 4]⟩,
   ⟨48, [.portQ], [0]⟩, ⟨49, [.portQ], [4]⟩, ⟨50, [.portQ], [5]⟩, ⟨56, allPorts, [4]⟩, ⟨57, allPorts, [0]⟩]

/-- The catalogue's row for a command code. -/
def commandRow (code : Nat) : Option CommandRow := catalogue.find? (fun r => r.code == code)

/-- R198 step 3: whether the catalogue lists the port for the command. -/
def permitted (code : Nat) (p : Port) : Bool :=
  match commandRow code with
  | some row => row.ports.contains p
  | none => false

/-- R197: READ STATUS and FETCH REPLY are the exceptions to the byte-count test. -/
def isStreamed (code : Nat) : Bool := code == 1 || code == 2

/-- The frame check of R197, on a frame that holds at least one complete byte: true when it is answered BAD_FRAME. -/
def frameBad (f : Frame) : Bool :=
  match f.bytes with
  | [] => false
  | [_] => true
  | code :: n :: rest =>
    f.part ||
      match commandRow code.toNat with
      | none => true
      | some row =>
        decide (38 < n.toNat) || !row.lengths.contains n.toNat ||
          (!isStreamed code.toNat && rest.length != n.toNat)

/-- The command code of a port request (section 11.2); 0 for a command that is no request of the catalogue. -/
def commandCode : Instr → Nat
  | .readStatus _ _ => 1
  | .fetchReply _ _ => 2
  | .setNotices _ _ => 3
  | .ackNotices _ _ => 4
  | .resumeLine _ => 8
  | .clearArm _ => 9
  | .clearLine _ => 10
  | .loadRecipe _ _ => 16
  | .startRun _ => 17
  | .endRun _ => 18
  | .flushRun _ => 19
  | .writeRecipe _ _ => 24
  | .readRecipe _ _ => 25
  | .writeSetup _ _ => 26
  | .readSetup _ => 27
  | .seedCounters _ _ _ => 28
  | .readCounters _ => 29
  | .reportDefect _ _ _ _ _ => 32
  | .shadeReport _ _ _ _ _ => 33
  | .readRepeat _ _ => 34
  | .readRoll _ _ => 40
  | .readBatch _ _ => 41
  | .getLabel _ => 48
  | .labelDone _ _ => 49
  | .rollDisposition _ _ _ => 50
  | .readEvents _ _ => 56
  | .clearEvents _ => 57
  | .deviceReset _ _ | .encoderCount _ _ _ | .caCount _ _ | .caIndex | .markCapture _ | .splice | .knifeAck
  | .knifeTimeout | .pwmPeriodEnd | .writeSuspend | .storeWriteEnd _ | .commitAttemptEnd _ | .badFrame _ _ => 0

/-- The 38 bytes of a recipe image (section 11.6). -/
def recipeImageBytes (r : RecipeImage) : List Byte :=
  leBytes 1 (r.slot.toNat + 16 * r.drop16.toNat) ++ r.pattern.toList ++ leBytes 2 r.rNom.toNat ++
  leBytes 2 (r.rTol.toNat + 16384 * r.lookAhead.toNat + 32768 * r.emboss.toNat) ++ leBytes 2 r.phiCut.toNat ++
  leBytes 3 r.lOrd.toNat ++ leBytes 3 r.lShort.toNat ++ leBytes 3 r.cc.toNat ++
  leBytes 2 (r.aT.toNat + 16384 * r.kcCode.toNat) ++ [r.db, r.kp, r.ki, r.sl] ++
  leBytes 3 (r.wLock.toNat + 4096 * r.eTol.toNat) ++ leBytes 2 r.wCap.toNat ++
  leBytes 2 (r.t.toNat + 4096 * r.bSlots.toNat + 32768 * r.drop.toNat) ++ [r.nLearn]

/-- The 14 bytes of WRITE SETUP's arguments (section 11.2). -/
def setupArgBytes (u : SetupArgs) : List Byte :=
  leBytes 2 u.sMax.toNat ++ leBytes 2 u.cTol.toNat ++ [u.tKnife] ++ leBytes 2 u.lateTol.toNat ++
  [u.tracking, u.emboss, u.shade, u.roll, u.knife, u.store, u.session]

/-- The argument bytes of a request (section 11.2). -/
def argumentBytes : Instr → List Byte
  | .setNotices _ n => [n]
  | .ackNotices _ n => [n]
  | .loadRecipe _ slot => [slot]
  | .writeRecipe _ image => recipeImageBytes image
  | .readRecipe _ slot => [slot]
  | .writeSetup _ args => setupArgBytes args
  | .seedCounters _ b r => leBytes 4 b.toNat ++ leBytes 4 r.toNat
  | .reportDefect _ seq kind sev cross => leBytes 4 seq.toNat ++ [kind, sev] ++ leBytes 2 cross.toNat
  | .shadeReport _ seq l a b => leBytes 4 seq.toNat ++ leBytes 2 l.toNat ++ leBytes 2 a.toNat ++ leBytes 2 b.toNat
  | .readRepeat _ seq => leBytes 4 seq.toNat
  | .readRoll _ (some n) => leBytes 4 n.toNat
  | .readBatch _ (some n) => leBytes 4 n.toNat
  | .labelDone _ n => leBytes 4 n.toNat
  | .rollDisposition _ n d => leBytes 4 n.toNat ++ [d]
  | .readEvents _ n => leBytes 4 n.toNat
  | .readRoll _ none | .readBatch _ none | .readStatus _ _ | .fetchReply _ _ | .resumeLine _ | .clearArm _
  | .clearLine _ | .startRun _ | .endRun _ | .flushRun _ | .readSetup _ | .readCounters _ | .getLabel _
  | .clearEvents _ | .deviceReset _ _ | .encoderCount _ _ _ | .caCount _ _ | .caIndex | .markCapture _ | .splice
  | .knifeAck | .knifeTimeout | .pwmPeriodEnd | .writeSuspend | .storeWriteEnd _ | .commitAttemptEnd _
  | .badFrame _ _ => []

/-- The bytes of the frame that carries a request: the code, the argument length, the arguments (section 11.1). -/
def requestBytes (i : Instr) : List Byte :=
  BitVec.ofNat 8 (commandCode i) :: BitVec.ofNat 8 (argumentBytes i).length :: argumentBytes i

/-- `len` bytes of a list from `off` on, read as a number. -/
def fieldAt (bs : List Byte) (off len : Nat) : Nat := leNat ((bs.drop off).take len)

/-- One byte of a list, 0 past its end. -/
def byteAt (bs : List Byte) (off : Nat) : Byte := bs.getD off 0

/-- The recipe image that 38 argument bytes hold (section 11.6). -/
def recipeImageOf (bs : List Byte) : RecipeImage where
  slot := BitVec.ofNat 4 (fieldAt bs 0 1)
  drop16 := BitVec.ofNat 4 (fieldAt bs 0 1 / 16)
  pattern := Vector.ofFn fun i => byteAt bs (1 + i.val)
  rNom := BitVec.ofNat 16 (fieldAt bs 9 2)
  rTol := BitVec.ofNat 14 (fieldAt bs 11 2)
  lookAhead := fieldAt bs 11 2 / 16384 % 2 == 1
  emboss := fieldAt bs 11 2 / 32768 % 2 == 1
  phiCut := BitVec.ofNat 16 (fieldAt bs 13 2)
  lOrd := BitVec.ofNat 24 (fieldAt bs 15 3)
  lShort := BitVec.ofNat 24 (fieldAt bs 18 3)
  cc := BitVec.ofNat 24 (fieldAt bs 21 3)
  aT := BitVec.ofNat 14 (fieldAt bs 24 2)
  kcCode := BitVec.ofNat 2 (fieldAt bs 24 2 / 16384)
  db := byteAt bs 26
  kp := byteAt bs 27
  ki := byteAt bs 28
  sl := byteAt bs 29
  wLock := BitVec.ofNat 12 (fieldAt bs 30 3)
  eTol := BitVec.ofNat 12 (fieldAt bs 30 3 / 4096)
  wCap := BitVec.ofNat 16 (fieldAt bs 33 2)
  t := BitVec.ofNat 12 (fieldAt bs 35 2)
  bSlots := BitVec.ofNat 3 (fieldAt bs 35 2 / 4096)
  drop := fieldAt bs 35 2 / 32768 % 2 == 1
  nLearn := byteAt bs 37

/-- The setup arguments that 14 argument bytes hold (section 11.2). -/
def setupArgsOf (bs : List Byte) : SetupArgs where
  sMax := BitVec.ofNat 16 (fieldAt bs 0 2)
  cTol := BitVec.ofNat 16 (fieldAt bs 2 2)
  tKnife := byteAt bs 4
  lateTol := BitVec.ofNat 16 (fieldAt bs 5 2)
  tracking := byteAt bs 7
  emboss := byteAt bs 8
  shade := byteAt bs 9
  roll := byteAt bs 10
  knife := byteAt bs 11
  store := byteAt bs 12
  session := byteAt bs 13

/-- The optional 4-byte argument of READ ROLL and READ BATCH. -/
def optionalWord : List Byte → Option (BitVec 32)
  | [] => none
  | b :: bs => some (BitVec.ofNat 32 (fieldAt (b :: bs) 0 4))

/-- The request that a frame spells when the frame check of R197 passes it; none for a code outside the catalogue. -/
def requestOfFrame (p : Port) (bytes : List Byte) : Option Instr :=
  match bytes with
  | code :: _ :: args =>
    match code.toNat with
    | 1 => some (.readStatus p args)
    | 2 => some (.fetchReply p args)
    | 3 => some (.setNotices p (byteAt args 0))
    | 4 => some (.ackNotices p (byteAt args 0))
    | 8 => some (.resumeLine p)
    | 9 => some (.clearArm p)
    | 10 => some (.clearLine p)
    | 16 => some (.loadRecipe p (byteAt args 0))
    | 17 => some (.startRun p)
    | 18 => some (.endRun p)
    | 19 => some (.flushRun p)
    | 24 => some (.writeRecipe p (recipeImageOf args))
    | 25 => some (.readRecipe p (byteAt args 0))
    | 26 => some (.writeSetup p (setupArgsOf args))
    | 27 => some (.readSetup p)
    | 28 => some (.seedCounters p (BitVec.ofNat 32 (fieldAt args 0 4)) (BitVec.ofNat 32 (fieldAt args 4 4)))
    | 29 => some (.readCounters p)
    | 32 => some (.reportDefect p (BitVec.ofNat 32 (fieldAt args 0 4)) (byteAt args 4) (byteAt args 5)
              (BitVec.ofNat 16 (fieldAt args 6 2)))
    | 33 => some (.shadeReport p (BitVec.ofNat 32 (fieldAt args 0 4)) (BitVec.ofNat 16 (fieldAt args 4 2))
              (BitVec.ofNat 16 (fieldAt args 6 2)) (BitVec.ofNat 16 (fieldAt args 8 2)))
    | 34 => some (.readRepeat p (BitVec.ofNat 32 (fieldAt args 0 4)))
    | 40 => some (.readRoll p (optionalWord args))
    | 41 => some (.readBatch p (optionalWord args))
    | 48 => some (.getLabel p)
    | 49 => some (.labelDone p (BitVec.ofNat 32 (fieldAt args 0 4)))
    | 50 => some (.rollDisposition p (BitVec.ofNat 32 (fieldAt args 0 4)) (byteAt args 4))
    | 56 => some (.readEvents p (BitVec.ofNat 32 (fieldAt args 0 4)))
    | 57 => some (.clearEvents p)
    | _ => none
  | _ => none

end Sys2Proof
end

