-- ==== Sys2Proof/Machine/State.lean ====
section
/-! DEFINITION. The state of the DL460 as plain data, block by block as the manual holds it, with Fault, Refusal and the
state right after power-on of a part whose array was never written (log entry 1). -/

namespace Sys2Proof.Machine

/-! ### Shared small types -/

/-- One value for each command port. -/
structure PerPort (α : Type) where
  p : α
  f : α
  q : α
  deriving DecidableEq, Repr

/-- A colour reading, a reference, or sums of readings (Conventions, Shade values). -/
structure Lab where
  l : Int
  a : Int
  b : Int
  deriving DecidableEq, Repr

/-- Start point of a roll on the pattern (Terms). -/
inductive Phase where
  | a | b
  deriving DecidableEq, Repr

/-- Match mode of a recipe (section 9.2). -/
inductive MatchMode where
  | straight | drop
  deriving DecidableEq, Repr

/-- Repeats per cylinder revolution k_c: 1, 2 or 4 (section 9.2). -/
inductive RepeatsPerTurn where
  | one | two | four
  deriving DecidableEq, Repr

/-- A recipe as a VALID slot or the loaded recipe holds it (section 9.2). -/
structure Recipe where
  pattern : Pattern
  rNom : Nat
  rTol : Nat
  mode : MatchMode
  drop16 : Nat
  phiCut : Nat
  lOrd : Nat
  lShort : Nat
  lookAhead : Bool
  emboss : Bool
  kc : RepeatsPerTurn
  cc : Nat
  aT : Nat
  db : Nat
  kp : Nat
  ki : Nat
  sl : Nat
  wLock : Nat
  wCap : Nat
  eTol : Nat
  t : Nat
  nLearn : Nat
  bSlots : Nat
  deriving DecidableEq, Repr

/-- Configured action of an event group (section 9.3). -/
inductive GroupAction where
  | stop | flag | note | native
  deriving DecidableEq, Repr

/-- The event groups (section 10.1). -/
inductive Group where
  | tracking | emboss | shade | roll | knife | store | session
  deriving DecidableEq, Repr

/-- The action of each group (section 9.3). -/
structure GroupActions where
  tracking : GroupAction
  emboss : GroupAction
  shade : GroupAction
  roll : GroupAction
  knife : GroupAction
  store : GroupAction
  session : GroupAction
  deriving DecidableEq, Repr

/-- The setup record (section 9.3). -/
structure Setup where
  sMax : Nat
  cTol : Nat
  tKnife : Nat
  lateTol : Nat
  groups : GroupActions
  deriving DecidableEq, Repr

/-! ### Web Position Unit (chapter 1) -/

/-- Direction of a web encoder (R2). -/
inductive Direction where
  | forward | reverse
  deriving DecidableEq, Repr

/-- The levels of an encoder's A and B inputs (R1, R3). -/
structure Quad where
  a : Bool
  b : Bool
  deriving DecidableEq, Repr

/-- A capture of a mark sensor (R5): the position, and the cylinder angle that an EM capture holds as well. -/
structure Capture where
  pos : Word
  angle : Option Angle
  deriving DecidableEq, Repr

/-- What the WPU keeps of one mark sensor: the last accepted capture (R9) and the spurious counter (R11). -/
structure SensorState where
  last : Option Capture
  spurious : Nat
  deriving DecidableEq, Repr

/-- State of the Web Position Unit. -/
structure Wpu where
  pe : Word
  le : Word
  ca : Angle
  peDir : Direction
  leDir : Direction
  peIn : Quad
  leIn : Quad
  caIn : Quad
  pm : SensorState
  em : SensorState
  cm : SensorState
  spliceArm : Bool
  reach : Bool
  deriving DecidableEq, Repr

/-! ### Session Controller (chapter 2) -/

/-- The session states in which a recipe is loaded (section 2.1). -/
inductive RunState where
  | armed | running | draining
  deriving DecidableEq, Repr

/-- The session state with the loaded recipe, which is present in every state except UNLOADED (section 2.1). -/
inductive Session where
  | unloaded
  | loaded (run : RunState) (recipe : Recipe)
  deriving DecidableEq, Repr

/-- State of the Session Controller. -/
structure SessionControl where
  session : Session
  nextSeq : Nat
  seqSpent : Bool
  stopLatch : Bool
  clearArmed : PerPort Bool
  deriving DecidableEq, Repr

/-! ### Repeat Tracker (chapter 3) -/

/-- Emboss status of a record (section 3.1). -/
inductive EmbossStatus where
  | awaiting | matched | missed | untracked
  deriving DecidableEq, Repr

/-- Register verdict of a record (section 3.1). -/
inductive RegisterVerdict where
  | pending | inRegister | outOfRegister | notApplicable | none
  deriving DecidableEq, Repr

/-- Shade verdict of a record (section 3.1). -/
inductive ShadeVerdict where
  | pending
  | batch (code : Nat)
  | noBatch
  deriving DecidableEq, Repr

/-- Kind of a defect (section 3.1). -/
inductive DefectKind where
  | print | emboss | surface | edge
  deriving DecidableEq, Repr

/-- Severity of a defect (section 3.1). -/
inductive Severity where
  | minor | major
  deriving DecidableEq, Repr

/-- A defect entry (section 3.1). -/
structure Defect where
  kind : DefectKind
  severity : Severity
  cross : Option Nat
  deriving DecidableEq, Repr

/-- A repeat record (section 3.1). -/
structure RepeatRecord where
  seq : Nat
  printPos : Word
  printLen : Option Nat
  leader : Bool
  irregular : Bool
  splice : Bool
  emboss : EmbossStatus
  embossPos : Option Word
  embossLen : Option Nat
  stretch : Option Int
  embossError : Option Int
  register : RegisterVerdict
  reading : Option Lab
  shade : ShadeVerdict
  defects : List Defect
  overflow : Nat
  major : Bool
  knifeMissed : Bool
  untrackedAtKnife : Bool
  deriving DecidableEq, Repr

/-- Tracking state of a point (R39). -/
inductive TrackMode where
  | seeking | sync | lost
  deriving DecidableEq, Repr

/-- A tracking point (R39). -/
structure TrackPoint where
  mode : TrackMode
  regain : Nat
  deriving DecidableEq, Repr

/-- State of the Repeat Tracker. -/
structure RepeatTracker where
  queue : List RepeatRecord
  leaderNext : Bool
  emboss : TrackPoint
  knife : TrackPoint
  deriving DecidableEq, Repr

/-! ### Emboss Register Controller (chapter 4) -/

/-- State of the ERC (R62). -/
inductive ErcMode where
  | off | acquire | locked | hold
  deriving DecidableEq, Repr

/-- State of the Emboss Register Controller. -/
structure Erc where
  mode : ErcMode
  integral : Int
  lastOutput : Int
  lockRun : Nat
  lossRun : Nat
  pendingDuty : Nat
  appliedDuty : Nat
  deriving DecidableEq, Repr

/-! ### Shade Classifier and Batch Table (chapter 5) -/

/-- State of a batch; the learning sums and the sample count are present while LEARNING (section 5.1, R85). -/
inductive BatchState where
  | learning (sums : Lab) (count : Nat)
  | opened
  | closed
  deriving DecidableEq, Repr

/-- A Batch Table entry (section 5.1). -/
structure BatchEntry where
  code : Nat
  state : BatchState
  reference : Lab
  lastSeq : Nat
  queued : Nat
  rolls : Nat
  labelled : Nat
  deriving DecidableEq, Repr

/-! ### Roll Builder (chapter 6) -/

/-- State of a roll (R111). -/
inductive RollState where
  | building | ending | closed | held
  deriving DecidableEq, Repr

/-- Class of a roll (section 6.1). -/
inductive RollClass where
  | full | short | remnant
  deriving DecidableEq, Repr

/-- Hold flags of a roll (section 6.1). -/
structure HoldFlags where
  cutFault : Bool
  offMatch : Bool
  trackingFault : Bool
  deriving DecidableEq, Repr

/-- A Roll Table entry (section 6.1). -/
structure Roll where
  serial : Nat
  batch : Nat
  state : RollState
  phase : Phase
  mode : MatchMode
  pattern : Pattern
  repeats : Nat
  length : Nat
  cls : Option RollClass
  sums : Lab
  shadeCount : Nat
  minors : Nat
  hold : HoldFlags
  firstSeq : Nat
  lastSeq : Nat
  startPos : Word
  endPos : Option Word
  accepted : Bool
  deriving DecidableEq, Repr

/-- The current segment (section 6.2). -/
inductive Segment where
  | none
  | roll (serial : Nat)
  | waste
  | awaitA
  deriving DecidableEq, Repr

/-- The last hand-over: capture and credited length (R113). -/
structure HandOver where
  capture : Word
  len : Nat
  deriving DecidableEq, Repr

/-- State of the Roll Builder. -/
structure RollBuilder where
  rolls : List Roll
  segment : Segment
  nextDrop : Phase
  pendingDrop : Bool
  lastHandOver : Option HandOver
  deriving DecidableEq, Repr

/-! ### Knife Sequencer (chapter 7) -/

/-- Path of the web behind the knife (R150). -/
inductive Divert where
  | roll | waste
  deriving DecidableEq, Repr

/-- Kind of a cut, with the serials of the rolls it ends and starts (section 7.1). -/
inductive CutKind where
  | ends (ending : Nat)
  | starts (starting : Nat)
  | endStart (ending starting : Nat)
  deriving DecidableEq, Repr

/-- A cut of the Knife Queue (section 7.1). -/
structure Cut where
  pos : Word
  kind : CutKind
  dest : Divert
  raised : Bool
  deriving DecidableEq, Repr

/-- The outstanding cut: with its lateness, LATE flag, and the T_knife of the running knife wait timer and the late
tolerance it took at firing (R145, R146). -/
structure Outstanding where
  cut : Cut
  lateness : Int
  late : Bool
  tKnife : Nat
  lateTol : Nat
  deriving DecidableEq, Repr

/-- State of the Knife Sequencer. -/
structure KnifeSequencer where
  queue : List Cut
  outstanding : Option Outstanding
  knifeReq : Bool
  divert : Divert
  deriving DecidableEq, Repr

/-! ### Label Dispatcher (chapter 8) -/

/-- State of the Label Dispatcher: the label order, the outstanding label and the head-ready indication. -/
structure LabelDispatcher where
  order : List Nat
  outstanding : Option Nat
  headReady : Bool
  deriving DecidableEq, Repr

/-! ### Persistent Store (chapter 9) -/

/-- A batch counter and a roll counter (R174, R175). -/
structure Counters where
  batch : Nat
  roll : Nat
  deriving DecidableEq, Repr

/-- The non-volatile array (R174). An absent content is one that is not marked valid; such a slot reads EMPTY. -/
structure StoreArray where
  setup : Option Setup
  slots : Vector (Option Recipe) 8
  counters : Option Counters
  deriving DecidableEq, Repr

/-- What a write in flight writes (R177, R178). -/
inductive WriteTarget where
  | recipe (slot : Fin 8) (content : Recipe)
  | setup (content : Setup)
  deriving DecidableEq, Repr

/-- A recipe or setup write: the port whose request started it, what it writes, and whether a field was clamped (R176). -/
structure StoreWrite where
  port : Port
  target : WriteTarget
  clamped : Bool
  deriving DecidableEq, Repr

/-- A commit series: the values the attempt in flight took at its start (R182), the failures of the series so far
(R183), and whether SEED COUNTERS started it (R180). -/
structure CommitSeries where
  values : Counters
  failures : Nat
  seeded : Bool
  deriving DecidableEq, Repr

/-- The operation state with what is in flight (section 9.5). `suspending` says that a commit request has come and the
suspension of the write has not taken effect yet (R181). -/
inductive StoreOp where
  | idle
  | writing (write : StoreWrite) (suspending : Bool)
  | committing (series : CommitSeries)
  | committingOver (series : CommitSeries) (suspended : StoreWrite)
  deriving DecidableEq, Repr

/-- Counter validity (R179). -/
inductive Validity where
  | valid | invalid
  deriving DecidableEq, Repr

/-- State of the Persistent Store. -/
structure PersistentStore where
  array : StoreArray
  setup : Setup
  setupStored : Bool
  reserved : Option Counters
  mirror : Option Counters
  validity : Validity
  op : StoreOp
  commitPending : Bool
  failures : Nat
  deriving DecidableEq, Repr

/-! ### Line Event Table (chapter 10) -/

/-- The stations (section 10.1). -/
inductive Station where
  | print | emboss | quality | knife | label | store | line
  deriving DecidableEq, Repr

/-- Actions an event can take (section 10.1). -/
inductive Action where
  | note | flag | stop
  deriving DecidableEq, Repr

/-- The event codes, in the order of the table of R188. -/
inductive EventCode where
  | powerUp | angleSlip | drainComplete | runFlushed | lineCleared | queueFull | spuriousMark | embossMissed
  | knifeMissed | trackLost | trackRegained | registerLocked | registerLost | batchOpened | batchClosed
  | batchTableFull | counterExhausted | rollTableFull | rollTableLow | knifeOverrun | cutLate | knifeTimeout
  | knifeLateAck | remnantCut | rollVoided | storeFail | storeRecovered
  deriving DecidableEq, Repr

/-- An entry of the event table (section 10.1). -/
structure EventEntry where
  number : Nat
  le : Word
  station : Station
  group : Group
  code : EventCode
  action : Action
  seq : Option Nat
  serial : Option Nat
  batch : Option Nat
  extra : BitVec 16
  deriving DecidableEq, Repr

/-- The station references (R192). -/
structure StationRefs where
  print : Bool
  emboss : Bool
  quality : Bool
  knife : Bool
  label : Bool
  store : Bool
  line : Bool
  deriving DecidableEq, Repr

/-- State of the Line Event Table. -/
structure LineEvents where
  entries : List EventEntry
  total : Nat
  discarded : Nat
  refs : StationRefs
  summary : Bool
  deriving DecidableEq, Repr

/-! ### Command Ports (chapter 11) -/

/-- Status codes of replies (section 11.3). -/
inductive Status where
  | done | doneClamped | pending | busy | notPermitted | wrongState | outOfRange | noSuchRepeat | tooLate
  | alreadyReported | notFound | notReady | noLabel | emptySlot | storeFailed | notArmed | badFrame
  deriving DecidableEq, Repr

/-- A reply slot (section 11.3). -/
structure ReplySlot where
  status : Status
  code : Byte
  data : List Byte
  fetched : Bool
  deriving DecidableEq, Repr

/-- State of one command port; `sdo` records the bytes that SDO carried during the last frame (log entry 13). -/
structure PortState where
  frame : List Byte
  sdo : List Byte
  slot : ReplySlot
  replyLost : Bool
  raw : BitVec 8
  enable : BitVec 8
  deriving DecidableEq, Repr

/-! ### The machine -/

/-- The state of the part, and the queue of the commands that wait (the model's own field). -/
structure State where
  wpu : Wpu
  sc : SessionControl
  rt : RepeatTracker
  erc : Erc
  batches : List BatchEntry
  rb : RollBuilder
  ks : KnifeSequencer
  ld : LabelDispatcher
  ps : PersistentStore
  events : LineEvents
  ports : PerPort PortState
  pending : List Instr
  deriving DecidableEq, Repr

/-- Reasons to stop with a fault: none. The spec describes nothing that stops the part; safe. -/
inductive Fault where
  deriving DecidableEq, Repr

/-- Reasons to refuse a command. -/
inductive Refusal where
  /-- Raised by exec's arm of a command that has no meaning yet (no arm of this model does); safe. -/
  | notModelled (mnemonic : String)
  deriving DecidableEq, Repr

/-! ### Reset values -/

/-- Every group at NATIVE (section 9.3). -/
def GroupActions.default : GroupActions :=
  ⟨.native, .native, .native, .native, .native, .native, .native⟩

/-- The defaults of section 9.3. -/
def Setup.default : Setup := ⟨20000, 200, 50, 100, GroupActions.default⟩

/-- An empty reply slot reads NOT_FOUND with code 0 and length 0, and is marked fetched (R200, R204). -/
def ReplySlot.empty : ReplySlot := ⟨.notFound, 0, [], true⟩

/-- A port after device reset (R204). -/
def PortState.afterReset : PortState := ⟨[], [], ReplySlot.empty, false, 0, 0⟩

/-- No station reference set. -/
def StationRefs.clear : StationRefs := ⟨false, false, false, false, false, false, false⟩

/-- The WPU after device reset, on the encoder levels that stand (section 1.6; log entry 2). -/
def Wpu.afterReset (peIn leIn caIn : Quad) : Wpu :=
  ⟨0, 0, 0, .forward, .forward, peIn, leIn, caIn, ⟨none, 0⟩, ⟨none, 0⟩, ⟨none, 0⟩, false, false⟩

/-- The SC after device reset (R19). -/
def SessionControl.afterReset : SessionControl := ⟨.unloaded, 1, false, true, ⟨false, false, false⟩⟩

/-- The RT after device reset (R61). -/
def RepeatTracker.afterReset : RepeatTracker := ⟨[], true, ⟨.seeking, 0⟩, ⟨.seeking, 0⟩⟩

/-- The ERC after device reset (R62, R82). -/
def Erc.afterReset : Erc := ⟨.off, 0, 0, 0, 0, 128, 128⟩

/-- The RB after device reset (R113). -/
def RollBuilder.afterReset : RollBuilder := ⟨[], .none, .a, false, none⟩

/-- The KS after device reset (R152). -/
def KnifeSequencer.afterReset : KnifeSequencer := ⟨[], none, false, .waste⟩

/-- The LD after device reset (R173). -/
def LabelDispatcher.afterReset : LabelDispatcher := ⟨[], none, false⟩

/-- The array of a part that was never written (DESIGN CHOICE, log entry 1). -/
def StoreArray.blank : StoreArray := ⟨none, Vector.replicate 8 none, none⟩

/-- The PS after a device reset that found the array as given (R179). The reserved counters restart from a valid block,
also where a code reserved after the values in the block was never written and so comes again, against R98 and R128
(DESIGN CHOICE, log entry 25). -/
def PersistentStore.afterReset (array : StoreArray) : PersistentStore where
  array := array
  setup := array.setup.getD Setup.default
  setupStored := array.setup.isSome
  reserved := array.counters
  mirror := array.counters
  validity := if array.counters.isSome then .valid else .invalid
  op := .idle
  commitPending := false
  failures := 0

/-- R196: the entry POWER_UP, the only one after device reset; its extra is 0 after power-on, 1 after RESET. -/
def EventEntry.powerUp (cause : ResetCause) : EventEntry where
  number := 1
  le := 0
  station := .line
  group := .session
  code := .powerUp
  action := .note
  seq := none
  serial := none
  batch := none
  extra := match cause with
    | .powerOn => 0
    | .resetInput => 1

/-- The LET after device reset (R196). -/
def LineEvents.afterReset (cause : ResetCause) : LineEvents :=
  ⟨[EventEntry.powerUp cause], 1, 0, StationRefs.clear, false⟩

/-- The machine right after power-on of a part whose array was never written. -/
def State.reset : State where
  wpu := Wpu.afterReset ⟨false, false⟩ ⟨false, false⟩ ⟨false, false⟩
  sc := SessionControl.afterReset
  rt := RepeatTracker.afterReset
  erc := Erc.afterReset
  batches := []
  rb := RollBuilder.afterReset
  ks := KnifeSequencer.afterReset
  ld := LabelDispatcher.afterReset
  ps := PersistentStore.afterReset StoreArray.blank
  events := LineEvents.afterReset .powerOn
  ports := ⟨PortState.afterReset, PortState.afterReset, PortState.afterReset⟩
  pending := []

end Sys2Proof.Machine
end

