-- ==== Sys2Proof/Machine/Ops.lean ====
section
/-! DEFINITION. The shared operations: arithmetic of the Conventions (lengths, signed distances, reached, rounding,
limits), keyed tables, ports and notices, and the accessors of the state. -/

namespace Sys2Proof.Machine

/-! ### Arithmetic of the Conventions -/

/-- The length from capture a to capture b: (b − a) modulo 2^32, unsigned (Conventions). -/
def lengthFrom (a b : Word) : Nat := (b - a).toNat

/-- The signed distance from position a to position b (Conventions). -/
def signedDistance (a b : Word) : Int := (b - a).toInt

/-- A position is reached when (LE − p) modulo 2^32, read as signed, is 0 or greater (Conventions, R1). -/
def isReached (le pos : Word) : Bool := decide (0 ≤ signedDistance pos le)

/-- Round n ÷ d to the nearest integer, halves away from zero, computed exactly (Conventions, Rounding). -/
def roundDiv (n : Int) (d : Nat) : Int :=
  if d = 0 then Config.quotientByZero n
  else if 0 ≤ n then (2 * n + d) / (2 * d)
  else -((2 * (-n) + d) / (2 * d))

/-- Clamp (x, lo, hi) on integers (Conventions). -/
def clampInt (lo hi x : Int) : Int := max lo (min hi x)

/-- Clamp (x, lo, hi) on naturals (Conventions). -/
def clampNat (lo hi x : Nat) : Nat := max lo (min hi x)

/-- Count up by n, saturating at the limit. -/
def satAdd (limit x n : Nat) : Nat := min limit (x + n)

/-- An unsigned 16-bit extra field, saturating at 65,535. -/
def extraNat (n : Nat) : BitVec 16 := BitVec.ofNat 16 (min 65535 n)

/-- A signed 16-bit extra field, entered at its limits when beyond them (chapter 4, note to R72). -/
def extraInt (x : Int) : BitVec 16 := BitVec.ofInt 16 (clampInt (-32768) 32767 x)

/-- The sum of two colours, component by component. -/
def Lab.add (x y : Lab) : Lab := ⟨x.l + y.l, x.a + y.a, x.b + y.b⟩

/-- The rounded mean of n readings with the given sums (R92, R162). -/
def Lab.mean (sums : Lab) (n : Nat) : Lab := ⟨roundDiv sums.l n, roundDiv sums.a n, roundDiv sums.b n⟩

/-- The other start point. -/
def Phase.opposite : Phase → Phase
  | .a => .b
  | .b => .a

/-! ### Keyed tables, in rising order of key -/

/-- Put an entry at its place by key. -/
def insertBy {α : Type} (key : α → Nat) (x : α) : List α → List α
  | [] => [x]
  | y :: ys => if key x < key y then x :: y :: ys else y :: insertBy key x ys

/-- Change the entry with the given key. -/
def updateBy {α : Type} (key : α → Nat) (k : Nat) (f : α → α) (l : List α) : List α :=
  l.map fun x => if key x = k then f x else x

/-- The entry with the given key. -/
def findBy {α : Type} (key : α → Nat) (k : Nat) (l : List α) : Option α := l.find? fun x => decide (key x = k)

/-- Remove the entry with the given key. -/
def eraseBy {α : Type} (key : α → Nat) (k : Nat) (l : List α) : List α := l.filter fun x => decide (key x ≠ k)

/-! ### Ports and notices -/

/-- The value of one port. -/
def PerPort.get {α : Type} (x : PerPort α) : Port → α
  | .portP => x.p
  | .portF => x.f
  | .portQ => x.q

/-- Replace the value of one port. -/
def PerPort.set {α : Type} (x : PerPort α) (port : Port) (v : α) : PerPort α :=
  match port with
  | .portP => { x with p := v }
  | .portF => { x with f := v }
  | .portQ => { x with q := v }

/-- Change the value of every port. -/
def PerPort.map {α : Type} (x : PerPort α) (f : α → α) : PerPort α := ⟨f x.p, f x.f, f x.q⟩

/-- Bit of the notice EVENT (section 11.5). -/
def noticeEvent : BitVec 8 := 0x01
/-- Bit of the notice LABEL. -/
def noticeLabel : BitVec 8 := 0x02
/-- Bit of the notice HELD. -/
def noticeHeld : BitVec 8 := 0x04
/-- Bit of the notice CUT. -/
def noticeCut : BitVec 8 := 0x08
/-- Bit of the notice BATCH. -/
def noticeBatch : BitVec 8 := 0x10
/-- Bit of the notice REGISTER. -/
def noticeRegister : BitVec 8 := 0x20
/-- Bit of the notice STORE. -/
def noticeStore : BitVec 8 := 0x40
/-- Bit of the notice CLEARED. -/
def noticeCleared : BitVec 8 := 0x80

/-- R202: a raised notice sets its bit in the raw set. -/
def PortState.raise (p : PortState) (bit : BitVec 8) : PortState := { p with raw := p.raw ||| bit }

/-- A reply as a command forms it: status and data (R199). -/
structure Answer where
  status : Status
  data : List Byte
  deriving DecidableEq, Repr

/-- A reply without data. -/
def Answer.plain (st : Status) : Answer := ⟨st, []⟩

/-- R199: a new reply replaces the old one whole; reply-lost is set when the old one was not fetched, and a reply that
shows PENDING counts as not fetched. -/
def PortState.place (p : PortState) (code : Byte) (a : Answer) : PortState :=
  { p with
    slot := ⟨a.status, code, a.data, false⟩
    replyLost := p.replyLost || !p.slot.fetched || p.slot.status == .pending }

/-- R199: the final status of a store operation goes into the slot while it is still tied to the operation, that is
while it shows PENDING (log entry 20); otherwise it is discarded. -/
def PortState.postFinal (p : PortState) (st : Status) : PortState :=
  if p.slot.status = .pending then { p with slot := { p.slot with status := st, data := [] } } else p

/-- Change one port. -/
def State.onPort (s : State) (port : Port) (f : PortState → PortState) : State :=
  { s with ports := s.ports.set port (f (s.ports.get port)) }

/-- R202: raise a notice on all three ports. -/
def State.raiseAll (s : State) (bit : BitVec 8) : State := { s with ports := s.ports.map fun p => p.raise bit }

/-! ### The request frame (R198) -/

/-- The frame buffer takes the bytes of the frame, and SDO carries the given bytes. -/
def State.openFrame (s : State) (port : Port) (bytes sdo : List Byte) : State :=
  s.onPort port fun p => { p with frame := bytes, sdo := sdo }

/-- R26, R198 step 2: the port's clear-armed flag is cleared. -/
def State.disarm (s : State) (port : Port) : State :=
  { s with sc := { s.sc with clearArmed := s.sc.clearArmed.set port false } }

/-- The state in which a request is carried out: its frame is in the buffer, SDO carried 0, and the port's clear-armed
flag is cleared (R198 steps 1 and 2). -/
def State.taken (s : State) (port : Port) (i : Instr) : State :=
  (s.openFrame port (requestBytes i) (List.replicate (requestBytes i).length 0)).disarm port

/-- R198: one request taken whole: frame, clear-armed flag, role check, the command's own effect, reply placed. -/
def takeRequest (port : Port) (i : Instr) (s : State) (body : State → State × Answer) : State :=
  if permitted (commandCode i) port then
    let r := body (s.taken port i)
    r.1.onPort port fun p => p.place (BitVec.ofNat 8 (commandCode i)) r.2
  else
    (s.taken port i).onPort port fun p => p.place (BitVec.ofNat 8 (commandCode i)) (Answer.plain .notPermitted)

/-! ### Accessors of the tables -/

/-- The batch with the given code. -/
def State.findBatch (s : State) (code : Nat) : Option BatchEntry := findBy BatchEntry.code code s.batches

/-- Change the batch with the given code. -/
def State.updateBatch (s : State) (code : Nat) (f : BatchEntry → BatchEntry) : State :=
  { s with batches := updateBy BatchEntry.code code f s.batches }

/-- The roll with the given serial. -/
def State.findRoll (s : State) (serial : Nat) : Option Roll := findBy Roll.serial serial s.rb.rolls

/-- Change the roll with the given serial. -/
def State.updateRoll (s : State) (serial : Nat) (f : Roll → Roll) : State :=
  { s with rb := { s.rb with rolls := updateBy Roll.serial serial f s.rb.rolls } }

/-- Remove the roll with the given serial. -/
def State.eraseRoll (s : State) (serial : Nat) : State :=
  { s with rb := { s.rb with rolls := eraseBy Roll.serial serial s.rb.rolls } }

/-- The record with the given seq. -/
def State.findRecord (s : State) (seq : Nat) : Option RepeatRecord := findBy RepeatRecord.seq seq s.rt.queue

/-- R34: a write to a record; it has no effect when the record has left the queue. -/
def State.updateRecord (s : State) (seq : Nat) (f : RepeatRecord → RepeatRecord) : State :=
  { s with rt := { s.rt with queue := updateBy RepeatRecord.seq seq f s.rt.queue } }

/-- The seq of the record at the head of the Repeat Queue. -/
def State.headSeq (s : State) : Option Nat := s.rt.queue.head?.map RepeatRecord.seq

/-- The seq of the record at the tail of the Repeat Queue. -/
def State.tailSeq (s : State) : Option Nat := s.rt.queue.getLast?.map RepeatRecord.seq

/-- What the WPU keeps of a sensor. -/
def Wpu.sensor (w : Wpu) : Sensor → SensorState
  | .pm => w.pm
  | .em => w.em
  | .cm => w.cm

/-- Replace what the WPU keeps of a sensor. -/
def Wpu.setSensor (w : Wpu) (sensor : Sensor) (v : SensorState) : Wpu :=
  match sensor with
  | .pm => { w with pm := v }
  | .em => { w with em := v }
  | .cm => { w with cm := v }

/-- The credited length of a record: Le, else Lp, else R_nom (R113, R131; R43 for the reference length). -/
def RepeatRecord.creditedLen (k : RepeatRecord) (r : Recipe) : Nat := (k.embossLen.or k.printLen).getD r.rNom

/-- The serial of the roll that a cut ends. -/
def CutKind.ending : CutKind → Option Nat
  | .ends e => some e
  | .starts _ => none
  | .endStart e _ => some e

/-- The serial of the roll that a cut starts. -/
def CutKind.starting : CutKind → Option Nat
  | .ends _ => none
  | .starts t => some t
  | .endStart _ t => some t

/-- Whether a roll carries any hold flag. -/
def HoldFlags.any (h : HoldFlags) : Bool := h.cutFault || h.offMatch || h.trackingFault

/-- Nothing of the Repeat Queue, the Knife Queue and the outstanding cut stands (R21, R23, R24). -/
def State.webClear (s : State) : Bool := s.rt.queue.isEmpty && s.ks.queue.isEmpty && s.ks.outstanding.isNone

end Sys2Proof.Machine
end

