-- ==== Sys2Proof/Machine/Flags.lean ====
section
/-! DEFINITION. Status and flag computations: the fixed attributes of the event codes (R188), the effective action
(R189), station references and the line summary (R192), the computed output pins, the good-repeat test (R114), and the
length tests of the tracking points (R42, R43). -/

namespace Sys2Proof.Machine

/-! ### Events -/

/-- The group of a code (R188). -/
def EventCode.group : EventCode → Group
  | .powerUp | .drainComplete | .runFlushed | .lineCleared => .session
  | .queueFull | .spuriousMark | .embossMissed | .knifeMissed | .trackLost | .trackRegained => .tracking
  | .angleSlip | .registerLocked | .registerLost => .emboss
  | .batchOpened | .batchClosed | .batchTableFull => .shade
  | .counterExhausted | .storeFail | .storeRecovered => .store
  | .rollTableFull | .rollTableLow | .rollVoided => .roll
  | .knifeOverrun | .cutLate | .knifeTimeout | .knifeLateAck | .remnantCut => .knife

/-- The native action of a code (R188). -/
def EventCode.nativeAction : EventCode → Action
  | .powerUp | .drainComplete | .lineCleared | .spuriousMark | .trackRegained | .registerLocked | .batchOpened
  | .batchClosed | .knifeLateAck | .remnantCut | .rollVoided | .storeRecovered => .note
  | .angleSlip | .runFlushed | .embossMissed | .knifeMissed | .rollTableLow | .cutLate | .storeFail => .flag
  | .queueFull | .trackLost | .registerLost | .batchTableFull | .counterExhausted | .rollTableFull | .knifeOverrun
  | .knifeTimeout => .stop

/-- The default action of a code: its native action, but STOP for ROLL_TABLE_LOW (R188). -/
def EventCode.defaultAction (c : EventCode) : Action :=
  match c with
  | .rollTableLow => .stop
  | c => c.nativeAction

/-- The codes whose logging is a recovery of their station (R188, R192). -/
def EventCode.isRecovery : EventCode → Bool
  | .registerLocked | .trackRegained | .storeRecovered => true
  | .powerUp | .angleSlip | .drainComplete | .runFlushed | .lineCleared | .queueFull | .spuriousMark | .embossMissed
  | .knifeMissed | .trackLost | .registerLost | .batchOpened | .batchClosed | .batchTableFull | .counterExhausted
  | .rollTableFull | .rollTableLow | .knifeOverrun | .cutLate | .knifeTimeout | .knifeLateAck | .remnantCut
  | .rollVoided | .storeFail => false

/-- The configured action of a group. -/
def GroupActions.get (g : GroupActions) : Group → GroupAction
  | .tracking => g.tracking
  | .emboss => g.emboss
  | .shade => g.shade
  | .roll => g.roll
  | .knife => g.knife
  | .store => g.store
  | .session => g.session

/-- The effective action of an event (R189). -/
def effectiveAction (c : EventCode) (g : GroupAction) : Action :=
  match c.nativeAction with
  | .note => .note
  | .flag | .stop =>
    match g with
    | .stop => .stop
    | .flag => .flag
    | .note => .note
    | .native => c.defaultAction

/-- The reference of a station. -/
def StationRefs.get (r : StationRefs) : Station → Bool
  | .print => r.print
  | .emboss => r.emboss
  | .quality => r.quality
  | .knife => r.knife
  | .label => r.label
  | .store => r.store
  | .line => r.line

/-- Set or clear the reference of a station. -/
def StationRefs.put (r : StationRefs) (st : Station) (v : Bool) : StationRefs :=
  match st with
  | .print => { r with print := v }
  | .emboss => { r with emboss := v }
  | .quality => { r with quality := v }
  | .knife => { r with knife := v }
  | .label => { r with label := v }
  | .store => { r with store := v }
  | .line => { r with line := v }

/-- Whether any station reference is set: the line summary (R192). -/
def StationRefs.any (r : StationRefs) : Bool :=
  r.print || r.emboss || r.quality || r.knife || r.label || r.store || r.line

/-- Change a station reference, and the line summary with it (R192). -/
def LineEvents.putRef (ev : LineEvents) (st : Station) (v : Bool) : LineEvents :=
  { ev with refs := ev.refs.put st v, summary := (ev.refs.put st v).any }

/-! ### Output pins that are computed -/

/-- LINE_STOP is asserted while the stop latch is set (R30). -/
def State.lineStop (s : State) : Bool := s.sc.stopLatch

/-- ATTN of a port is asserted while its raw set and its enable set have a bit in common (R202). -/
def PortState.attn (p : PortState) : Bool := (p.raw &&& p.enable) != 0

/-- TRIM at one of the 256 steps of a PWM period: high for the first d steps, d being the applied duty (R80). -/
def State.trimHigh (s : State) (step : Fin 256) : Bool := decide (step.val < s.erc.appliedDuty)

/-! ### Records -/

/-- The good-repeat test (R114). -/
def RepeatRecord.isGood (k : RepeatRecord) : Bool :=
  !k.leader && !k.irregular && !k.splice && k.emboss == .matched && k.embossLen.isSome &&
  (k.register == .inRegister || k.register == .notApplicable) &&
  (match k.shade with
    | .batch _ => true
    | .pending | .noBatch => false) &&
  !k.major && !k.untrackedAtKnife

/-- A record of the look-ahead scan that is known to be bad (R126). -/
def RepeatRecord.knownBad (k : RepeatRecord) : Bool :=
  k.leader || k.irregular || k.splice || k.major || k.shade == .noBatch || k.emboss == .missed ||
  k.emboss == .untracked || (k.emboss == .matched && k.embossLen.isNone) || k.register == .outOfRegister ||
  k.register == .none

/-- The verdict that a record becoming MISSED or UNTRACKED keeps: NONE if it was PENDING (R41, R47, R48). -/
def RegisterVerdict.lostTrack (v : RegisterVerdict) : RegisterVerdict := if v = .pending then .none else v

/-! ### Length tests of the tracking points -/

/-- What a point tests a record against: reference length and tolerance. -/
structure Window where
  ref : Nat
  tol : Nat
  deriving DecidableEq, Repr

/-- The window of a record at the emboss point (R42). -/
def embossWindow (r : Recipe) (u : Setup) (k : RepeatRecord) : Window :=
  ⟨k.printLen.getD r.rNom, k.printLen.getD r.rNom * u.sMax / 1000000⟩

/-- The window of a record at the knife point (R43). -/
def knifeWindow (r : Recipe) (u : Setup) (k : RepeatRecord) : Window := ⟨k.creditedLen r, u.cTol⟩

/-- A length lies within ref ± tol, both bounds included (section 3.3.3). -/
def Window.fits (w : Window) (m : Nat) : Bool := decide (w.ref ≤ m + w.tol) && decide (m ≤ w.ref + w.tol)

/-- A length below ref − tol (R46). -/
def Window.short (w : Window) (m : Nat) : Bool := decide (m + w.tol < w.ref)

/-- The window of two records together (R47). -/
def Window.join (v w : Window) : Window := ⟨v.ref + w.ref, v.tol + w.tol⟩

/-- The measured length at a point: from the previous accepted capture to this one (section 3.3; log entry 6). -/
def measured (prev : Option Capture) (capture : Word) : Nat :=
  lengthFrom ((prev.map Capture.pos).getD Config.absentCapture) capture

end Sys2Proof.Machine
end

