-- ==== Sys2Proof/Machine/Operands.lean ====
section
/-! DEFINITION. The argument forms of the requests: slot numbers, the recipe image with its range tests and clamps
(R176), the setup arguments (R178), enumerated arguments (section 11.2), and the shade and defect arguments. -/

namespace Sys2Proof.Machine

/-- A recipe slot number, 1 to 8, as the place of its slot; none outside that range (R20, R176, R186). -/
def slotPlace (n : Nat) : Option (Fin 8) := if h : 1 ≤ n ∧ n ≤ 8 then some ⟨n - 1, by omega⟩ else none

/-- The content of a recipe slot (R174). -/
def StoreArray.slot (a : StoreArray) (i : Fin 8) : Option Recipe := a.slots[i]

/-- Replace the content of a recipe slot. -/
def StoreArray.setSlot (a : StoreArray) (i : Fin 8) (v : Option Recipe) : StoreArray :=
  { a with slots := a.slots.set i v }

/-! ### Recipes -/

/-- The match mode of the image's mode bit (section 11.6). -/
def matchModeOf (drop : Bool) : MatchMode := if drop then .drop else .straight

/-- k_c of its code; none for the code 3 (section 11.6). -/
def repeatsOf (code : BitVec 2) : Option RepeatsPerTurn :=
  match code.toNat with
  | 0 => some .one
  | 1 => some .two
  | 2 => some .four
  | _ => none

/-- k_c as a number (R69). -/
def RepeatsPerTurn.num : RepeatsPerTurn → Nat
  | .one => 1
  | .two => 2
  | .four => 4

/-- The structural fields are within their ranges, each against the range that the fields before it give (R176). Fields
of one or two values (look-ahead, emboss enable, match mode) and A_t, 14 bits wide, have no value out of range. -/
def structuralOk (m : RecipeImage) : Bool :=
  decide (4000 ≤ m.rNom.toNat) && decide (m.rNom.toNat ≤ 40000) &&
  decide (1 ≤ m.rTol.toNat) && decide (m.rTol.toNat ≤ m.rNom.toNat / 4) &&
  (!m.drop || decide (1 ≤ m.drop16.toNat)) &&
  decide (20000 ≤ m.lOrd.toNat) && decide (m.lOrd.toNat ≤ 2000000) &&
  decide (m.lShort.toNat ≤ m.lOrd.toNat) &&
  (repeatsOf m.kcCode).isSome &&
  decide (4000 ≤ m.cc.toNat) && decide (m.cc.toNat ≤ 160000)

/-- The recipe of an image, each tuning field set to the nearer limit of its range, W_cap after W_lock (R176). -/
def clampedRecipe (m : RecipeImage) : Recipe where
  pattern := m.pattern
  rNom := m.rNom.toNat
  rTol := m.rTol.toNat
  mode := matchModeOf m.drop
  drop16 := m.drop16.toNat
  phiCut := m.phiCut.toNat
  lOrd := m.lOrd.toNat
  lShort := m.lShort.toNat
  lookAhead := m.lookAhead
  emboss := m.emboss
  kc := (repeatsOf m.kcCode).getD .one
  cc := m.cc.toNat
  aT := m.aT.toNat
  db := clampNat 0 63 m.db.toNat
  kp := m.kp.toNat
  ki := m.ki.toNat
  sl := clampNat 1 127 m.sl.toNat
  wLock := clampNat 1 2047 m.wLock.toNat
  wCap := clampNat (clampNat 1 2047 m.wLock.toNat) 20000 m.wCap.toNat
  eTol := clampNat 1 2047 m.eTol.toNat
  t := clampNat 10 2000 m.t.toNat
  nLearn := clampNat 1 16 m.nLearn.toNat
  bSlots := clampNat 1 4 m.bSlots.toNat

/-- Whether the clamps changed any field (R176). -/
def recipeWasClamped (m : RecipeImage) : Bool :=
  (clampedRecipe m).db != m.db.toNat || (clampedRecipe m).sl != m.sl.toNat || (clampedRecipe m).wLock != m.wLock.toNat ||
  (clampedRecipe m).wCap != m.wCap.toNat || (clampedRecipe m).eTol != m.eTol.toNat || (clampedRecipe m).t != m.t.toNat ||
  (clampedRecipe m).nLearn != m.nLearn.toNat || (clampedRecipe m).bSlots != m.bSlots.toNat

/-- The image of a stored recipe, with its slot number in byte 0 (section 11.6, R203). -/
def Recipe.image (r : Recipe) (slot : Nat) : RecipeImage where
  slot := BitVec.ofNat 4 slot
  drop16 := BitVec.ofNat 4 r.drop16
  pattern := r.pattern
  rNom := BitVec.ofNat 16 r.rNom
  rTol := BitVec.ofNat 14 r.rTol
  lookAhead := r.lookAhead
  emboss := r.emboss
  phiCut := BitVec.ofNat 16 r.phiCut
  lOrd := BitVec.ofNat 24 r.lOrd
  lShort := BitVec.ofNat 24 r.lShort
  cc := BitVec.ofNat 24 r.cc
  aT := BitVec.ofNat 14 r.aT
  kcCode := match r.kc with
    | .one => 0
    | .two => 1
    | .four => 2
  db := BitVec.ofNat 8 r.db
  kp := BitVec.ofNat 8 r.kp
  ki := BitVec.ofNat 8 r.ki
  sl := BitVec.ofNat 8 r.sl
  wLock := BitVec.ofNat 12 r.wLock
  eTol := BitVec.ofNat 12 r.eTol
  wCap := BitVec.ofNat 16 r.wCap
  t := BitVec.ofNat 12 r.t
  bSlots := BitVec.ofNat 3 r.bSlots
  drop := r.mode == .drop
  nLearn := BitVec.ofNat 8 r.nLearn

/-! ### Setup -/

/-- A group action of its byte; none beyond the list (section 11.2). -/
def groupActionOf (b : Byte) : Option GroupAction :=
  match b.toNat with
  | 0 => some .stop
  | 1 => some .flag
  | 2 => some .note
  | 3 => some .native
  | _ => none

/-- The group actions of the arguments; none when one of the bytes is beyond the list (R178). -/
def setupGroups (u : SetupArgs) : Option GroupActions := do
  let tracking ← groupActionOf u.tracking
  let emboss ← groupActionOf u.emboss
  let shade ← groupActionOf u.shade
  let roll ← groupActionOf u.roll
  let knife ← groupActionOf u.knife
  let store ← groupActionOf u.store
  let session ← groupActionOf u.session
  return ⟨tracking, emboss, shade, roll, knife, store, session⟩

/-- The setup of the arguments, each number set to the nearer limit of its range (R178, section 9.3). -/
def clampedSetup (u : SetupArgs) (g : GroupActions) : Setup where
  sMax := clampNat 0 50000 u.sMax.toNat
  cTol := clampNat 1 4000 u.cTol.toNat
  tKnife := clampNat 5 250 u.tKnife.toNat
  lateTol := clampNat 0 4000 u.lateTol.toNat
  groups := g

/-- Whether the clamps changed any field (R178). -/
def setupWasClamped (u : SetupArgs) (g : GroupActions) : Bool :=
  (clampedSetup u g).sMax != u.sMax.toNat || (clampedSetup u g).cTol != u.cTol.toNat ||
  (clampedSetup u g).tKnife != u.tKnife.toNat || (clampedSetup u g).lateTol != u.lateTol.toNat

/-- The number of a group action on the wire (section 11.2). -/
def GroupAction.byte : GroupAction → Byte
  | .stop => 0
  | .flag => 1
  | .note => 2
  | .native => 3

/-- A setup in the layout of the WRITE SETUP arguments (R203). -/
def Setup.args (u : Setup) : SetupArgs where
  sMax := BitVec.ofNat 16 u.sMax
  cTol := BitVec.ofNat 16 u.cTol
  tKnife := BitVec.ofNat 8 u.tKnife
  lateTol := BitVec.ofNat 16 u.lateTol
  tracking := u.groups.tracking.byte
  emboss := u.groups.emboss.byte
  shade := u.groups.shade.byte
  roll := u.groups.roll.byte
  knife := u.groups.knife.byte
  store := u.groups.store.byte
  session := u.groups.session.byte

/-! ### Reports -/

/-- A defect kind of its byte (sections 3.1, 11.2). -/
def defectKindOf (b : Byte) : Option DefectKind :=
  match b.toNat with
  | 0 => some .print
  | 1 => some .emboss
  | 2 => some .surface
  | 3 => some .edge
  | _ => none

/-- A severity of its byte. -/
def severityOf (b : Byte) : Option Severity :=
  match b.toNat with
  | 0 => some .minor
  | 1 => some .major
  | _ => none

/-- The defect of the arguments of REPORT DEFECT; none when one of them is out of range. A cross position of 65,535 is
absent, and one above 2,000 out of range (R57, section 11.2). -/
def defectOf (kind severity : Byte) (cross : BitVec 16) : Option Defect :=
  match defectKindOf kind, severityOf severity with
  | some k, some v =>
    if cross.toNat = 65535 then some ⟨k, v, none⟩
    else if cross.toNat ≤ 2000 then some ⟨k, v, some cross.toNat⟩
    else none
  | _, _ => none

/-- The reading of the arguments of SHADE REPORT; none when a component is out of range (R86). -/
def readingOf (l a b : BitVec 16) : Option Lab :=
  if l.toNat ≤ 10000 ∧ -12800 ≤ a.toInt ∧ a.toInt ≤ 12799 ∧ -12800 ≤ b.toInt ∧ b.toInt ≤ 12799
  then some ⟨l.toNat, a.toInt, b.toInt⟩ else none

/-- A decision of ROLL DISPOSITION (R169, section 11.2). -/
inductive Decision where
  | accept | void
  deriving DecidableEq, Repr

/-- A decision of its byte. -/
def decisionOf (b : Byte) : Option Decision :=
  match b.toNat with
  | 0 => some .accept
  | 1 => some .void
  | _ => none

end Sys2Proof.Machine
end

