-- ==== Sys2Proof/Machine/Layout.lean ====
section
/-! DEFINITION. The bytes of reply data (R203), of the label record (sections 8.3, 11.6), and of the answers that READ
STATUS (R201) and FETCH REPLY (R200) shift out. -/

namespace Sys2Proof.Machine

/-! ### Building blocks of R203 -/

/-- A signed number in n bytes, two's complement. -/
def leInt (n : Nat) (v : Int) : List Byte := leBytes n (BitVec.ofInt (8 * n) v).toNat

/-- A position in 4 bytes. -/
def wordBytes (w : Word) : List Byte := leBytes 4 w.toNat

/-- The number whose bit i is the i-th of the list. -/
def bitsNat : List Bool → Nat
  | [] => 0
  | b :: bs => b.toNat + 2 * bitsNat bs

/-- A byte whose bit i is the i-th of the list; bits that the list leaves unassigned read 0 (DESIGN CHOICE, log entry
29). -/
def bitsByte (bs : List Bool) : Byte := BitVec.ofNat 8 (bitsNat bs)

/-- A yes or no in one byte. -/
def boolByte (b : Bool) : Byte := if b then 1 else 0

/-- A number in n bytes, 0 when absent. -/
def optNat (n : Nat) (v : Option Nat) : List Byte := leBytes n (v.getD 0)

/-- A signed number in n bytes, 0 when absent. -/
def optInt (n : Nat) (v : Option Int) : List Byte := leInt n (v.getD 0)

/-- A position in 4 bytes, 0 when absent. -/
def optWord (v : Option Word) : List Byte := wordBytes (v.getD 0)

/-- Three sums in 4 bytes each. -/
def sumBytes (x : Lab) : List Byte := leInt 4 x.l ++ leInt 4 x.a ++ leInt 4 x.b

/-- A colour in 2 bytes for each component. -/
def labBytes (x : Lab) : List Byte := leInt 2 x.l ++ leInt 2 x.a ++ leInt 2 x.b

/-! ### Numbers of the enumerations -/

/-- Status codes (section 11.3). -/
def Status.byte : Status → Byte
  | .done => 0
  | .doneClamped => 1
  | .pending => 2
  | .busy => 3
  | .notPermitted => 4
  | .wrongState => 5
  | .outOfRange => 6
  | .noSuchRepeat => 7
  | .tooLate => 8
  | .alreadyReported => 9
  | .notFound => 10
  | .notReady => 11
  | .noLabel => 12
  | .emptySlot => 13
  | .storeFailed => 14
  | .notArmed => 15
  | .badFrame => 16

/-- Emboss status, in the order of section 3.1. -/
def EmbossStatus.byte : EmbossStatus → Byte
  | .awaiting => 0
  | .matched => 1
  | .missed => 2
  | .untracked => 3

/-- Register verdict, in the order of section 3.1. -/
def RegisterVerdict.byte : RegisterVerdict → Byte
  | .pending => 0
  | .inRegister => 1
  | .outOfRegister => 2
  | .notApplicable => 3
  | .none => 4

/-- A shade verdict as a number: 0, the code, or 16,777,216 (R203). -/
def ShadeVerdict.num : ShadeVerdict → Nat
  | .pending => 0
  | .batch code => code
  | .noBatch => Config.noBatchWire

/-- Defect kind, in the order of section 3.1. -/
def DefectKind.byte : DefectKind → Byte
  | .print => 0
  | .emboss => 1
  | .surface => 2
  | .edge => 3

/-- Severity, in the order of section 3.1. -/
def Severity.byte : Severity → Byte
  | .minor => 0
  | .major => 1

/-- Batch state, in the order of section 5.1. -/
def BatchState.byte : BatchState → Byte
  | .learning _ _ => 0
  | .opened => 1
  | .closed => 2

/-- Roll state, in the order of section 6.1. -/
def RollState.byte : RollState → Byte
  | .building => 0
  | .ending => 1
  | .closed => 2
  | .held => 3

/-- Phase, in the order of section 6.1. -/
def Phase.byte : Phase → Byte
  | .a => 0
  | .b => 1

/-- Match mode, in the order of section 6.1. -/
def MatchMode.byte : MatchMode → Byte
  | .straight => 0
  | .drop => 1

/-- Class, in the order of section 6.1. -/
def RollClass.byte : RollClass → Byte
  | .full => 0
  | .short => 1
  | .remnant => 2

/-- Hold flags: 1 CUT_FAULT, 2 OFF_MATCH, 4 TRACKING_FAULT (R171, R203). -/
def HoldFlags.num (h : HoldFlags) : Nat := bitsNat [h.cutFault, h.offMatch, h.trackingFault]

/-- Station, in the order of section 10.1. -/
def Station.byte : Station → Byte
  | .print => 0
  | .emboss => 1
  | .quality => 2
  | .knife => 3
  | .label => 4
  | .store => 5
  | .line => 6

/-- Group, in the order of section 10.1. -/
def Group.byte : Group → Byte
  | .tracking => 0
  | .emboss => 1
  | .shade => 2
  | .roll => 3
  | .knife => 4
  | .store => 5
  | .session => 6

/-- Effective action, in the order of section 10.1. -/
def Action.byte : Action → Byte
  | .note => 0
  | .flag => 1
  | .stop => 2

/-- Event code: its place in the table of R188, POWER_UP 1 to STORE_RECOVERED 27 (R203). -/
def EventCode.byte : EventCode → Byte
  | .powerUp => 1
  | .angleSlip => 2
  | .drainComplete => 3
  | .runFlushed => 4
  | .lineCleared => 5
  | .queueFull => 6
  | .spuriousMark => 7
  | .embossMissed => 8
  | .knifeMissed => 9
  | .trackLost => 10
  | .trackRegained => 11
  | .registerLocked => 12
  | .registerLost => 13
  | .batchOpened => 14
  | .batchClosed => 15
  | .batchTableFull => 16
  | .counterExhausted => 17
  | .rollTableFull => 18
  | .rollTableLow => 19
  | .knifeOverrun => 20
  | .cutLate => 21
  | .knifeTimeout => 22
  | .knifeLateAck => 23
  | .remnantCut => 24
  | .rollVoided => 25
  | .storeFail => 26
  | .storeRecovered => 27

/-! ### Records -/

/-- A defect entry: a record with one optional field, so with its own presence byte (R203; log entry 15). -/
def Defect.bytes (d : Defect) : List Byte :=
  [bitsByte [d.cross.isSome], d.kind.byte, d.severity.byte] ++ optNat 2 d.cross

/-- A repeat record (section 3.1, R203). -/
def RepeatRecord.bytes (k : RepeatRecord) : List Byte :=
  [bitsByte [k.printLen.isSome, k.embossPos.isSome, k.embossLen.isSome, k.stretch.isSome, k.embossError.isSome,
    k.reading.isSome]] ++
  leBytes 4 k.seq ++ wordBytes k.printPos ++ optNat 4 k.printLen ++ [bitsByte [k.leader, k.irregular, k.splice]] ++
  [k.emboss.byte] ++ optWord k.embossPos ++ optNat 4 k.embossLen ++ optInt 4 k.stretch ++ optInt 4 k.embossError ++
  [k.register.byte] ++ labBytes (k.reading.getD ⟨0, 0, 0⟩) ++ leBytes 4 k.shade.num ++
  (leBytes 1 k.defects.length ++ (k.defects.map Defect.bytes).flatten) ++ leBytes 1 k.overflow ++ [boolByte k.major] ++
  [bitsByte [k.knifeMissed, k.untrackedAtKnife]]

/-- A roll (section 6.1, R203). -/
def Roll.bytes (r : Roll) : List Byte :=
  [bitsByte [r.cls.isSome, r.endPos.isSome]] ++ leBytes 4 r.serial ++ leBytes 3 r.batch ++
  [r.state.byte, r.phase.byte, r.mode.byte] ++ r.pattern.toList ++ leBytes 2 r.repeats ++ leBytes 4 r.length ++
  [(r.cls.map RollClass.byte).getD 0] ++ sumBytes r.sums ++ leBytes 2 r.shadeCount ++ leBytes 1 r.minors ++
  leBytes 1 r.hold.num ++ leBytes 4 r.firstSeq ++ leBytes 4 r.lastSeq ++ wordBytes r.startPos ++ optWord r.endPos ++
  [boolByte r.accepted]

/-- The learning sums and sample count of a batch, absent unless it is LEARNING. -/
def BatchState.learning? : BatchState → Option (Lab × Nat)
  | .learning sums n => some (sums, n)
  | .opened | .closed => none

/-- A batch (section 5.1, R203). -/
def BatchEntry.bytes (b : BatchEntry) : List Byte :=
  [bitsByte [b.state.learning?.isSome, b.state.learning?.isSome]] ++ leBytes 3 b.code ++ [b.state.byte] ++
  labBytes b.reference ++ sumBytes ((b.state.learning?.map Prod.fst).getD ⟨0, 0, 0⟩) ++
  optNat 1 (b.state.learning?.map Prod.snd) ++ leBytes 4 b.lastSeq ++ leBytes 2 b.queued ++ leBytes 1 b.rolls ++
  leBytes 4 b.labelled

/-- An event entry, 26 bytes (section 10.1, R203). -/
def EventEntry.bytes (e : EventEntry) : List Byte :=
  [bitsByte [e.seq.isSome, e.serial.isSome, e.batch.isSome]] ++ leBytes 4 e.number ++ wordBytes e.le ++
  [e.station.byte, e.group.byte, e.code.byte, e.action.byte] ++ optNat 4 e.seq ++ optNat 4 e.serial ++
  optNat 3 e.batch ++ leBytes 2 e.extra.toNat

/-- The phase on a label: none in STRAIGHT mode, A or B in DROP mode (R160). -/
def Roll.labelPhase (r : Roll) : Byte :=
  match r.mode, r.phase with
  | .straight, _ => 0
  | .drop, .a => 1
  | .drop, .b => 2

/-- The length on a label, S ÷ 20 rounded half up, in millimetres (R161). -/
def Roll.labelLength (r : Roll) : Nat := (r.length + 10) / 20

/-- The label record of a roll (R160 to R162, section 11.6). -/
def Roll.label (r : Roll) : List Byte :=
  leBytes 4 r.serial ++ leBytes 3 r.batch ++ r.pattern.toList ++ [r.labelPhase, (r.cls.map RollClass.byte).getD 0] ++
  leBytes 3 r.labelLength ++ leBytes 2 r.repeats ++ labBytes (r.sums.mean r.shadeCount) ++ leBytes 1 r.minors ++
  [boolByte r.accepted]

/-! ### READ STATUS (R201) -/

/-- Session state byte. -/
def Session.byte : Session → Byte
  | .unloaded => 0
  | .loaded .armed _ => 1
  | .loaded .running _ => 2
  | .loaded .draining _ => 3

/-- Tracking state bits. -/
def TrackMode.bits : TrackMode → List Bool
  | .seeking => [false, false]
  | .sync => [true, false]
  | .lost => [false, true]

/-- ERC state bits. -/
def ErcMode.bits : ErcMode → List Bool
  | .off => [false, false]
  | .acquire => [true, false]
  | .locked => [false, true]
  | .hold => [true, true]

/-- Store operation bits. -/
def StoreOp.bits : StoreOp → List Bool
  | .idle => [false, false]
  | .writing _ _ => [true, false]
  | .committing _ => [false, true]
  | .committingOver _ _ => [true, true]

/-- Segment bits. -/
def Segment.bits : Segment → List Bool
  | .none => [false, false]
  | .roll _ => [true, false]
  | .waste => [false, true]
  | .awaitA => [true, true]

/-- Number of a cut kind: 1 END, 2 START, 3 END_START; 0 for no cut. -/
def cutKindNum : Option CutKind → Nat
  | none => 0
  | some (.ends _) => 1
  | some (.starts _) => 2
  | some (.endStart _ _) => 3

/-- Whether a batch is LEARNING or OPEN. -/
def BatchEntry.active (b : BatchEntry) : Bool :=
  match b.state with
  | .learning _ _ | .opened => true
  | .closed => false

/-- The serial of the BUILDING roll. -/
def RollBuilder.building (rb : RollBuilder) : Option Nat :=
  (rb.rolls.find? fun r => r.state == .building).map Roll.serial

/-- Bytes 0 to 26 of the answer: SC, WPU, RT and ERC. -/
def statusFront (s : State) (p : PortState) : List Byte :=
  [s.sc.session.byte,
   bitsByte [s.sc.stopLatch, s.wpu.peDir == .reverse, s.wpu.leDir == .reverse, s.wpu.spliceArm, s.events.summary,
     p.replyLost, s.ps.commitPending, s.ps.validity == .valid],
   bitsByte (s.rt.emboss.mode.bits ++ s.rt.knife.mode.bits ++ s.erc.mode.bits ++ s.ps.op.bits)] ++
  wordBytes s.wpu.pe ++ wordBytes s.wpu.le ++ leBytes 2 s.wpu.ca.toNat ++
  leBytes 2 s.wpu.pm.spurious ++ leBytes 2 s.wpu.em.spurious ++ leBytes 2 s.wpu.cm.spurious ++
  leBytes 2 s.rt.queue.length ++ leBytes 1 s.erc.pendingDuty ++ leBytes 1 s.erc.appliedDuty ++
  leInt 2 s.erc.integral ++ leInt 1 s.erc.lastOutput ++ leBytes 1 (s.erc.lockRun + 16 * s.erc.lossRun)

/-- Bytes 27 to 65 of the answer: SBT, RB, KS, LD, PS, LET and the port. Bit 7 of bytes 34, 35 and 63 reads 0 (DESIGN
CHOICE, log entry 29). -/
def statusBack (s : State) (p : PortState) : List Byte :=
  leBytes 1 s.batches.length ++ leBytes 1 (s.batches.countP BatchEntry.active) ++ leBytes 1 s.rb.rolls.length ++
  optNat 4 s.rb.building ++
  [bitsByte (s.rb.segment.bits ++ [s.rb.nextDrop == .b, s.rb.pendingDrop, s.ks.divert == .roll, s.ks.knifeReq,
     s.ld.headReady])] ++
  leBytes 1 (s.ks.queue.length % 8 + 8 * s.wpu.reach.toNat +
    16 * cutKindNum (s.ks.outstanding.map fun o => o.cut.kind) +
    64 * ((s.ks.outstanding.map Outstanding.late).getD false).toNat) ++
  optWord (s.ks.queue.head?.map Cut.pos) ++ optWord (s.ks.outstanding.map fun o => o.cut.pos) ++
  leBytes 1 s.ld.order.length ++ leBytes 1 (s.rb.rolls.countP fun r => r.state == .held) ++
  optNat 4 s.ld.order.head? ++ optNat 4 s.ld.outstanding ++ leBytes 1 s.ps.failures ++ leBytes 4 s.events.total ++
  leBytes 4 s.events.discarded ++
  [bitsByte [s.events.refs.print, s.events.refs.emboss, s.events.refs.quality, s.events.refs.knife,
     s.events.refs.label, s.events.refs.store, s.events.refs.line], p.raw, p.enable]

/-- The 66 answer bytes of READ STATUS on a port (R201). -/
def statusBytes (s : State) (port : Port) : List Byte :=
  statusFront s (s.ports.get port) ++ statusBack s (s.ports.get port)

/-- The answer of FETCH REPLY: status, flags, code, data length, data (R200). Bits 2 to 7 of the flags byte read 0 (DESIGN
CHOICE, log entry 29). -/
def fetchBytes (p : PortState) : List Byte :=
  [p.slot.status.byte, bitsByte [p.replyLost, p.slot.fetched], p.slot.code] ++ leBytes 2 p.slot.data.length ++
  p.slot.data

/-- What SDO carries in a frame of n bytes: 0 in the first two, then the answer from byte 2 on, then 0 (R197, R200,
R201). -/
def streamed (answer : List Byte) (n : Nat) : List Byte :=
  ([0, 0] ++ answer ++ List.replicate n 0).take n

end Sys2Proof.Machine
end

