-- ==== Sys2Proof/Machine/Events.lean ====
section
/-! DEFINITION. The Line Event Table: logging (R187 to R191) and recovery (R192). -/

namespace Sys2Proof.Machine

/-- What a block hands to the LET (R187). The extra of DRAIN_COMPLETE, which no chapter gives, is the 0 that stands here
(DESIGN CHOICE, log entry 33). -/
structure EventReport where
  code : EventCode
  station : Station
  seq : Option Nat := none
  serial : Option Nat := none
  batch : Option Nat := none
  extra : BitVec 16 := 0
  deriving DecidableEq, Repr

/-- The effective action of a code under the setup in force (R189). -/
def State.actionOf (s : State) (c : EventCode) : Action := effectiveAction c (s.ps.setup.groups.get c.group)

/-- The entry that a report makes: its number is the total count after the event was counted, and LE is taken as it
stands (R187, R17). -/
def State.entryOf (s : State) (r : EventReport) : EventEntry where
  number := satAdd Config.maxWord s.events.total 1
  le := s.wpu.le
  station := r.station
  group := r.code.group
  code := r.code
  action := s.actionOf r.code
  seq := r.seq
  serial := r.serial
  batch := r.batch
  extra := r.extra

/-- R191: a new entry joins at the newest end; in a full table the oldest entry of the rolling part is discarded. -/
def LineEvents.place (ev : LineEvents) (e : EventEntry) : LineEvents :=
  if ev.entries.length < Config.eventCapacity then
    { ev with entries := ev.entries ++ [e], total := e.number }
  else
    { ev with
      entries := ev.entries.take Config.eventRetained ++ ev.entries.drop (Config.eventRetained + 1) ++ [e]
      total := e.number
      discarded := satAdd Config.maxWord ev.discarded 1 }

/-- R190: FLAG and STOP set the station reference and the line summary. -/
def LineEvents.applyAction (ev : LineEvents) (a : Action) (st : Station) : LineEvents :=
  match a with
  | .note => ev
  | .flag | .stop => ev.putRef st true

/-- R192: the logging of a recovery code clears its station's reference, after the entry is placed. -/
def LineEvents.applyRecovery (ev : LineEvents) (c : EventCode) (st : Station) : LineEvents :=
  if c.isRecovery then ev.putRef st false else ev

/-- R187: one logging, taken whole: count, entry, place, effective action, recovery, EVENT notice. -/
def logEvent (s : State) (r : EventReport) : State :=
  { s with
    events := ((s.events.place (s.entryOf r)).applyAction (s.actionOf r.code) r.station).applyRecovery r.code r.station
    sc := { s.sc with stopLatch := s.sc.stopLatch || s.actionOf r.code == .stop }
    ports := s.ports.map fun p => p.raise noticeEvent }

/-- R192: a recovery of a station that is logged as no entry. -/
def recoverStation (s : State) (st : Station) : State := { s with events := s.events.putRef st false }

end Sys2Proof.Machine
end

