-- ==== Sys2Proof/Machine/Store.lean ====
section
/-! DEFINITION. The Persistent Store: commit requests and attempts (R181 to R183), writes (R177, R178), what runs next
(R184), the reservation of codes and serials (R175), and the ends of operations as posted to the ports (R199). -/

namespace Sys2Proof.Machine

/-- The reserved counters, their values free while they are unknown (R179; log entry 5). -/
def PersistentStore.reservedNow (ps : PersistentStore) : Counters :=
  ps.reserved.getD ⟨Config.unknownBatchCounter, Config.unknownRollCounter⟩

/-- A commit attempt starts: it takes the reserved counters as they stand (R182), and the counter block is marked invalid
first (R174). A write given with it stays suspended. -/
def PersistentStore.startAttempt (ps : PersistentStore) (failures : Nat) (seeded : Bool) (held : Option StoreWrite) :
    PersistentStore :=
  { ps with
    array := { ps.array with counters := none }
    op := match held with
      | none => .committing ⟨ps.reservedNow, failures, seeded⟩
      | some w => .committingOver ⟨ps.reservedNow, failures, seeded⟩ w }

/-- A new commit series starts: commit-pending is cleared (R181, R184). -/
def PersistentStore.startSeries (ps : PersistentStore) (seeded : Bool) (held : Option StoreWrite) : PersistentStore :=
  { ps with commitPending := false }.startAttempt 0 seeded held

/-- R181: a commit request, taken according to the operation state. -/
def PersistentStore.requestCommit (ps : PersistentStore) : PersistentStore :=
  match ps.op with
  | .idle => ps.startSeries false none
  | .writing w _ => { ps with op := .writing w true }
  | .committing _ => { ps with commitPending := true }
  | .committingOver _ _ => { ps with commitPending := true }

/-- The operation state is IDLE. -/
def PersistentStore.isIdle (ps : PersistentStore) : Bool := ps.op == .idle

/-- R175, R98: a batch code is reserved, and a commit is requested; the code is the value the counter takes. -/
def PersistentStore.reserveBatch (ps : PersistentStore) : PersistentStore :=
  { ps with reserved := some { ps.reservedNow with batch := ps.reservedNow.batch + 1 } }.requestCommit

/-- R175, R128: a roll serial is reserved, and a commit is requested. -/
def PersistentStore.reserveRoll (ps : PersistentStore) : PersistentStore :=
  { ps with reserved := some { ps.reservedNow with roll := ps.reservedNow.roll + 1 } }.requestCommit

/-- R177, R178: a write starts: its content in the array is marked invalid, and the store is WRITING. -/
def PersistentStore.startWrite (ps : PersistentStore) (w : StoreWrite) : PersistentStore :=
  { ps with
    array := match w.target with
      | .recipe i _ => ps.array.setSlot i none
      | .setup _ => { ps.array with setup := none }
    op := .writing w false }

/-- R177, R178: the content of a write whose comparison agreed becomes valid in the array. -/
def PersistentStore.finishWrite (ps : PersistentStore) (w : StoreWrite) : PersistentStore :=
  match w.target with
  | .recipe i r => { ps with array := ps.array.setSlot i (some r) }
  | .setup u => { ps with array := { ps.array with setup := some u }, setupStored := true }

/-- The status that the end of a write posts (R177). -/
def StoreWrite.finalStatus (w : StoreWrite) (agrees : Bool) : Status :=
  if agrees then (if w.clamped then .doneClamped else .done) else .storeFailed

/-- R184: what runs after a write has ended. A commit request that waited for the suspension is taken as one found IDLE
(R181). -/
def PersistentStore.afterWrite (ps : PersistentStore) (suspending : Bool) : PersistentStore :=
  if ps.commitPending || suspending then ps.startSeries false none else { ps with op := .idle }

/-- R184: what runs after a commit attempt has succeeded. -/
def PersistentStore.afterSuccess (ps : PersistentStore) (held : Option StoreWrite) : PersistentStore :=
  if ps.commitPending then ps.startSeries false held
  else match held with
    | some w => { ps with op := .writing w false }
    | none => { ps with op := .idle }

/-- R184: what runs after a series has failed. -/
def PersistentStore.afterFailedSeries (ps : PersistentStore) (held : Option StoreWrite) : PersistentStore :=
  match held with
  | some w => { ps with op := .writing w false }
  | none => { ps with op := .idle }

/-- The final status of a store operation is posted to its port, and the STORE notice is raised there (R177, R199). -/
def postStoreEnd (s : State) (port : Port) (st : Status) : State :=
  s.onPort port fun p => (p.postFinal st).raise noticeStore

end Sys2Proof.Machine
end

