-- ==== Sys2Proof/Machine/Batches.lean ====
section
/-! DEFINITION. The Shade Classifier and Batch Table: classification (R89 to R93), opening a batch (R94 to R99), the
reference counts (R100 to R103), freeing (R104) and the end of a run (R105). -/

namespace Sys2Proof.Machine

/-! ### Counts and freeing -/

/-- R104: a CLOSED entry with both counts 0 is to be freed. -/
def BatchEntry.isSpent (b : BatchEntry) : Bool := b.state == .closed && b.queued == 0 && b.rolls == 0

/-- R104: the freeing test of one batch; a freed entry leaves the table and raises BATCH. -/
def freeTest (s : State) (code : Nat) : State :=
  match s.findBatch code with
  | some b =>
    if b.isSpent then { s with batches := eraseBy BatchEntry.code code s.batches }.raiseAll noticeBatch else s
  | none => s

/-- The queued count of the batch named by a verdict falls; PENDING and NO_BATCH lower none (R54 step 2, R100). -/
def lowerQueued (s : State) (v : ShadeVerdict) : State :=
  match v with
  | .batch code => s.updateBatch code fun b => { b with queued := b.queued - 1 }
  | .pending | .noBatch => s

/-- The freeing test of the batch named by a verdict (R101). -/
def freeTestOf (s : State) (v : ShadeVerdict) : State :=
  match v with
  | .batch code => freeTest s code
  | .pending | .noBatch => s

/-- The roll count of a batch falls (R102); the freeing test is made where the caller's rule says. -/
def lowerRolls (s : State) (code : Nat) : State := s.updateBatch code fun b => { b with rolls := b.rolls - 1 }

/-- R102: a roll of a batch leaves the Roll Table and the freeing test is made at once. -/
def dropRoll (s : State) (roll : Roll) : State := freeTest (lowerRolls (s.eraseRoll roll.serial) roll.batch) roll.batch

/-- R85: an entry becomes CLOSED, keeping its reference and dropping its learning sums. -/
def BatchEntry.close (b : BatchEntry) : BatchEntry := { b with state := .closed }

/-- R105: every LEARNING and OPEN entry becomes CLOSED, and each entry closed is freed if its counts allow; BATCH is
raised when at least one entry changed. -/
def closeBatches (s : State) : State :=
  if s.batches.any BatchEntry.active then
    { s with
      batches := (s.batches.filter fun (b : BatchEntry) => !(b.active && b.close.isSpent)).map BatchEntry.close
    }.raiseAll noticeBatch
  else s

/-- R101, R105: at CLEAR LINE each batch is tested once on its final counts, those CLOSED before among them. -/
def closeAndFreeBatches (s : State) : State :=
  if s.batches.any fun (b : BatchEntry) => b.active || b.isSpent then
    { s with
      batches := (s.batches.map BatchEntry.close).filter fun (b : BatchEntry) => !b.isSpent }.raiseAll noticeBatch
  else s

/-! ### Classification -/

/-- The squared distance between two colours (R89). -/
def Lab.dist2 (x y : Lab) : Int := (x.l - y.l) ^ 2 + (x.a - y.a) ^ 2 + (x.b - y.b) ^ 2

/-- A candidate within reach: LEARNING or OPEN, and no further than the tolerance (R89, R90). -/
def BatchEntry.inReach (b : BatchEntry) (reading : Lab) (t : Nat) : Bool :=
  b.active && decide (reading.dist2 b.reference ≤ (t : Int) ^ 2)

/-- The nearer of two candidates, the smaller code at equal distance (R90). -/
def nearer (reading : Lab) (x y : BatchEntry) : BatchEntry :=
  if reading.dist2 y.reference < reading.dist2 x.reference ∨
      (reading.dist2 y.reference = reading.dist2 x.reference ∧ y.code < x.code) then y else x

/-- The winner among the candidates within reach (R90). -/
def winner (bs : List BatchEntry) (reading : Lab) (t : Nat) : Option BatchEntry :=
  match bs.filter fun b => b.inReach reading t with
  | [] => none
  | b :: rest => some (rest.foldl (nearer reading) b)

/-- R92, R93: a LEARNING winner takes the reading into its learning and becomes OPEN at N_learn readings; an OPEN one
changes no further field. -/
def BatchEntry.learn (b : BatchEntry) (reading : Lab) (nLearn : Nat) : BatchEntry :=
  match b.state with
  | .learning sums n =>
    { b with
      reference := (sums.add reading).mean (n + 1)
      state := if nLearn ≤ n + 1 then .opened else .learning (sums.add reading) (n + 1) }
  | .opened => b
  | .closed => b

/-- R91: the winner's counts and last matched seq, then its learning. -/
def BatchEntry.win (b : BatchEntry) (seq : Nat) (reading : Lab) (nLearn : Nat) : BatchEntry :=
  { b with queued := b.queued + 1, lastSeq := seq }.learn reading nLearn

/-- A win raises BATCH when the winner goes from LEARNING to OPEN (R93). -/
def winBatch (s : State) (r : Recipe) (seq : Nat) (reading : Lab) (b : BatchEntry) : State :=
  let s1 := s.updateBatch b.code fun e => e.win seq reading r.nLearn
  if b.state ≠ .opened ∧ (b.win seq reading r.nLearn).state = .opened then s1.raiseAll noticeBatch else s1

/-! ### Opening -/

/-- The entry with the lowest last matched seq (R96). -/
def lowestSeq : List BatchEntry → Option BatchEntry
  | [] => none
  | b :: rest => some (rest.foldl (fun x y => if y.lastSeq < x.lastSeq then y else x) b)

/-- R96: slot closure, when the LEARNING and OPEN entries number B_slots. BATCH_CLOSED carries the closed entry's last
matched seq, as R96 says, and not the seq of the record being classified, as R94 says (DESIGN CHOICE, log entry 24). -/
def slotClosure (s : State) (r : Recipe) : State :=
  if r.bSlots ≤ s.batches.countP BatchEntry.active then
    match lowestSeq (s.batches.filter BatchEntry.active) with
    | some b =>
      let s1 := s.updateBatch b.code BatchEntry.close
      let s2 := logEvent s1 { code := .batchClosed, station := .quality, seq := some b.lastSeq, batch := some b.code }
      freeTest (s2.raiseAll noticeBatch) b.code
    | none => s
  else s

/-- R99: the entry of a newly opened batch. -/
def newBatch (r : Recipe) (code seq : Nat) (reading : Lab) : BatchEntry where
  code := code
  state := if r.nLearn ≤ 1 then .opened else .learning reading 1
  reference := reading
  lastSeq := seq
  queued := 1
  rolls := 0
  labelled := 0

/-- R98, R99: a code is reserved, the entry created, BATCH_OPENED logged and BATCH raised. -/
def createBatch (s : State) (r : Recipe) (seq : Nat) (reading : Lab) : State × ShadeVerdict :=
  let code := s.ps.reservedNow.batch + 1
  let s1 := { s with
    ps := s.ps.reserveBatch
    batches := insertBy BatchEntry.code (newBatch r code seq reading) s.batches }
  let s2 := logEvent s1 { code := .batchOpened, station := .quality, seq := some seq, batch := some code,
                          extra := extraNat s1.batches.length }
  (s2.raiseAll noticeBatch, .batch code)

/-- R94: opening a batch for a reading that no batch won. The free entry is sought among those held when the report is
taken (R97), also where another order of a hand-over or a LABEL DONE would have freed one first, against R88 (DESIGN
CHOICE, log entry 26). -/
def openBatch (s : State) (r : Recipe) (seq : Nat) (reading : Lab) : State × ShadeVerdict :=
  if Config.maxBatchCode ≤ s.ps.reservedNow.batch then
    (logEvent s { code := .counterExhausted, station := .store, seq := some seq }, .noBatch)
  else
    let s1 := slotClosure s r
    if Config.batchCapacity ≤ s1.batches.length then
      (logEvent s1 { code := .batchTableFull, station := .quality, seq := some seq, extra := 16 }, .noBatch)
    else createBatch s1 r seq reading

/-- R87, R90: a reading is classified; the answer is the verdict of its record. -/
def classify (s : State) (r : Recipe) (seq : Nat) (reading : Lab) : State × ShadeVerdict :=
  match winner s.batches reading r.t with
  | some b => (winBatch s r seq reading b, .batch b.code)
  | none => openBatch s r seq reading

end Sys2Proof.Machine
end

