-- ==== Sys2Proof/Machine/Register.lean ====
section
/-! DEFINITION. The Emboss Register Controller: the emboss error (R69, R70), lock and loss (R71, R72), the trim law (R74
to R77), the register verdict (R78), and its changes of state (R63 to R67). -/

namespace Sys2Proof.Machine

/-- The repeat angle P (R69). -/
def Recipe.repeatAngle (r : Recipe) : Int := 16384 / (r.kc.num : Int)

/-- The angle offset e_a (R69). -/
def angleOffset (r : Recipe) (ca : Angle) : Int :=
  let ea := ((ca.toNat : Int) - r.aT) % r.repeatAngle
  if r.repeatAngle ≤ 2 * ea then ea - r.repeatAngle else ea

/-- The emboss error e (R70). -/
def embossError (r : Recipe) (ca : Angle) : Int := roundDiv (angleOffset r ca * r.cc) 16384

/-! ### The trim law -/

/-- The deadband stage (R74). -/
def deadband (db : Nat) (e : Int) : Int :=
  if (e.natAbs : Int) ≤ db then 0 else if 0 < e then e - db else e + db

/-- The clamp stage (R74). -/
def clampError (r : Recipe) (e : Int) : Int := clampInt (-2047) 2047 (deadband r.db e)

/-- The integral stage (R75). -/
def integralStage (r : Recipe) (i e : Int) : Int := clampInt (-8191) 8191 (i + clampError r e)

/-- The output stages (R76). -/
def outputStage (r : Recipe) (ec i : Int) : Int := clampInt (-127) 127 (roundDiv (r.kp * ec + r.ki * i) 256)

/-- The slew stage (R77). -/
def slewStage (r : Recipe) (prev u : Int) : Int := clampInt (prev - r.sl) (prev + r.sl) u

/-- The trim law, run once on an error (R74 to R77). -/
def Erc.trim (c : Erc) (r : Recipe) (e : Int) : Erc :=
  let i := integralStage r c.integral e
  let u := slewStage r c.lastOutput (outputStage r (clampError r e) i)
  { c with integral := i, lastOutput := u, pendingDuty := (128 + u).toNat }

/-! ### Lock and loss -/

/-- R71: the lock run counter. -/
def Erc.countLock (c : Erc) (r : Recipe) (e : Int) : Erc :=
  if e.natAbs ≤ r.wLock then
    if 4 ≤ c.lockRun + 1 then { c with mode := .locked, lockRun := 0, lossRun := 0 }
    else { c with lockRun := c.lockRun + 1 }
  else { c with lockRun := 0 }

/-- R72: the loss run counter. -/
def Erc.countLoss (c : Erc) (r : Recipe) (e : Int) : Erc :=
  if r.wCap < e.natAbs then
    if 3 ≤ c.lossRun + 1 then { c with mode := .acquire, lockRun := 0, lossRun := 0 }
    else { c with lossRun := c.lossRun + 1 }
  else { c with lossRun := 0 }

/-- R68 step 2: the run counter of the state the ERC is in. -/
def Erc.count (c : Erc) (r : Recipe) (e : Int) : Erc :=
  match c.mode with
  | .acquire => c.countLock r e
  | .locked => c.countLoss r e
  | .off | .hold => c

/-- R78: the register verdict of a record taken in ACQUIRE or LOCKED, from the state after its update. -/
def registerVerdict (r : Recipe) (after : ErcMode) (e : Int) : RegisterVerdict :=
  if after = .locked ∧ e.natAbs ≤ r.eTol then .inRegister else .outOfRegister

/-! ### Taking a record -/

/-- A change of the ERC state at a record raises REGISTER and logs its event (R68, R71 to R73). -/
def announceErc (s : State) (before : ErcMode) (seq : Nat) (e : Int) : State :=
  if s.erc.mode = before then s
  else
    logEvent (s.raiseAll noticeRegister)
      { code := if s.erc.mode = .locked then .registerLocked else .registerLost
        station := .emboss, seq := some seq, extra := extraInt e }

/-- R68: a record that the emboss point passes is taken, with the CA capture of its mark. In OFF only its error is
written (R65); in HOLD no record is taken (R62). -/
def ercTake (s : State) (r : Recipe) (seq : Nat) (ca : Angle) : State :=
  let e := embossError r ca
  match s.erc.mode with
  | .off => s.updateRecord seq fun k => { k with embossError := some e }
  | .hold => s
  | .acquire | .locked =>
    let c := s.erc.count r e
    let s1 := { s with erc := c.trim r e }
    let s2 := s1.updateRecord seq fun k =>
      { k with embossError := some e, register := registerVerdict r c.mode e }
    announceErc s2 s.erc.mode seq e

/-! ### Changes of state -/

/-- The state of the ERC changes; REGISTER is raised when it differs from the state before (R73). -/
def setErc (s : State) (c : Erc) : State :=
  let s1 := { s with erc := c }
  if c.mode = s.erc.mode then s1 else s1.raiseAll noticeRegister

/-- R63: the ERC goes to OFF. -/
def ercOff (s : State) : State :=
  setErc s { s.erc with
    mode := .off, integral := 0, lastOutput := 0, lockRun := 0, lossRun := 0, pendingDuty := 128 }

/-- R64: START RUN takes the ERC to ACQUIRE when the recipe has emboss enabled. -/
def ercStart (s : State) (r : Recipe) : State :=
  if r.emboss then setErc s { s.erc with mode := .acquire } else s

/-- R66: entry of the emboss point into LOST. -/
def ercHold (s : State) : State :=
  match s.erc.mode with
  | .acquire | .locked => setErc s { s.erc with mode := .hold, lockRun := 0, lossRun := 0 }
  | .off | .hold => s

/-- R67: return of the emboss point to SYNC. -/
def ercReacquire (s : State) : State :=
  match s.erc.mode with
  | .hold => setErc s { s.erc with mode := .acquire, lockRun := 0 }
  | .off | .acquire | .locked => s

end Sys2Proof.Machine
end

