-- ==== Sys2Proof/Machine/Labels.lean ====
section
/-! DEFINITION. The Label Dispatcher: readiness (R157, R158), joining the label order (R155), and the completion of a
roll (step 2 of R143). -/

namespace Sys2Proof.Machine

/-- R157: a roll's batch code and serial are no greater than the persisted counters; none is ready while they are
unknown. -/
def Roll.persisted (r : Roll) (mirror : Option Counters) : Bool :=
  match mirror with
  | some m => decide (r.batch ≤ m.batch) && decide (r.serial ≤ m.roll)
  | none => false

/-- The roll at the head of the label order. -/
def State.labelHead (s : State) : Option Roll := s.ld.order.head?.bind s.findRoll

/-- R157: the head of the label order is ready. -/
def State.headIsReady (s : State) : Bool :=
  match s.labelHead with
  | some r => r.persisted s.ps.mirror
  | none => false

/-- R158: the readiness test, made on the current head while the head-ready indication is clear. -/
def readinessTest (s : State) : State :=
  if !s.ld.headReady && s.headIsReady then
    { s with ld := { s.ld with headReady := true } }.raiseAll noticeLabel
  else s

/-- R155, R158: a roll joins the label order at the tail; the test is made when it becomes the head. -/
def joinOrder (s : State) (serial : Nat) : State :=
  let s1 := { s with ld := { s.ld with order := s.ld.order ++ [serial] } }
  if s.ld.order.isEmpty then readinessTest s1 else s1

/-- R168: a roll becomes HELD, and HELD is raised. -/
def holdRoll (s : State) (serial : Nat) : State :=
  (s.updateRoll serial fun r => { r with state := .held }).raiseAll noticeHeld

/-- R143 step 2: a roll becomes CLOSED and joins the label order. -/
def closeRoll (s : State) (serial : Nat) : State :=
  joinOrder (s.updateRoll serial fun r => { r with state := .closed }) serial

/-- How a cut was completed, as REMNANT_CUT gives it (R143). -/
inductive CutOutcome where
  | acknowledged | timedOut | refused
  deriving DecidableEq, Repr

/-- The extra of REMNANT_CUT (R143). -/
def CutOutcome.extra : CutOutcome → BitVec 16
  | .acknowledged => 0
  | .timedOut => 1
  | .refused => 2

/-- R143 step 2 for a REMNANT: the roll leaves the table, and REMNANT_CUT is logged. -/
def removeRemnant (s : State) (r : Roll) (o : CutOutcome) : State :=
  logEvent (dropRoll s r)
    { code := .remnantCut, station := .knife, seq := some r.lastSeq, serial := some r.serial, batch := some r.batch,
      extra := o.extra }

/-- R143 step 2: an ENDING roll is completed. A roll that is absent or not ENDING is left as it stands. -/
def completeEnding (s : State) (serial : Nat) (o : CutOutcome) : State :=
  match s.findRoll serial with
  | some r =>
    if r.state = .ending then
      if r.cls = some .remnant then removeRemnant s r o
      else if r.hold.any then holdRoll s serial
      else closeRoll s serial
    else s
  | none => s

end Sys2Proof.Machine
end

