-- ==== Sys2Proof/Machine/Knife.lean ====
section
/-! DEFINITION. The Knife Sequencer and the knife compare: reach (R14 to R16), firing (R145, R146), queuing and refusing
cuts (R142, R144), and the completion of a cut (R143, R147, R148). -/

namespace Sys2Proof.Machine

/-! ### Hold flags -/

/-- Add hold flags. -/
def HoldFlags.join (h g : HoldFlags) : HoldFlags :=
  ⟨h.cutFault || g.cutFault, h.offMatch || g.offMatch, h.trackingFault || g.trackingFault⟩

/-- The flag CUT_FAULT. -/
def HoldFlags.ofCutFault : HoldFlags := ⟨true, false, false⟩
/-- The flag OFF_MATCH. -/
def HoldFlags.ofOffMatch : HoldFlags := ⟨false, true, false⟩
/-- The flag TRACKING_FAULT. -/
def HoldFlags.ofTrackingFault : HoldFlags := ⟨false, false, true⟩

/-- R143 step 1: a flag is added only to a roll that is BUILDING or ENDING. -/
def Roll.addHold (r : Roll) (g : HoldFlags) : Roll :=
  if r.state = .building ∨ r.state = .ending then { r with hold := r.hold.join g } else r

/-- Add hold flags to a roll of the table, if the cut names one (R143 step 1). -/
def addHold (s : State) (serial : Option Nat) (g : HoldFlags) : State :=
  match serial with
  | some n => s.updateRoll n fun r => r.addHold g
  | none => s

/-! ### Reach and fire -/

/-- R14 to R16: the head cut is tested for reach; with an empty queue the indication is clear. -/
def reachTest (s : State) : State :=
  { s with wpu := { s.wpu with
      reach := match s.ks.queue with
        | [] => false
        | c :: _ => s.wpu.reach || isReached s.wpu.le c.pos } }

/-- The roll that CUT_LATE names: the starting roll when there is one, else the ending roll (R146). -/
def CutKind.startingFirst (k : CutKind) : Option Nat := k.starting.or k.ending

/-- The roll that KNIFE_TIMEOUT and KNIFE_OVERRUN name: the ending roll, else the starting roll (R144, R148). -/
def CutKind.endingFirst (k : CutKind) : Option Nat := k.ending.or k.starting

/-- The cut as it becomes outstanding: its lateness, the LATE flag, and the parameters in force (R145, R146). -/
def State.outstandingOf (s : State) (c : Cut) : Outstanding where
  cut := c
  lateness := signedDistance c.pos s.wpu.le
  late := c.raised || decide ((s.ps.setup.lateTol : Int) < signedDistance c.pos s.wpu.le)
  tKnife := s.ps.setup.tKnife
  lateTol := s.ps.setup.lateTol

/-- R146: a LATE cut logs CUT_LATE and gives OFF_MATCH to its starting roll. -/
def markLate (s : State) (o : Outstanding) : State :=
  if o.late then
    addHold
      (logEvent s { code := .cutLate, station := .knife, serial := o.cut.kind.startingFirst,
                    extra := extraNat o.lateness.toNat })
      o.cut.kind.starting HoldFlags.ofOffMatch
  else s

/-- R145: the head fires when it has been reported reached and no cut is outstanding. The next cut becomes the head and
is tested (R15). -/
def fireIfDue (s : State) : State :=
  match s.ks.queue, s.ks.outstanding, s.wpu.reach with
  | c :: rest, none, true =>
    let o := s.outstandingOf c
    let s1 := { s with
      ks := { s.ks with queue := rest, outstanding := some o, knifeReq := true }
      wpu := { s.wpu with reach := false } }
    markLate (reachTest s1) o
  | _, _, _ => s

/-- The knife compare at a change of LE or of the head (R14), and the firing that follows (R145). -/
def knifeCompare (s : State) : State := fireIfDue (reachTest s)

/-! ### Completion -/

/-- R143: the completion of a cut's rolls: hold flags, the ending roll, the CUT notice. -/
def completeRolls (s : State) (k : CutKind) (o : CutOutcome) (g : HoldFlags) : State :=
  let s1 := addHold (addHold s k.starting g) k.ending g
  let s2 := match k.ending with
    | some n => completeEnding s1 n o
    | none => s1
  s2.raiseAll noticeCut

/-! ### Queuing -/

/-- R133: the RB records in the rolls of a cut the fire position as the KS queued it. -/
def recordPositions (s : State) (c : Cut) : State :=
  let s1 := match c.kind.starting with
    | some n => s.updateRoll n fun r => { r with startPos := c.pos }
    | none => s
  match c.kind.ending with
  | some n => s1.updateRoll n fun r => { r with endPos := some c.pos }
  | none => s1

/-- R142: the reference position of a cut to be placed: the tail cut's, else the outstanding cut's. -/
def KnifeSequencer.reference (ks : KnifeSequencer) : Option Word :=
  (ks.queue.getLast?.map Cut.pos).or (ks.outstanding.map fun o => o.cut.pos)

/-- R142: a cut that lies before the reference position is raised to it. -/
def KnifeSequencer.raised (ks : KnifeSequencer) (c : Cut) : Cut :=
  match ks.reference with
  | some p => if signedDistance p c.pos < 0 then { c with pos := p, raised := true } else { c with raised := false }
  | none => { c with raised := false }

/-- R144: a cut that finds 4 cuts queued is refused. -/
def refuseCut (s : State) (c : Cut) : State :=
  completeRolls
    (logEvent (recordPositions s c)
      { code := .knifeOverrun, station := .knife, serial := c.kind.endingFirst, extra := c.pos.setWidth 16 })
    c.kind .refused HoldFlags.ofCutFault

/-- R142: a cut is placed at the tail; one placed into an empty queue becomes the head and is tested at once. -/
def placeCut (s : State) (c : Cut) : State :=
  let s1 := recordPositions { s with ks := { s.ks with queue := s.ks.queue ++ [c] } } c
  if s.ks.queue.isEmpty then knifeCompare s1 else s1

/-- R142, R144: the RB hands a cut over. -/
def queueCut (s : State) (c : Cut) : State :=
  if s.ks.queue.length < Config.knifeCapacity then placeCut s (s.ks.raised c) else refuseCut s c

/-- An END cut: destination WASTE (section 7.1). -/
def endCut (pos : Word) (ending : Nat) : Cut := ⟨pos, .ends ending, .waste, false⟩

/-- A START cut: destination ROLL. -/
def startCut (pos : Word) (starting : Nat) : Cut := ⟨pos, .starts starting, .roll, false⟩

/-- An END_START cut: destination ROLL. -/
def endStartCut (pos : Word) (ending starting : Nat) : Cut := ⟨pos, .endStart ending starting, .roll, false⟩

end Sys2Proof.Machine
end

