-- ==== Sys2Proof/Machine/Rolls.lean ====
section
/-! DEFINITION. The Roll Builder: fire positions (R131), folds (R119), starts (R125 to R130), closes (R120, R121), the
cuts of a hand-over (R132), the close at drain (R134) and the flush (R135). -/

namespace Sys2Proof.Machine

/-! ### Fire positions -/

/-- P_A on a capture (R131). -/
def posA (r : Recipe) (c : Word) : Word := c + BitVec.ofNat 32 r.phiCut

/-- The drop offset on a length (R131). -/
def dropOffset (r : Recipe) (len : Nat) : Nat := r.drop16 * len / 16

/-- The fire position at a phase, on a capture and a length (R131). -/
def firePos (r : Recipe) (c : Word) (len : Nat) (ph : Phase) : Word :=
  match ph with
  | .a => posA r c
  | .b => posA r c + BitVec.ofNat 32 (dropOffset r len)

/-! ### Folds -/

/-- The MINOR entries of a record, with its overflow when major is no (R119). -/
def RepeatRecord.minorCount (k : RepeatRecord) : Nat :=
  (k.defects.countP fun d => d.severity == .minor) + if k.major then 0 else k.overflow

/-- R119: a fold of record k. -/
def Roll.fold (r : Roll) (k : RepeatRecord) (len : Nat) : Roll :=
  { r with
    length := r.length + len
    repeats := r.repeats + 1
    sums := match k.reading with
      | some x => r.sums.add x
      | none => r.sums
    shadeCount := match k.reading with
      | some _ => r.shadeCount + 1
      | none => r.shadeCount
    minors := satAdd 255 r.minors k.minorCount
    lastSeq := k.seq }

/-! ### Starts -/

/-- The web of a record goes to waste: the segment becomes WASTE (R123). -/
def goWaste (s : State) : State := { s with rb := { s.rb with segment := .waste } }

/-- R126: the look-ahead scan, from the sum so far; true when the start is allowed. -/
def lookAheadScan (r : Recipe) (code : Nat) : List RepeatRecord → Nat → Bool
  | [], _ => true
  | x :: xs, g =>
    if r.lShort ≤ g then true
    else if x.knownBad || (x.shade != .pending && x.shade != .batch code) then false
    else lookAheadScan r code xs (g + x.creditedLen r)

/-- R129: the phase of a roll that starts. -/
def RollBuilder.startPhase (rb : RollBuilder) (r : Recipe) : Phase :=
  match r.mode with
  | .straight => .a
  | .drop => if rb.pendingDrop then .a else rb.nextDrop

/-- R112: the values of a roll started at record k, its start position as computed (R131). -/
def newRoll (r : Recipe) (k : RepeatRecord) (c : Word) (serial batch : Nat) (ph : Phase) : Roll where
  serial := serial
  batch := batch
  state := .building
  phase := ph
  mode := r.mode
  pattern := r.pattern
  repeats := 1
  length := k.creditedLen r
  cls := none
  sums := k.reading.getD ⟨0, 0, 0⟩
  shadeCount := if k.reading.isSome then 1 else 0
  minors := satAdd 255 0 k.minorCount
  hold := ⟨false, false, false⟩
  firstSeq := k.seq
  lastSeq := k.seq
  startPos := firePos r c (k.creditedLen r) ph
  endPos := none
  accepted := false

/-- R130: a start that leaves 14 or more rolls logs ROLL_TABLE_LOW. -/
def warnTableLow (s : State) (roll : Roll) : State :=
  if Config.rollTableLow ≤ s.rb.rolls.length then
    logEvent s { code := .rollTableLow, station := .label, seq := some roll.firstSeq, serial := some roll.serial,
                 batch := some roll.batch, extra := extraNat s.rb.rolls.length }
  else s

/-- R128, R129: a roll starts at record k with a newly reserved serial. -/
def startRoll (s : State) (r : Recipe) (k : RepeatRecord) (c : Word) (code : Nat) : State × Option Roll :=
  let roll := newRoll r k c (s.ps.reservedNow.roll + 1) code (s.rb.startPhase r)
  let s1 := { s with
    ps := s.ps.reserveRoll
    rb := { s.rb with
      rolls := insertBy Roll.serial roll s.rb.rolls
      segment := .roll roll.serial
      pendingDrop := false } }
  let s2 := s1.updateBatch code fun b => { b with rolls := b.rolls + 1 }
  (warnTableLow s2 roll, some roll)

/-- R125: the conditions of a start, in order, on a good record of batch `code`. -/
def tryStart (s : State) (r : Recipe) (k : RepeatRecord) (c : Word) (code : Nat) : State × Option Roll :=
  if Config.rollCapacity ≤ s.rb.rolls.length then
    (logEvent (goWaste s) { code := .rollTableFull, station := .label, seq := some k.seq, batch := some code,
                            extra := 16 }, none)
  else if r.lookAhead && !lookAheadScan r code s.rt.queue (k.creditedLen r) then (goWaste s, none)
  else if Config.maxWord ≤ s.ps.reservedNow.roll then
    (logEvent (goWaste s) { code := .counterExhausted, station := .store, seq := some k.seq, batch := some code,
                            extra := 1 }, none)
  else startRoll s r k c code

/-- R123: a record is decided on its own: a roll starts at it, or it goes to waste. The answer names the roll started. -/
def decideOwn (s : State) (r : Recipe) (k : RepeatRecord) (c : Word) : State × Option Roll :=
  match k.shade with
  | .batch code => if k.isGood && !k.knifeMissed then tryStart s r k c code else (goWaste s, none)
  | .pending | .noBatch => (goWaste s, none)

/-! ### Closes -/

/-- R120: the class of a roll that closes for a cause other than its length. -/
def Roll.earlyClass (roll : Roll) (r : Recipe) : RollClass := if r.lShort ≤ roll.length then .short else .remnant

/-- R121 step 1: the class is set and the roll is ENDING. -/
def markEnding (s : State) (serial : Nat) (cls : RollClass) : State :=
  s.updateRoll serial fun x => { x with cls := some cls, state := .ending }

/-- R121 step 2: in DROP mode a FULL or SHORT close turns the next drop phase over. -/
def turnDrop (s : State) (r : Recipe) (ph : Phase) (cls : RollClass) : State :=
  if r.mode = .drop ∧ cls ≠ .remnant then { s with rb := { s.rb with nextDrop := ph.opposite } } else s

/-- R132: the cuts of a hand-over at which `roll` closed at `endPos` and, where given, another roll started. -/
def queueClose (s : State) (roll : Roll) (endPos : Word) (started : Option Roll) : State :=
  match started with
  | none => queueCut s (endCut endPos roll.serial)
  | some n =>
    if n.phase = roll.phase then queueCut s (endStartCut endPos roll.serial n.serial)
    else queueCut (queueCut s (endCut endPos roll.serial)) (startCut n.startPos n.serial)

/-- R121: the BUILDING roll closes at record k. -/
def closeAt (s : State) (r : Recipe) (k : RepeatRecord) (c : Word) (roll : Roll) (cls : RollClass) : State :=
  let endPos := firePos r c (k.creditedLen r) roll.phase
  let s1 := turnDrop (markEnding s roll.serial cls) r roll.phase cls
  if r.mode = .drop ∧ roll.phase = .b ∧ cls ≠ .remnant then
    queueClose { s1 with rb := { s1.rb with segment := .awaitA, pendingDrop := true } } roll endPos none
  else
    let d := decideOwn (goWaste s1) r k c
    queueClose d.1 roll endPos d.2

/-- R132: a record decided when no roll was building; a start queues its START cut. -/
def decideAlone (s : State) (r : Recipe) (k : RepeatRecord) (c : Word) : State :=
  let d := decideOwn s r k c
  match d.2 with
  | some n => queueCut d.1 (startCut n.startPos n.serial)
  | none => d.1

/-- The BUILDING roll that the segment names. -/
def State.buildingRoll (s : State) : Option Roll :=
  match s.rb.segment with
  | .roll serial => s.findRoll serial
  | .none | .waste | .awaitA => none

/-- The hold flag TRACKING_FAULT on a roll (R117, R122). -/
def trackingFault (s : State) (serial : Nat) : State :=
  s.updateRoll serial fun x => x.addHold HoldFlags.ofTrackingFault

/-- R116 to R118: the decision when a roll is building. -/
def decideBuilding (s : State) (r : Recipe) (k : RepeatRecord) (c : Word) (roll : Roll) : State :=
  if r.lOrd ≤ roll.length then
    closeAt (if k.knifeMissed then trackingFault s roll.serial else s) r k c roll .full
  else if k.knifeMissed then
    trackingFault (s.updateRoll roll.serial fun x => x.fold k (k.creditedLen r)) roll.serial
  else if k.isGood && k.shade == .batch roll.batch then
    s.updateRoll roll.serial fun x => x.fold k (k.creditedLen r)
  else closeAt s r k c roll (roll.earlyClass r)

/-- R113, R116: the RB takes a record and its capture, and decides. -/
def builderTake (s : State) (r : Recipe) (k : RepeatRecord) (c : Word) : State :=
  let s1 := { s with rb := { s.rb with lastHandOver := some ⟨c, k.creditedLen r⟩ } }
  match s1.buildingRoll with
  | some roll => decideBuilding s1 r k c roll
  | none => decideAlone s1 r k c

/-- R122: the knife point has entered LOST. -/
def builderTrackLost (s : State) : State :=
  match s.buildingRoll with
  | some roll => trackingFault s roll.serial
  | none => s

/-! ### The end of a run -/

/-- The segment becomes NONE and the pending drop start flag is cleared (R134, R135). -/
def endSegment (s : State) : State := { s with rb := { s.rb with segment := .none, pendingDrop := false } }

/-- The last hand-over, free where it is absent (R113; log entry 6). -/
def RollBuilder.lastTaken (rb : RollBuilder) : HandOver :=
  rb.lastHandOver.getD ⟨Config.absentCapture, Config.absentLength⟩

/-- R134: the position of the end cut of a roll that closes at drain completion. -/
def drainPos (s : State) (r : Recipe) (ph : Phase) : Word :=
  firePos r (s.rb.lastTaken.capture + BitVec.ofNat 32 s.rb.lastTaken.len) s.rb.lastTaken.len ph

/-- R134: the class of a roll that closes at drain completion. -/
def Roll.drainClass (roll : Roll) (r : Recipe) : RollClass :=
  if r.lOrd ≤ roll.length then .full else roll.earlyClass r

/-- R134: the roll closes at drain completion; the answer is its serial. -/
def drainClose (s : State) (r : Recipe) : State × Option Nat :=
  match s.buildingRoll with
  | some roll =>
    let cls := roll.drainClass r
    let s1 := endSegment (turnDrop (markEnding s roll.serial cls) r roll.phase cls)
    (queueCut s1 (endCut (drainPos s r roll.phase) roll.serial), some roll.serial)
  | none => (endSegment s, none)

/-- R135: the roll closes at FLUSH RUN without an end cut; the answer is its serial. -/
def flushClose (s : State) (r : Recipe) : State × Option Nat :=
  match s.buildingRoll with
  | some roll =>
    let s1 := s.updateRoll roll.serial fun x =>
      { x with cls := some (roll.earlyClass r), hold := x.hold.join HoldFlags.ofCutFault }
    let s2 := match roll.earlyClass r with
      | .remnant => dropRoll s1 roll
      | .full | .short => holdRoll s1 roll.serial
    (endSegment s2, some roll.serial)
  | none => (endSegment s, none)

end Sys2Proof.Machine
end

