-- ==== Sys2Proof/Machine/Session.lean ====
section
/-! DEFINITION. The Session Controller: drain completion (R24), the flush of a run (R25), the clear of the line (R28,
R29), and the start of a run (R21). -/

namespace Sys2Proof.Machine

/-- The run state, when a recipe is loaded. -/
def Session.run? : Session → Option RunState
  | .unloaded => none
  | .loaded run _ => some run

/-- The loaded recipe. -/
def Session.recipe? : Session → Option Recipe
  | .unloaded => none
  | .loaded _ r => some r

/-- Put the session into a run state, with its recipe. -/
def State.enter (s : State) (run : RunState) (r : Recipe) : State :=
  { s with sc := { s.sc with session := .loaded run r } }

/-! ### Drain completion -/

/-- R24 steps 1 to 5, each taken whole. An end cut queued in step 1 that is already reached fires there, and is logged
CUT_LATE when it is LATE, while the session is still DRAINING and before DRAIN_COMPLETE: R14 and R142 say at once, R24,
R134 and R151 say that it fires in ARMED (DESIGN CHOICE, log entry 31). DRAIN_COMPLETE carries extra 0, which no file of
the spec gives (DESIGN CHOICE, log entry 33). -/
def drainNow (s : State) (r : Recipe) : State :=
  let d := drainClose s r
  logEvent ((ercOff (closeBatches d.1)).enter .armed r)
    { code := .drainComplete, station := .line, serial := d.2 }

/-- R24: the drain completion test. -/
def drainTest (s : State) : State :=
  match s.sc.session with
  | .loaded .draining r => if s.webClear then drainNow s r else s
  | .loaded .armed _ | .loaded .running _ | .unloaded => s

/-! ### Starting a run -/

/-- R21, R38, R39, R64: what START RUN sets. -/
def startRunNow (s : State) (r : Recipe) : State :=
  let s1 := (ercStart s r).enter .running r
  { s1 with
    sc := { s1.sc with nextSeq := 1, seqSpent := false }
    rt := { s1.rt with leaderNext := true, emboss := ⟨.seeking, 0⟩, knife := ⟨.seeking, 0⟩ }
    rb := { s1.rb with segment := .none, nextDrop := .a, pendingDrop := false } }

/-! ### Flushing a run -/

/-- R25 step 1, R61: one record leaves the queue as bad; its batch's queued count falls and is tested (R101). -/
def flushRecord (s : State) (k : RepeatRecord) : State :=
  freeTestOf (lowerQueued { s with rt := { s.rt with queue := s.rt.queue.tail } } k.shade) k.shade

/-- R25: steps 1 to 6. -/
def flushNow (s : State) (r : Recipe) : State :=
  let d := flushClose (s.rt.queue.foldl flushRecord s) r
  logEvent ((ercOff (closeBatches d.1)).enter .armed r)
    { code := .runFlushed, station := .line, serial := d.2, extra := extraNat s.rt.queue.length }

/-! ### Clearing the line -/

/-- R28: the Repeat Queue is emptied, and both points return to SEEKING. -/
def clearQueue (s : State) : State :=
  let s1 := s.rt.queue.foldl (fun t k => lowerQueued t k.shade) s
  { s1 with rt := { s1.rt with queue := [], emboss := ⟨.seeking, 0⟩, knife := ⟨.seeking, 0⟩ } }

/-- R28, R16, R152: the Knife Queue is emptied, an outstanding cut withdrawn, and DIVERT set to WASTE. -/
def clearKnife (s : State) : State :=
  { s with
    ks := ⟨[], none, false, .waste⟩
    wpu := { s.wpu with reach := false } }

/-- Whether a roll is not yet complete: BUILDING or ENDING (R28). -/
def Roll.inFlight (r : Roll) : Bool := r.state == .building || r.state == .ending

/-- R28, R136: the BUILDING and ENDING rolls leave the table, and the roll counts of their batches fall. -/
def clearRolls (s : State) : State :=
  let s1 := (s.rb.rolls.filter Roll.inFlight).foldl (fun t roll => lowerRolls t roll.batch) s
  { s1 with
    rb := { s1.rb with
      rolls := s1.rb.rolls.filter fun (roll : Roll) => !roll.inFlight
      segment := .none
      nextDrop := .a
      pendingDrop := false } }

/-- R28, R29: CLEAR LINE carried out. -/
def clearNow (s : State) (r : Recipe) : State :=
  let s1 := (ercOff (closeAndFreeBatches (clearRolls (clearKnife (clearQueue s))))).enter .armed r
  let s2 := { s1 with sc := { s1.sc with clearArmed := ⟨false, false, false⟩ } }
  (logEvent s2 { code := .lineCleared, station := .line, extra := extraNat s.rt.queue.length }).raiseAll noticeCleared

end Sys2Proof.Machine
end

