-- ==== Sys2Proof/Machine/Tracker.lean ====
section
/-! DEFINITION. The Repeat Tracker: deliveries of print marks (R35 to R38), emboss marks (R40, R42, R44 to R50) and cut
marks (R41, R43 to R51), the hand-over (R54, R55), and what the WPU does with the verdicts (R5 to R11). -/

namespace Sys2Proof.Machine

/-- The verdict on a delivery (R9). -/
inductive MarkVerdict where
  | taken | spurious | refused
  deriving DecidableEq, Repr

/-! ### Print marks -/

/-- R38: whether a print length is flagged PRINT_IRREGULAR. -/
def irregularLength (r : Recipe) (len : Nat) : Bool := decide (len + r.rTol < r.rNom) || decide (r.rNom + r.rTol < len)

/-- R38: the print length of the next record, absent in the first of a run. -/
def State.printLength (s : State) (prev : Option Capture) (capture : Word) : Option Nat :=
  if s.rt.leaderNext then none else prev.map fun p => lengthFrom p.pos capture

/-- R36, R38: the record created at a print mark. -/
def newRecord (s : State) (r : Recipe) (prev : Option Capture) (capture : Word) : RepeatRecord where
  seq := s.sc.nextSeq
  printPos := capture
  printLen := s.printLength prev capture
  leader := s.rt.leaderNext
  irregular := ((s.printLength prev capture).map (irregularLength r)).getD false
  splice := s.wpu.spliceArm
  emboss := .awaiting
  embossPos := none
  embossLen := none
  stretch := none
  embossError := none
  register := if r.emboss then .pending else .notApplicable
  reading := none
  shade := .pending
  defects := []
  overflow := 0
  major := false
  knifeMissed := false
  untrackedAtKnife := false

/-- R22: the run sequence counter after a record has taken its value. -/
def SessionControl.advanceSeq (c : SessionControl) : SessionControl :=
  if c.nextSeq < Config.maxWord then { c with nextSeq := c.nextSeq + 1 } else { c with seqSpent := true }

/-- R36: a record joins the queue at the tail; the leader flag and the splice arm are consumed. -/
def createRecord (s : State) (r : Recipe) (prev : Option Capture) (capture : Word) : State :=
  { s with
    rt := { s.rt with queue := s.rt.queue ++ [newRecord s r prev capture], leaderNext := false }
    sc := s.sc.advanceSeq
    wpu := { s.wpu with spliceArm := false } }

/-- R35, R37, R22: a print mark delivered in RUNNING. -/
def deliverPrint (s : State) (r : Recipe) (prev : Option Capture) (capture : Word) : State × MarkVerdict :=
  if Config.queueCapacity ≤ s.rt.queue.length then
    (logEvent s { code := .queueFull, station := .print, seq := some s.sc.nextSeq }, .refused)
  else if s.sc.seqSpent then (s, .refused)
  else (createRecord s r prev capture, .taken)

/-! ### Emboss marks -/

/-- Change the emboss point. -/
def State.putEmboss (s : State) (p : TrackPoint) : State := { s with rt := { s.rt with emboss := p } }

/-- R45, R52, R53: the record matched in SYNC, with its emboss length and stretch when its print length is present. -/
def RepeatRecord.matchedIn (k : RepeatRecord) (capture : Word) (m : Nat) : RepeatRecord :=
  match k.printLen with
  | some lp =>
    { k with
      emboss := .matched
      embossPos := some capture
      embossLen := some m
      stretch := some (roundDiv (((m : Int) - lp) * 1000000) lp) }
  | none => { k with emboss := .matched, embossPos := some capture }

/-- R44, R47: the record matched without an emboss length. -/
def RepeatRecord.matchedBare (k : RepeatRecord) (capture : Word) : RepeatRecord :=
  { k with emboss := .matched, embossPos := some capture }

/-- R41, R47: the record passed unseen. -/
def RepeatRecord.missed (k : RepeatRecord) : RepeatRecord :=
  { k with emboss := .missed, register := k.register.lostTrack }

/-- R48, R49: the record matched unchecked at the emboss point. -/
def RepeatRecord.untracked (k : RepeatRecord) (capture : Word) : RepeatRecord :=
  { k with emboss := .untracked, embossPos := some capture, register := k.register.lostTrack }

/-- R40: the records still AWAITING, oldest first. -/
def State.awaitingRecords (s : State) : List RepeatRecord := s.rt.queue.filter fun k => k.emboss == .awaiting

/-- R46: SPURIOUS_MARK at a station. -/
def logSpurious (s : State) (st : Station) (seq m : Nat) : State :=
  logEvent s { code := .spuriousMark, station := st, seq := some seq, extra := extraNat m }

/-- R48: TRACK_LOST at a station. -/
def logTrackLost (s : State) (st : Station) (seq m : Nat) : State :=
  logEvent s { code := .trackLost, station := st, seq := some seq, extra := extraNat m }

/-- R41, R46, R47: EMBOSS_MISSED, with extra 0 for a record skipped at the emboss point and 1 for one overtaken. -/
def logEmbossMissed (s : State) (seq : Nat) (extra : BitVec 16) : State :=
  logEvent s { code := .embossMissed, station := .emboss, seq := some seq, extra := extra }

/-- R44: an emboss mark in SEEKING. -/
def embossSeek (s : State) (r : Recipe) (k : RepeatRecord) (le : Word) (ca : Angle) : State :=
  ercTake ((s.updateRecord k.seq fun x => x.matchedBare le).putEmboss ⟨.sync, s.rt.emboss.regain⟩) r k.seq ca

/-- R45: a plausible emboss mark in SYNC. -/
def embossMatch (s : State) (r : Recipe) (k : RepeatRecord) (le : Word) (ca : Angle) (m : Nat) : State :=
  ercTake (s.updateRecord k.seq fun x => x.matchedIn le m) r k.seq ca

/-- R47: an emboss mark that fits one skipped record. -/
def embossSkip (s : State) (r : Recipe) (k n : RepeatRecord) (le : Word) (ca : Angle) : State :=
  let s1 := logEmbossMissed (s.updateRecord k.seq RepeatRecord.missed) k.seq 0
  ercTake (s1.updateRecord n.seq fun x => x.matchedBare le) r n.seq ca

/-- R48: an emboss mark that puts the point into LOST. -/
def embossLose (s : State) (k : RepeatRecord) (le : Word) (m : Nat) : State :=
  (ercHold ((logTrackLost s .emboss k.seq m).putEmboss ⟨.lost, 0⟩)).updateRecord k.seq fun x => x.untracked le

/-- R49: the regain counter of a point in LOST after a mark; true when the point returns to SYNC. -/
def TrackPoint.afterLost (p : TrackPoint) (plausible : Bool) : TrackPoint × Bool :=
  if plausible then
    if 3 ≤ p.regain + 1 then (⟨.sync, 0⟩, true) else (⟨.lost, p.regain + 1⟩, false)
  else (⟨.lost, 0⟩, false)

/-- R49: TRACK_REGAINED at a station. -/
def logRegained (s : State) (st : Station) (seq : Nat) : State :=
  logEvent s { code := .trackRegained, station := st, seq := some seq }

/-- R49: an emboss mark in LOST. -/
def embossLost (s : State) (k : RepeatRecord) (le : Word) (plausible : Bool) : State :=
  let p := s.rt.emboss.afterLost plausible
  let s1 := (s.updateRecord k.seq fun x => x.untracked le).putEmboss p.1
  if p.2 then ercReacquire (logRegained s1 .emboss k.seq) else s1

/-- R46 to R48: an emboss mark in SYNC that is not plausible. -/
def embossOff (s : State) (r : Recipe) (k : RepeatRecord) (next : Option RepeatRecord) (le : Word) (ca : Angle)
    (m : Nat) : State × MarkVerdict :=
  let w := embossWindow r s.ps.setup k
  if w.short m then (logSpurious s .emboss k.seq m, .spurious)
  else match next with
    | some n =>
      if (w.join (embossWindow r s.ps.setup n)).fits m then (embossSkip s r k n le ca, .taken)
      else (embossLose s k le m, .taken)
    | none => (embossLose s k le m, .taken)

/-- R40, R44 to R49: an emboss mark delivered in RUNNING or DRAINING. -/
def deliverEmboss (s : State) (r : Recipe) (prev : Option Capture) (le : Word) (ca : Angle) : State × MarkVerdict :=
  match s.awaitingRecords with
  | [] => (s, .spurious)
  | k :: rest =>
    let m := measured prev le
    let plausible := (embossWindow r s.ps.setup k).fits m
    match s.rt.emboss.mode with
    | .seeking => (embossSeek s r k le ca, .taken)
    | .sync => if plausible then (embossMatch s r k le ca m, .taken) else embossOff s r k rest.head? le ca m
    | .lost => (embossLost s k le plausible, .taken)

/-! ### The hand-over -/

/-- R41: a record still AWAITING at its hand-over becomes MISSED, and EMBOSS_MISSED is logged with extra 1. It is logged
at a knife point in LOST too, where R49 says that no EMBOSS_MISSED is logged (DESIGN CHOICE, log entry 23). -/
def overtake (s : State) (k : RepeatRecord) : State × RepeatRecord :=
  if k.emboss = .awaiting then (logEmbossMissed s k.seq 1, k.missed) else (s, k)

/-- R54 steps 1 to 3, R41, R101: the record leaves the queue with its capture, its batch's queued count falls, the RB
decides, and the batch is tested for freeing. -/
def handOver (s : State) (r : Recipe) (k : RepeatRecord) (c : Word) : State :=
  let o := overtake s k
  let s1 := lowerQueued { o.1 with rt := { o.1.rt with queue := o.1.rt.queue.tail } } k.shade
  freeTestOf (builderTake s1 r o.2 c) k.shade

/-! ### Cut marks -/

/-- Change the knife point. -/
def State.putKnife (s : State) (p : TrackPoint) : State := { s with rt := { s.rt with knife := p } }

/-- R44: a cut mark in SEEKING. -/
def knifeSeek (s : State) (r : Recipe) (k : RepeatRecord) (c : Word) : State :=
  drainTest (handOver (s.putKnife ⟨.sync, s.rt.knife.regain⟩) r k c)

/-- R45: a plausible cut mark in SYNC. -/
def knifeMatch (s : State) (r : Recipe) (k : RepeatRecord) (c : Word) : State := drainTest (handOver s r k c)

/-- R55: the capture estimated for a skipped record, from the mark and the record matched after it. -/
def estimatedCapture (r : Recipe) (n : RepeatRecord) (c : Word) : Word := c - BitVec.ofNat 32 (n.creditedLen r)

/-- R47, R54, R55: a cut mark that fits one skipped record. KNIFE_MISSED is logged before everything that the hand-over of
the skipped record logs (EMBOSS_MISSED, KNIFE_OVERRUN, CUT_LATE, REMNANT_CUT), and an EMBOSS_MISSED of the record matched
after all that (DESIGN CHOICE, log entry 7). -/
def knifeSkip (s : State) (r : Recipe) (k n : RepeatRecord) (c : Word) : State :=
  let s1 := logEvent s { code := .knifeMissed, station := .knife, seq := some k.seq }
  drainTest (handOver (handOver s1 r { k with knifeMissed := true } (estimatedCapture r n c)) r n c)

/-- R48, R51: a cut mark that puts the point into LOST. -/
def knifeLose (s : State) (r : Recipe) (k : RepeatRecord) (c : Word) (m : Nat) : State :=
  let s1 := builderTrackLost ((logTrackLost s .knife k.seq m).putKnife ⟨.lost, 0⟩)
  drainTest (handOver s1 r { k with untrackedAtKnife := true } c)

/-- R49: a cut mark in LOST. -/
def knifeLost (s : State) (r : Recipe) (k : RepeatRecord) (c : Word) (plausible : Bool) : State :=
  let p := s.rt.knife.afterLost plausible
  let s1 := drainTest (handOver (s.putKnife p.1) r { k with untrackedAtKnife := true } c)
  if p.2 then logRegained s1 .knife k.seq else s1

/-- R46 to R48: a cut mark in SYNC that is not plausible. -/
def knifeOff (s : State) (r : Recipe) (k : RepeatRecord) (next : Option RepeatRecord) (c : Word) (m : Nat) :
    State × MarkVerdict :=
  let w := knifeWindow r s.ps.setup k
  if w.short m then (logSpurious s .knife k.seq m, .spurious)
  else match next with
    | some n =>
      if (w.join (knifeWindow r s.ps.setup n)).fits m then (knifeSkip s r k n c, .taken)
      else (knifeLose s r k c m, .taken)
    | none => (knifeLose s r k c m, .taken)

/-- R41, R44 to R49: a cut mark delivered in RUNNING or DRAINING. -/
def deliverCut (s : State) (r : Recipe) (prev : Option Capture) (c : Word) : State × MarkVerdict :=
  match s.rt.queue with
  | [] => (s, .spurious)
  | k :: rest =>
    let m := measured prev c
    let plausible := (knifeWindow r s.ps.setup k).fits m
    match s.rt.knife.mode with
    | .seeking => (knifeSeek s r k c, .taken)
    | .sync => if plausible then (knifeMatch s r k c, .taken) else knifeOff s r k rest.head? c m
    | .lost => (knifeLost s r k c plausible, .taken)

/-! ### Capture, acceptance and verdict -/

/-- The counter on which a sensor's positions are taken (R5, R8). -/
def Wpu.counter (w : Wpu) : Sensor → Word
  | .pm => w.pe
  | .em => w.le
  | .cm => w.le

/-- The capture that a sensor makes (R5): PE for PM, LE and CA for EM, LE for CM. -/
def Wpu.captureOf (w : Wpu) (sensor : Sensor) : Capture where
  pos := w.counter sensor
  angle := match sensor with
    | .em => some w.ca
    | .pm => none
    | .cm => none

/-- The direction that governs a sensor (R5, R6). -/
def Wpu.direction (w : Wpu) : Sensor → Direction
  | .pm => w.peDir
  | .em => w.leDir
  | .cm => w.leDir

/-- The blanking test (R8). -/
def passesBlanking (r : Recipe) (last : Option Capture) (capture : Word) : Bool :=
  match last with
  | none => true
  | some p => decide ((r.rNom : Int) ≤ 2 * signedDistance p.pos capture)

/-- R18, R35, R40, R41: the Repeat Tracker takes a delivery with the previous accepted capture, and answers. -/
def deliver (s : State) (sensor : Sensor) (run : RunState) (r : Recipe) (prev : Option Capture) :
    State × MarkVerdict :=
  match run, sensor with
  | .armed, _ => (s, .spurious)
  | .running, .pm => deliverPrint s r prev s.wpu.pe
  | .draining, .pm => (s, .spurious)
  | .running, .em => deliverEmboss s r prev s.wpu.le s.wpu.ca
  | .draining, .em => deliverEmboss s r prev s.wpu.le s.wpu.ca
  | .running, .cm => deliverCut s r prev s.wpu.le
  | .draining, .cm => deliverCut s r prev s.wpu.le

/-- R11: the spurious counter of a sensor is incremented, saturating. -/
def SensorState.countSpurious (x : SensorState) : SensorState := { x with spurious := satAdd 65535 x.spurious 1 }

/-- Change what the WPU keeps of a sensor. -/
def State.onSensor (s : State) (sensor : Sensor) (f : SensorState → SensorState) : State :=
  { s with wpu := s.wpu.setSensor sensor (f (s.wpu.sensor sensor)) }

/-- R10: the WPU applies the verdict on a delivery. -/
def applyVerdict (s : State) (sensor : Sensor) (prev : Option Capture) (v : MarkVerdict) : State :=
  match v with
  | .taken => s
  | .spurious => s.onSensor sensor fun x => { x with last := prev }.countSpurious
  | .refused => s.onSensor sensor fun x => { x with last := prev }

/-- R9, R10: a capture is accepted, recorded whole, delivered with the previous one, and its verdict applied. -/
def acceptCapture (s : State) (sensor : Sensor) (run : RunState) (r : Recipe) : State :=
  let prev := (s.wpu.sensor sensor).last
  let d := deliver (s.onSensor sensor fun x => { x with last := some (s.wpu.captureOf sensor) }) sensor run r prev
  applyVerdict d.1 sensor prev d.2

/-- R5 to R8: whether a capture passes the direction test and the blanking test, under a loaded recipe. -/
def State.accepts (s : State) (sensor : Sensor) (r : Recipe) : Bool :=
  s.wpu.direction sensor == .forward &&
    passesBlanking r (s.wpu.sensor sensor).last (s.wpu.counter sensor)

/-- R5 to R11: one capture. -/
def capture (s : State) (sensor : Sensor) : State :=
  match s.sc.session with
  | .unloaded => s.onSensor sensor SensorState.countSpurious
  | .loaded run r =>
    if s.accepts sensor r then acceptCapture s sensor run r else s.onSensor sensor SensorState.countSpurious

end Sys2Proof.Machine
end

