-- ==== Sys2Proof/Machine/WebMeanings.lean ====
section
/-! DEFINITION. The meanings of the web-side commands and of the timed commands of the knife and the PWM: DEVICE_RESET to
PWM_PERIOD_END. -/

namespace Sys2Proof.Machine

/-! ### Device reset -/

/-- R185: the array as a device reset finds it. A write cut short has left its content invalid already; a commit attempt
cut short leaves the block invalid unless it had ended with the block marked valid. -/
def PersistentStore.arrayAtReset (ps : PersistentStore) (landed : Bool) : StoreArray :=
  match ps.op with
  | .idle => ps.array
  | .writing _ _ => ps.array
  | .committing c => if landed then { ps.array with counters := some c.values } else ps.array
  | .committingOver c _ => if landed then { ps.array with counters := some c.values } else ps.array

/-- The machine after a device reset: the reset values of every block, on the array as found, with the levels on the
encoder inputs (log entry 2) and the waiting commands (log entry 21) as they stand. -/
def State.afterDeviceReset (s : State) (cause : ResetCause) (landed : Bool) : State where
  wpu := Wpu.afterReset s.wpu.peIn s.wpu.leIn s.wpu.caIn
  sc := SessionControl.afterReset
  rt := RepeatTracker.afterReset
  erc := Erc.afterReset
  batches := []
  rb := RollBuilder.afterReset
  ks := KnifeSequencer.afterReset
  ld := LabelDispatcher.afterReset
  ps := PersistentStore.afterReset (s.ps.arrayAtReset landed)
  events := LineEvents.afterReset cause
  ports := ⟨PortState.afterReset, PortState.afterReset, PortState.afterReset⟩
  pending := s.pending

/-- DEVICE_RESET (R19, R179, R185, R196, R204). -/
def execDeviceReset (cause : ResetCause) (commitLanded : Bool) (s : State) : Host.Outcome State Fault Refusal :=
  .next (s.afterDeviceReset cause commitLanded)

/-! ### Encoders -/

/-- R1: the sense of an edge of a two-channel encoder; none when no input or both inputs changed. A leads B in the
sequence 00, 10, 11, 01 (log entry 3). -/
def quadSense (old new : Quad) : Option Direction :=
  if (old.a != new.a) == (old.b != new.b) then none
  else if new.a != old.b then some .forward else some .reverse

/-- One count up or down, wrapping at the width of the counter (R1, R3). -/
def stepCount {w : Nat} (d : Direction) (x : BitVec w) : BitVec w :=
  match d with
  | .forward => x + 1
  | .reverse => x - 1

/-- R1, R2: an edge of the print encoder. -/
def countPe (s : State) (new : Quad) : State :=
  match quadSense s.wpu.peIn new with
  | some d => { s with wpu := { s.wpu with pe := stepCount d s.wpu.pe, peDir := d, peIn := new } }
  | none => { s with wpu := { s.wpu with peIn := new } }

/-- R1, R2, R14: an edge of the line encoder; a change of LE makes the knife compare. -/
def countLe (s : State) (new : Quad) : State :=
  match quadSense s.wpu.leIn new with
  | some d => knifeCompare { s with wpu := { s.wpu with le := stepCount d s.wpu.le, leDir := d, leIn := new } }
  | none => { s with wpu := { s.wpu with leIn := new } }

/-- R3: an edge of the angle encoder. -/
def countCa (s : State) (new : Quad) : State :=
  match quadSense s.wpu.caIn new with
  | some d => { s with wpu := { s.wpu with ca := stepCount d s.wpu.ca, caIn := new } }
  | none => { s with wpu := { s.wpu with caIn := new } }

/-- ENCODER_COUNT (R1, R2, R14). -/
def execEncoderCount (encoder : Encoder) (a b : Bool) (s : State) : Host.Outcome State Fault Refusal :=
  match encoder with
  | .pe => .next (countPe s ⟨a, b⟩)
  | .le => .next (countLe s ⟨a, b⟩)

/-- CA_COUNT (R3). -/
def execCaCount (a b : Bool) (s : State) : Host.Outcome State Fault Refusal := .next (countCa s ⟨a, b⟩)

/-- The angle offset of R4: CA below 8,192, CA − 16,384 from 8,192 on. -/
def angleSlip (ca : Angle) : Int := ca.toInt

/-- R4: the angle-slip check. -/
def slipCheck (s : State) : State :=
  if 8 < (angleSlip s.wpu.ca).natAbs then
    logEvent s { code := .angleSlip, station := .emboss, extra := extraInt (angleSlip s.wpu.ca) }
  else s

/-- CA_INDEX (R3, R4). -/
def execCaIndex (s : State) : Host.Outcome State Fault Refusal :=
  .next { slipCheck s with wpu := { (slipCheck s).wpu with ca := 0 } }

/-! ### Marks and splices -/

/-- MARK_CAPTURE (R5 to R11, and the Repeat Tracker's rules). -/
def execMarkCapture (sensor : Sensor) (s : State) : Host.Outcome State Fault Refusal := .next (capture s sensor)

/-- R12: the newest record is flagged SPLICE. -/
def flagTail (s : State) : State :=
  match s.tailSeq with
  | some seq => s.updateRecord seq fun k => { k with splice := true }
  | none => s

/-- SPLICE (R12). -/
def execSplice (s : State) : Host.Outcome State Fault Refusal :=
  .next { flagTail s with wpu := { (flagTail s).wpu with spliceArm := true } }

/-! ### The knife -/

/-- R147 step 1 and 2, R148 steps 1 and 2: KNIFE_REQ is negated and DIVERT takes the cut's destination. -/
def answerCut (s : State) (o : Outstanding) : State :=
  { s with ks := { s.ks with knifeReq := false, divert := o.cut.dest } }

/-- R147, R148, the last steps: the outstanding cut becomes absent, the head fires when reached, and the drain completion
test is made. -/
def releaseCut (s : State) : State :=
  drainTest (fireIfDue { s with ks := { s.ks with outstanding := none } })

/-- R147: an acknowledged cut. -/
def acknowledgeCut (s : State) (o : Outstanding) : State :=
  let s1 := completeRolls (answerCut s o) o.cut.kind .acknowledged ⟨false, false, false⟩
  releaseCut (if o.late then s1 else recoverStation s1 .knife)

/-- R148: a cut that was not answered in time. -/
def failCut (s : State) (o : Outstanding) : State :=
  let s1 := logEvent (answerCut s o)
    { code := .knifeTimeout, station := .knife, serial := o.cut.kind.endingFirst, extra := extraNat o.tKnife }
  releaseCut (completeRolls s1 o.cut.kind .timedOut HoldFlags.ofCutFault)

/-- KNIFE_ACK (R147, R149). -/
def execKnifeAck (s : State) : Host.Outcome State Fault Refusal :=
  match s.ks.outstanding with
  | some o => .next (acknowledgeCut s o)
  | none => .next (logEvent s { code := .knifeLateAck, station := .knife })

/-- KNIFE_TIMEOUT (R148). With no cut outstanding the timer is stopped and nothing happens (log entry 9). -/
def execKnifeTimeout (s : State) : Host.Outcome State Fault Refusal :=
  match s.ks.outstanding with
  | some o => .next (failCut s o)
  | none => .next s

/-! ### The PWM -/

/-- PWM_PERIOD_END (R81). -/
def execPwmPeriodEnd (s : State) : Host.Outcome State Fault Refusal :=
  .next { s with erc := { s.erc with appliedDuty := s.erc.pendingDuty } }

end Sys2Proof.Machine
end

