-- ==== Sys2Proof/Machine/StoreMeanings.lean ====
section
/-! DEFINITION. The meanings of the store commands: the timed events WRITE_SUSPEND, STORE_WRITE_END and
COMMIT_ATTEMPT_END, and the requests WRITE_RECIPE to READ_COUNTERS. -/

namespace Sys2Proof.Machine

/-! ### Timed events -/

/-- WRITE_SUSPEND (R181). With no suspension due nothing happens (log entry 9). -/
def execWriteSuspend (s : State) : Host.Outcome State Fault Refusal :=
  match s.ps.op with
  | .writing w true => .next { s with ps := s.ps.startSeries false (some w) }
  | .writing _ false => .next s
  | .idle => .next s
  | .committing _ => .next s
  | .committingOver _ _ => .next s

/-- R177, R178, R184: the end of a write. -/
def endWrite (s : State) (w : StoreWrite) (suspending agrees : Bool) : State :=
  let s1 := if agrees then { s with ps := s.ps.finishWrite w } else s
  let s2 := postStoreEnd s1 w.port (w.finalStatus agrees)
  { s2 with ps := s2.ps.afterWrite suspending }

/-- STORE_WRITE_END (R177, R178, R184). With no write running nothing happens (log entry 9). -/
def execStoreWriteEnd (agrees : Bool) (s : State) : Host.Outcome State Fault Refusal :=
  match s.ps.op with
  | .writing w suspending => .next (endWrite s w suspending agrees)
  | .idle => .next s
  | .committing _ => .next s
  | .committingOver _ _ => .next s

/-- R182 steps 1 and 2: the block is valid in the array, the mirror takes the values written, the validity is VALID and
the failure count 0. -/
def PersistentStore.confirm (ps : PersistentStore) (v : Counters) : PersistentStore :=
  { ps with array := { ps.array with counters := some v }, mirror := some v, validity := .valid, failures := 0 }

/-- R182 step 3: STORE_RECOVERED when the STORE reference is set. -/
def announceRecovery (s : State) : State :=
  if s.events.refs.store then logEvent s { code := .storeRecovered, station := .store } else s

/-- The end of a series is posted to Port F when SEED COUNTERS started it (R180, R182, R183). -/
def postSeed (s : State) (seeded : Bool) (st : Status) : State :=
  if seeded then postStoreEnd s .portF st else s

/-- R182: a commit attempt has succeeded. -/
def endSuccess (s : State) (c : CommitSeries) (held : Option StoreWrite) : State :=
  let s1 := readinessTest (announceRecovery { s with ps := s.ps.confirm c.values })
  let s2 := postSeed s1 c.seeded .done
  { s2 with ps := s2.ps.afterSuccess held }

/-- R183: a commit attempt has failed; the failure count after it. -/
def PersistentStore.countFailure (ps : PersistentStore) : PersistentStore :=
  { ps with failures := satAdd 255 ps.failures 1 }

/-- R183: the third failure ends the series. -/
def endSeries (s : State) (c : CommitSeries) (held : Option StoreWrite) : State :=
  let s1 := logEvent s { code := .storeFail, station := .store, extra := extraNat s.ps.failures }
  let s2 := postSeed { s1 with ps := { s1.ps with commitPending := true } } c.seeded .storeFailed
  { s2 with ps := s2.ps.afterFailedSeries held }

/-- R183: a commit attempt has failed: a retry at once after the first or second failure, else the end of the series. -/
def endFailure (s : State) (c : CommitSeries) (held : Option StoreWrite) : State :=
  let s1 := { s with ps := s.ps.countFailure }
  if c.failures + 1 < 3 then { s1 with ps := s1.ps.startAttempt (c.failures + 1) c.seeded held }
  else endSeries s1 c held

/-- R182, R183: the end of a commit attempt. -/
def endAttempt (s : State) (c : CommitSeries) (held : Option StoreWrite) (agrees : Bool) : State :=
  if agrees then endSuccess s c held else endFailure s c held

/-- COMMIT_ATTEMPT_END (R182 to R184). With no attempt in flight nothing happens (log entry 9). -/
def execCommitAttemptEnd (agrees : Bool) (s : State) : Host.Outcome State Fault Refusal :=
  match s.ps.op with
  | .committing c => .next (endAttempt s c none agrees)
  | .committingOver c w => .next (endAttempt s c (some w) agrees)
  | .idle => .next s
  | .writing _ _ => .next s

/-! ### Recipes -/

/-- R176, R177: WRITE RECIPE in its slot, or its refusal. -/
def writeRecipeBody (port : Port) (image : RecipeImage) (t : State) : State × Answer :=
  match slotPlace image.slot.toNat with
  | none => (t, Answer.plain .outOfRange)
  | some i =>
    if !structuralOk image then (t, Answer.plain .outOfRange)
    else if !t.ps.isIdle then (t, Answer.plain .busy)
    else
      ({ t with ps := t.ps.startWrite ⟨port, .recipe i (clampedRecipe image), recipeWasClamped image⟩ },
        Answer.plain .pending)

/-- WRITE RECIPE (R176, R177). -/
def execWriteRecipe (port : Port) (image : RecipeImage) (s : State) : Host.Outcome State Fault Refusal :=
  .next (takeRequest port (.writeRecipe port image) s (writeRecipeBody port image))

/-- R186: the reply to READ RECIPE. The slot number is tested before the operation state (DESIGN CHOICE, log entry
28). -/
def readRecipeAnswer (slot : Nat) (t : State) : Answer :=
  match slotPlace slot with
  | none => Answer.plain .outOfRange
  | some i =>
    if !t.ps.isIdle then Answer.plain .busy
    else match t.ps.array.slot i with
      | none => Answer.plain .emptySlot
      | some r => ⟨.done, recipeImageBytes (r.image slot)⟩

/-- READ RECIPE (R186). -/
def execReadRecipe (port : Port) (slot : Byte) (s : State) : Host.Outcome State Fault Refusal :=
  .next (takeRequest port (.readRecipe port slot) s fun t => (t, readRecipeAnswer slot.toNat t))

/-! ### Setup -/

/-- R178: the setup taken into force, and its write started. -/
def takeSetup (t : State) (port : Port) (args : SetupArgs) (g : GroupActions) : State :=
  let inForce := { t.ps with setup := clampedSetup args g, setupStored := false }
  { t with ps := inForce.startWrite ⟨port, .setup (clampedSetup args g), setupWasClamped args g⟩ }

/-- R178: WRITE SETUP in UNLOADED or ARMED, or its refusal. -/
def writeSetupBody (port : Port) (args : SetupArgs) (t : State) : State × Answer :=
  match t.sc.session.run? with
  | some .running => (t, Answer.plain .wrongState)
  | some .draining => (t, Answer.plain .wrongState)
  | some .armed | none =>
    match setupGroups args with
    | none => (t, Answer.plain .outOfRange)
    | some g =>
      if !t.ps.isIdle then (t, Answer.plain .busy)
      else (takeSetup t port args g, Answer.plain .pending)

/-- WRITE SETUP (R178). -/
def execWriteSetup (port : Port) (args : SetupArgs) (s : State) : Host.Outcome State Fault Refusal :=
  .next (takeRequest port (.writeSetup port args) s (writeSetupBody port args))

/-- READ SETUP (R186, R203). -/
def execReadSetup (port : Port) (s : State) : Host.Outcome State Fault Refusal :=
  .next (takeRequest port (.readSetup port) s fun t =>
    (t, ⟨.done, setupArgBytes t.ps.setup.args ++ [boolByte t.ps.setupStored]⟩))

/-! ### Counters -/

/-- R180: SEED COUNTERS while the validity is INVALID, or its refusal. The reserved counters are known from here on, also
while the validity is still INVALID and when the series fails, where R175 calls both counters unknown (DESIGN CHOICE, log
entry 32). -/
def seedCountersBody (batch roll : Nat) (t : State) : State × Answer :=
  if t.ps.validity = .valid then (t, Answer.plain .wrongState)
  else if Config.maxBatchCode < batch then (t, Answer.plain .outOfRange)
  else if !t.ps.isIdle then (t, Answer.plain .busy)
  else
    ({ t with ps := { t.ps with reserved := some ⟨batch, roll⟩ }.startSeries true none }, Answer.plain .pending)

/-- SEED COUNTERS (R180). -/
def execSeedCounters (port : Port) (batch roll : BitVec 32) (s : State) : Host.Outcome State Fault Refusal :=
  .next (takeRequest port (.seedCounters port batch roll) s (seedCountersBody batch.toNat roll.toNat))

/-- The data of READ COUNTERS (R203). The reserved counters are shown while the part holds them, so from an accepted SEED
COUNTERS on also while the validity is INVALID (DESIGN CHOICE, log entry 32). -/
def counterBytes (ps : PersistentStore) : List Byte :=
  [bitsByte [ps.reserved.isSome, ps.reserved.isSome, ps.mirror.isSome, ps.mirror.isSome]] ++
  optNat 3 (ps.reserved.map Counters.batch) ++ optNat 4 (ps.reserved.map Counters.roll) ++
  optNat 3 (ps.mirror.map Counters.batch) ++ optNat 4 (ps.mirror.map Counters.roll) ++
  [bitsByte [ps.validity == .valid, ps.commitPending]] ++ leBytes 1 ps.failures

/-- READ COUNTERS (R186, R203). -/
def execReadCounters (port : Port) (s : State) : Host.Outcome State Fault Refusal :=
  .next (takeRequest port (.readCounters port) s fun t => (t, ⟨.done, counterBytes t.ps⟩))

end Sys2Proof.Machine
end

