-- ==== Sys2Proof/Machine/PortMeanings.lean ====
section
/-! DEFINITION. The meanings of READ STATUS (R201), FETCH REPLY (R200), SET NOTICES and ACK NOTICES (R202). -/

namespace Sys2Proof.Machine

/-- READ STATUS (R201): the answer is shifted out; no block changes. `clocked` are the bytes after byte 1. -/
def execReadStatus (port : Port) (clocked : List Byte) (s : State) : Host.Outcome State Fault Refusal :=
  .next (s.openFrame port (1 :: 0 :: clocked) (streamed (statusBytes s port) (clocked.length + 2)))

/-- R200: the reply is counted as fetched: reply-lost is cleared, and a copy that was not PENDING marks the slot. -/
def PortState.markFetched (p : PortState) : PortState :=
  { p with
    replyLost := false
    slot := { p.slot with fetched := p.slot.fetched || p.slot.status != .pending } }

/-- FETCH REPLY (R200). -/
def execFetchReply (port : Port) (clocked : List Byte) (s : State) : Host.Outcome State Fault Refusal :=
  let s1 := s.openFrame port (2 :: 0 :: clocked) (streamed (fetchBytes (s.ports.get port)) (clocked.length + 2))
  if 5 ≤ clocked.length then .next (s1.onPort port PortState.markFetched) else .next s1

/-- SET NOTICES (R202). -/
def execSetNotices (port : Port) (notices : Byte) (s : State) : Host.Outcome State Fault Refusal :=
  .next (takeRequest port (.setNotices port notices) s fun t =>
    (t.onPort port fun p => { p with enable := notices }, Answer.plain .done))

/-- ACK NOTICES (R202). -/
def execAckNotices (port : Port) (notices : Byte) (s : State) : Host.Outcome State Fault Refusal :=
  .next (takeRequest port (.ackNotices port notices) s fun t =>
    (t.onPort port fun p => { p with raw := p.raw &&& ~~~notices }, Answer.plain .done))

end Sys2Proof.Machine
end

