-- ==== Sys2Proof/Machine/LineMeanings.lean ====
section
/-! DEFINITION. The meanings of the session requests of chapter 2: RESUME LINE to FLUSH RUN. -/

namespace Sys2Proof.Machine

/-! ### Resume and clear -/

/-- R31, R181: RESUME LINE makes a commit request when commit-pending is set and no commit is in flight. -/
def PersistentStore.retryPending (ps : PersistentStore) : PersistentStore :=
  if ps.commitPending then
    match ps.op with
    | .idle => ps.requestCommit
    | .writing _ _ => ps.requestCommit
    | .committing _ => ps
    | .committingOver _ _ => ps
  else ps

/-- RESUME LINE (R31). -/
def execResumeLine (port : Port) (s : State) : Host.Outcome State Fault Refusal :=
  .next (takeRequest port (.resumeLine port) s fun t =>
    ({ t with sc := { t.sc with stopLatch := false }, ps := t.ps.retryPending }, Answer.plain .done))

/-- CLEAR ARM (R26). -/
def execClearArm (port : Port) (s : State) : Host.Outcome State Fault Refusal :=
  .next (takeRequest port (.clearArm port) s fun t =>
    ({ t with sc := { t.sc with clearArmed := t.sc.clearArmed.set port true } }, Answer.plain .done))

/-- R27: CLEAR LINE, with the port's clear-armed flag as it stood before the request. -/
def clearLineBody (armed : Bool) (t : State) : State × Answer :=
  if !armed then (t, Answer.plain .notArmed)
  else match t.sc.session with
    | .unloaded => (t, Answer.plain .wrongState)
    | .loaded _ r => (clearNow t r, Answer.plain .done)

/-- CLEAR LINE (R27 to R29). -/
def execClearLine (port : Port) (s : State) : Host.Outcome State Fault Refusal :=
  .next (takeRequest port (.clearLine port) s (clearLineBody (s.sc.clearArmed.get port)))

/-! ### Sessions -/

/-- R20: what LOAD RECIPE does with a slot that is VALID. -/
def loadNow (t : State) (r : Recipe) : State := (ercOff t).enter .armed r

/-- R20: LOAD RECIPE in UNLOADED or ARMED. -/
def loadSlot (slot : Nat) (t : State) : State × Answer :=
  match slotPlace slot with
  | none => (t, Answer.plain .outOfRange)
  | some i =>
    if t.ps.validity = .invalid then (t, Answer.plain .storeFailed)
    else if !t.ps.isIdle then (t, Answer.plain .busy)
    else match t.ps.array.slot i with
      | none => (t, Answer.plain .emptySlot)
      | some r => (loadNow t r, Answer.plain .done)

/-- R20: LOAD RECIPE. -/
def loadRecipeBody (slot : Nat) (t : State) : State × Answer :=
  match t.sc.session.run? with
  | some .running => (t, Answer.plain .wrongState)
  | some .draining => (t, Answer.plain .wrongState)
  | some .armed | none => loadSlot slot t

/-- LOAD RECIPE (R20). -/
def execLoadRecipe (port : Port) (slot : Byte) (s : State) : Host.Outcome State Fault Refusal :=
  .next (takeRequest port (.loadRecipe port slot) s (loadRecipeBody slot.toNat))

/-- R21: START RUN in ARMED with nothing queued or outstanding. -/
def startRunBody (t : State) : State × Answer :=
  match t.sc.session with
  | .loaded .armed r => if t.webClear then (startRunNow t r, Answer.plain .done) else (t, Answer.plain .wrongState)
  | .loaded .running _ => (t, Answer.plain .wrongState)
  | .loaded .draining _ => (t, Answer.plain .wrongState)
  | .unloaded => (t, Answer.plain .wrongState)

/-- START RUN (R21). -/
def execStartRun (port : Port) (s : State) : Host.Outcome State Fault Refusal :=
  .next (takeRequest port (.startRun port) s startRunBody)

/-- R23: END RUN in RUNNING. -/
def endRunBody (t : State) : State × Answer :=
  match t.sc.session with
  | .loaded .running r => (drainTest (t.enter .draining r), Answer.plain .done)
  | .loaded .armed _ => (t, Answer.plain .wrongState)
  | .loaded .draining _ => (t, Answer.plain .wrongState)
  | .unloaded => (t, Answer.plain .wrongState)

/-- END RUN (R23). -/
def execEndRun (port : Port) (s : State) : Host.Outcome State Fault Refusal :=
  .next (takeRequest port (.endRun port) s endRunBody)

/-- R25: FLUSH RUN in DRAINING. -/
def flushRunBody (t : State) : State × Answer :=
  match t.sc.session with
  | .loaded .draining r => (flushNow t r, Answer.plain .done)
  | .loaded .armed _ => (t, Answer.plain .wrongState)
  | .loaded .running _ => (t, Answer.plain .wrongState)
  | .unloaded => (t, Answer.plain .wrongState)

/-- FLUSH RUN (R25). -/
def execFlushRun (port : Port) (s : State) : Host.Outcome State Fault Refusal :=
  .next (takeRequest port (.flushRun port) s flushRunBody)

end Sys2Proof.Machine
end

