-- ==== Sys2Proof/Machine/RecordMeanings.lean ====
section
/-! DEFINITION. The meanings of the reports and reads of records, rolls and batches: REPORT DEFECT, SHADE REPORT, READ
REPEAT, READ ROLL, READ BATCH. -/

namespace Sys2Proof.Machine

/-- R57, R59, R86: the refusal of a request whose seq names no record of the queue; none when it lies in the span. -/
def State.spanStatus (s : State) (seq : Nat) : Option Status :=
  match s.headSeq, s.tailSeq with
  | some h, some t => if seq < h then some .tooLate else if t < seq then some .noSuchRepeat else none
  | _, _ => some .noSuchRepeat

/-- R58: an accepted defect is applied to its record. -/
def RepeatRecord.addDefect (k : RepeatRecord) (d : Defect) : RepeatRecord :=
  if k.defects.length < Config.defectCapacity then
    { k with defects := k.defects ++ [d], major := k.major || d.severity == .major }
  else { k with overflow := satAdd 255 k.overflow 1, major := k.major || d.severity == .major }

/-- R57: REPORT DEFECT. -/
def reportDefectBody (seq : Nat) (kind severity : Byte) (cross : BitVec 16) (t : State) : State × Answer :=
  match defectOf kind severity cross with
  | none => (t, Answer.plain .outOfRange)
  | some d =>
    match t.spanStatus seq with
    | some st => (t, Answer.plain st)
    | none => (t.updateRecord seq fun k => k.addDefect d, Answer.plain .done)

/-- REPORT DEFECT (R57, R58). -/
def execReportDefect (port : Port) (seq : BitVec 32) (kind severity : Byte) (cross : BitVec 16) (s : State) :
    Host.Outcome State Fault Refusal :=
  .next (takeRequest port (.reportDefect port seq kind severity cross) s
    (reportDefectBody seq.toNat kind severity cross))

/-- R203: the state byte of the batch of a verdict, 0 for NO_BATCH. -/
def batchStateByte (s : State) (v : ShadeVerdict) : Byte :=
  match v with
  | .batch code => ((s.findBatch code).map fun b => b.state.byte).getD 0
  | .pending => 0
  | .noBatch => 0

/-- R87: an accepted reading is classified, and reading and verdict written into the record; the reply carries both the
verdict and the state of its batch. -/
def takeReading (t : State) (r : Recipe) (seq : Nat) (reading : Lab) : State × Answer :=
  let d := classify t r seq reading
  let s1 := d.1.updateRecord seq fun k => { k with reading := some reading, shade := d.2 }
  (s1, ⟨.done, leBytes 4 d.2.num ++ [batchStateByte s1 d.2]⟩)

/-- R86: a report on a record of the queue. -/
def shadeRecord (t : State) (r : Recipe) (seq : Nat) (reading : Lab) : State × Answer :=
  match t.spanStatus seq with
  | some st => (t, Answer.plain st)
  | none =>
    match t.findRecord seq with
    | some k =>
      if k.reading.isSome then (t, Answer.plain .alreadyReported) else takeReading t r seq reading
    | none => (t, Answer.plain .noSuchRepeat)

/-- R86: SHADE REPORT in RUNNING or DRAINING. After a hand-over that empties the queue and at once completes the drain the
session is ARMED: a report on that record is then WRONG_STATE by R86's first row, where R88 and R56 say NO_SUCH_REPEAT
(DESIGN CHOICE, log entry 30). -/
def shadeReportBody (seq : Nat) (l a b : BitVec 16) (t : State) : State × Answer :=
  match t.sc.session with
  | .unloaded => (t, Answer.plain .wrongState)
  | .loaded .armed _ => (t, Answer.plain .wrongState)
  | .loaded .running r | .loaded .draining r =>
    match readingOf l a b with
    | none => (t, Answer.plain .outOfRange)
    | some reading => shadeRecord t r seq reading

/-- SHADE REPORT (R86, R87). -/
def execShadeReport (port : Port) (seq : BitVec 32) (l a b : BitVec 16) (s : State) :
    Host.Outcome State Fault Refusal :=
  .next (takeRequest port (.shadeReport port seq l a b) s (shadeReportBody seq.toNat l a b))

/-- R59, R203: the head and tail seq that end every reply of READ REPEAT. -/
def spanBytes (s : State) : List Byte := optNat 4 s.headSeq ++ optNat 4 s.tailSeq

/-- R59: the reply to READ REPEAT. -/
def readRepeatAnswer (seq : Nat) (t : State) : Answer :=
  match t.spanStatus seq with
  | some st => ⟨st, spanBytes t⟩
  | none =>
    match t.findRecord seq with
    | some k => ⟨.done, k.bytes ++ spanBytes t⟩
    | none => ⟨.noSuchRepeat, spanBytes t⟩

/-- READ REPEAT (R59). -/
def execReadRepeat (port : Port) (seq : BitVec 32) (s : State) : Host.Outcome State Fault Refusal :=
  .next (takeRequest port (.readRepeat port seq) s fun t => (t, readRepeatAnswer seq.toNat t))

/-- R139, R203: the list of the rolls held: a count byte, then serial and state of each. -/
def rollList (s : State) : List Byte :=
  leBytes 1 s.rb.rolls.length ++ (s.rb.rolls.map fun r => leBytes 4 r.serial ++ [r.state.byte]).flatten

/-- R139: the reply to READ ROLL. -/
def readRollAnswer (serial : Option Nat) (t : State) : Answer :=
  match serial with
  | none => ⟨.done, rollList t⟩
  | some n =>
    if n = 0 then Answer.plain .outOfRange
    else match t.findRoll n with
      | some r => ⟨.done, r.bytes⟩
      | none => Answer.plain .notFound

/-- READ ROLL (R139). -/
def execReadRoll (port : Port) (serial : Option (BitVec 32)) (s : State) : Host.Outcome State Fault Refusal :=
  .next (takeRequest port (.readRoll port serial) s fun t => (t, readRollAnswer (serial.map BitVec.toNat) t))

/-- R107, R203: the list of the batches held: a count byte, then code and state of each. -/
def batchList (s : State) : List Byte :=
  leBytes 1 s.batches.length ++ (s.batches.map fun b => leBytes 3 b.code ++ [b.state.byte]).flatten

/-- R107: the reply to READ BATCH. -/
def readBatchAnswer (code : Option Nat) (t : State) : Answer :=
  match code with
  | none => ⟨.done, batchList t⟩
  | some n =>
    if n = 0 ∨ Config.maxBatchCode < n then Answer.plain .outOfRange
    else match t.findBatch n with
      | some b => ⟨.done, b.bytes⟩
      | none => Answer.plain .notFound

/-- READ BATCH (R107). -/
def execReadBatch (port : Port) (code : Option (BitVec 32)) (s : State) : Host.Outcome State Fault Refusal :=
  .next (takeRequest port (.readBatch port code) s fun t => (t, readBatchAnswer (code.map BitVec.toNat) t))

end Sys2Proof.Machine
end

