-- ==== Sys2Proof/Machine/LabelMeanings.lean ====
section
/-! DEFINITION. The meanings of GET LABEL (R163), LABEL DONE (R165, R166) and ROLL DISPOSITION (R169 to R171). -/

namespace Sys2Proof.Machine

/-- The label record of the roll with the given serial (R160). -/
def State.labelOf (s : State) (serial : Nat) : List Byte := ((s.findRoll serial).map Roll.label).getD []

/-- R163: GET LABEL. -/
def getLabelBody (t : State) : State × Answer :=
  match t.ld.outstanding with
  | some n => (t, ⟨.done, t.labelOf n⟩)
  | none =>
    match t.ld.order with
    | [] => (t, Answer.plain .noLabel)
    | n :: _ =>
      if !t.ld.headReady then (t, ⟨.notReady, leBytes 4 n⟩)
      else ({ t with ld := { t.ld with outstanding := some n } }, ⟨.done, t.labelOf n⟩)

/-- GET LABEL (R163). -/
def execGetLabel (port : Port) (s : State) : Host.Outcome State Fault Refusal :=
  .next (takeRequest port (.getLabel port) s getLabelBody)

/-- R166 step 1: the head leaves the order, no label is outstanding, and no head is ready. -/
def State.popOrder (t : State) : State := { t with ld := ⟨t.ld.order.tail, none, false⟩ }

/-- R103: the rolls labelled count of a batch rises with the fall of its roll count. -/
def BatchEntry.labelRoll (b : BatchEntry) : BatchEntry :=
  { b with rolls := b.rolls - 1, labelled := satAdd Config.maxWord b.labelled 1 }

/-- R166: the roll of the outstanding label is removed. -/
def removeLabelled (t : State) (roll : Roll) : State :=
  let s1 := (t.popOrder.eraseRoll roll.serial).updateBatch roll.batch BatchEntry.labelRoll
  readinessTest (freeTest s1 roll.batch)

/-- The rolls labelled count of a batch after the increment of LABEL DONE (R165). -/
def State.labelledAfter (t : State) (code : Nat) : Nat :=
  ((t.findBatch code).map fun b => b.labelRoll.labelled).getD 0

/-- R165, R203: the data of an accepted LABEL DONE. -/
def labelDoneData (t : State) (roll : Roll) : List Byte :=
  leBytes 4 roll.serial ++ leBytes 3 roll.batch ++ leBytes 4 (t.labelledAfter roll.batch) ++
  leBytes 1 t.ld.order.tail.length

/-- R165: LABEL DONE. -/
def labelDoneBody (serial : Nat) (t : State) : State × Answer :=
  if serial = 0 then (t, Answer.plain .outOfRange)
  else match t.ld.outstanding with
    | none => (t, Answer.plain .notFound)
    | some n =>
      if serial ≠ n then (t, Answer.plain .notFound)
      else match t.findRoll serial with
        | some roll => (removeLabelled t roll, ⟨.done, labelDoneData t roll⟩)
        | none => (t, Answer.plain .notFound)

/-- LABEL DONE (R165, R166). -/
def execLabelDone (port : Port) (serial : BitVec 32) (s : State) : Host.Outcome State Fault Refusal :=
  .next (takeRequest port (.labelDone port serial) s (labelDoneBody serial.toNat))

/-- R170: a HELD roll is accepted. -/
def acceptRoll (t : State) (serial : Nat) : State :=
  joinOrder (t.updateRoll serial fun r => { r with state := .closed, accepted := true }) serial

/-- R171: a HELD roll is voided. -/
def voidRoll (t : State) (roll : Roll) : State :=
  logEvent (dropRoll t roll)
    { code := .rollVoided, station := .label, seq := some roll.lastSeq, serial := some roll.serial,
      batch := some roll.batch, extra := extraNat roll.hold.num }

/-- R169: a decision on a roll of the table. -/
def disposeRoll (t : State) (roll : Roll) (d : Decision) : State × Answer :=
  if roll.state ≠ .held then (t, Answer.plain .wrongState)
  else match d with
    | .accept => (acceptRoll t roll.serial, ⟨.done, leBytes 1 (t.ld.order.length + 1)⟩)
    | .void => (voidRoll t roll, Answer.plain .done)

/-- R169: ROLL DISPOSITION. A serial that a LABEL DONE has removed is answered NOT_FOUND, as R169 says, and not
WRONG_STATE, as R167 says of the two taken together (DESIGN CHOICE, log entry 27). -/
def rollDispositionBody (serial : Nat) (decision : Byte) (t : State) : State × Answer :=
  match decisionOf decision with
  | none => (t, Answer.plain .outOfRange)
  | some d =>
    if serial = 0 then (t, Answer.plain .outOfRange)
    else match t.findRoll serial with
      | none => (t, Answer.plain .notFound)
      | some roll => disposeRoll t roll d

/-- ROLL DISPOSITION (R169). -/
def execRollDisposition (port : Port) (serial : BitVec 32) (decision : Byte) (s : State) :
    Host.Outcome State Fault Refusal :=
  .next (takeRequest port (.rollDisposition port serial decision) s (rollDispositionBody serial.toNat decision))

end Sys2Proof.Machine
end

