-- ==== Sys2Proof/Machine/EventMeanings.lean ====
section
/-! DEFINITION. The meanings of READ EVENTS (R194) and CLEAR EVENTS (R193). -/

namespace Sys2Proof.Machine

/-- R194: the entries of a reply: up to 4, from the starting number on. -/
def LineEvents.page (ev : LineEvents) (start : Nat) : List EventEntry :=
  (ev.entries.filter fun e => decide (start ≤ e.number)).take 4

/-- R194, R203: the data of READ EVENTS. -/
def eventsData (ev : LineEvents) (start : Nat) : List Byte :=
  leBytes 1 (ev.page start).length ++ ((ev.page start).map EventEntry.bytes).flatten ++
  leBytes 4 ev.total ++ leBytes 4 ev.discarded ++
  optNat 4 (ev.entries.head?.map EventEntry.number) ++ optNat 4 (ev.entries.getLast?.map EventEntry.number)

/-- READ EVENTS (R194). -/
def execReadEvents (port : Port) (start : BitVec 32) (s : State) : Host.Outcome State Fault Refusal :=
  .next (takeRequest port (.readEvents port start) s fun t => (t, ⟨.done, eventsData t.events start.toNat⟩))

/-- CLEAR EVENTS (R193). -/
def execClearEvents (port : Port) (s : State) : Host.Outcome State Fault Refusal :=
  .next (takeRequest port (.clearEvents port) s fun t =>
    ({ t with events := ⟨[], 0, 0, StationRefs.clear, false⟩ }, Answer.plain .done))

end Sys2Proof.Machine
end

