-- ==== Sys2Proof/Machine/FrameMeanings.lean ====
section
/-! DEFINITION. The meaning of BAD_FRAME (R197): a malformed frame. The row takes any frame (log entry 14): one without a
complete byte is ignored, and one that passes the frame check is taken as the request it spells. -/

namespace Sys2Proof.Machine

/-- The meaning of a port request; every other command is no request and has none. -/
def requestMeaning (i : Instr) (s : State) : Host.Outcome State Fault Refusal :=
  match i with
  | .readStatus p c => execReadStatus p c s
  | .fetchReply p c => execFetchReply p c s
  | .setNotices p n => execSetNotices p n s
  | .ackNotices p n => execAckNotices p n s
  | .resumeLine p => execResumeLine p s
  | .clearArm p => execClearArm p s
  | .clearLine p => execClearLine p s
  | .loadRecipe p n => execLoadRecipe p n s
  | .startRun p => execStartRun p s
  | .endRun p => execEndRun p s
  | .flushRun p => execFlushRun p s
  | .writeRecipe p m => execWriteRecipe p m s
  | .readRecipe p n => execReadRecipe p n s
  | .writeSetup p u => execWriteSetup p u s
  | .readSetup p => execReadSetup p s
  | .seedCounters p b r => execSeedCounters p b r s
  | .readCounters p => execReadCounters p s
  | .reportDefect p n k v c => execReportDefect p n k v c s
  | .shadeReport p n l a b => execShadeReport p n l a b s
  | .readRepeat p n => execReadRepeat p n s
  | .readRoll p n => execReadRoll p n s
  | .readBatch p n => execReadBatch p n s
  | .getLabel p => execGetLabel p s
  | .labelDone p n => execLabelDone p n s
  | .rollDisposition p n d => execRollDisposition p n d s
  | .readEvents p n => execReadEvents p n s
  | .clearEvents p => execClearEvents p s
  | .deviceReset _ _ | .encoderCount _ _ _ | .caCount _ _ | .caIndex | .markCapture _ | .splice | .knifeAck
  | .knifeTimeout | .pwmPeriodEnd | .writeSuspend | .storeWriteEnd _ | .commitAttemptEnd _ | .badFrame _ _ => .next s

/-- What SDO carries during a malformed frame: 0, except that a READ STATUS or FETCH REPLY with n = 0 shifts its answer
out before the frame ends (R197, R200, R201; log entry 13). -/
def malformedSdo (s : State) (port : Port) (bytes : List Byte) : List Byte :=
  match bytes with
  | code :: n :: _ =>
    if code = 1 ∧ n = 0 then streamed (statusBytes s port) bytes.length
    else if code = 2 ∧ n = 0 then streamed (fetchBytes (s.ports.get port)) bytes.length
    else List.replicate bytes.length 0
  | _ => List.replicate bytes.length 0

/-- R197, R198: a malformed frame: the clear-armed flag is cleared and BAD_FRAME placed, with byte 0 as the code. -/
def malformed (s : State) (port : Port) (bytes : List Byte) : State :=
  ((s.openFrame port bytes (malformedSdo s port bytes)).disarm port).onPort port fun p =>
    p.place (byteAt bytes 0) (Answer.plain .badFrame)

/-- BAD_FRAME (R197). -/
def execBadFrame (port : Port) (frame : Frame) (s : State) : Host.Outcome State Fault Refusal :=
  if frame.bytes = [] then .next (s.openFrame port [] [])
  else if frameBad frame then .next (malformed s port frame.bytes)
  else match requestOfFrame port frame.bytes with
    | some i => requestMeaning i s
    | none => .next (malformed s port frame.bytes)

end Sys2Proof.Machine
end

