-- ==== Sys2Proof/Machine/Dispatch.lean ====
section
/-! DEFINITION. One arm per command: the direct call of its meaning. -/

namespace Sys2Proof.Machine

def exec (i : Instr) (s : State) : Host.Outcome State Fault Refusal :=
  match i with
  | .deviceReset cause commitLanded => Sys2Proof.Machine.execDeviceReset cause commitLanded s
  | .encoderCount encoder a b => Sys2Proof.Machine.execEncoderCount encoder a b s
  | .caCount a b => Sys2Proof.Machine.execCaCount a b s
  | .caIndex => Sys2Proof.Machine.execCaIndex s
  | .markCapture sensor => Sys2Proof.Machine.execMarkCapture sensor s
  | .splice => Sys2Proof.Machine.execSplice s
  | .knifeAck => Sys2Proof.Machine.execKnifeAck s
  | .knifeTimeout => Sys2Proof.Machine.execKnifeTimeout s
  | .pwmPeriodEnd => Sys2Proof.Machine.execPwmPeriodEnd s
  | .writeSuspend => Sys2Proof.Machine.execWriteSuspend s
  | .storeWriteEnd agrees => Sys2Proof.Machine.execStoreWriteEnd agrees s
  | .commitAttemptEnd agrees => Sys2Proof.Machine.execCommitAttemptEnd agrees s
  | .readStatus port clocked => Sys2Proof.Machine.execReadStatus port clocked s
  | .fetchReply port clocked => Sys2Proof.Machine.execFetchReply port clocked s
  | .badFrame port frame => Sys2Proof.Machine.execBadFrame port frame s
  | .setNotices port notices => Sys2Proof.Machine.execSetNotices port notices s
  | .ackNotices port notices => Sys2Proof.Machine.execAckNotices port notices s
  | .resumeLine port => Sys2Proof.Machine.execResumeLine port s
  | .clearArm port => Sys2Proof.Machine.execClearArm port s
  | .clearLine port => Sys2Proof.Machine.execClearLine port s
  | .loadRecipe port slot => Sys2Proof.Machine.execLoadRecipe port slot s
  | .startRun port => Sys2Proof.Machine.execStartRun port s
  | .endRun port => Sys2Proof.Machine.execEndRun port s
  | .flushRun port => Sys2Proof.Machine.execFlushRun port s
  | .writeRecipe port image => Sys2Proof.Machine.execWriteRecipe port image s
  | .readRecipe port slot => Sys2Proof.Machine.execReadRecipe port slot s
  | .writeSetup port args => Sys2Proof.Machine.execWriteSetup port args s
  | .readSetup port => Sys2Proof.Machine.execReadSetup port s
  | .seedCounters port batch roll => Sys2Proof.Machine.execSeedCounters port batch roll s
  | .readCounters port => Sys2Proof.Machine.execReadCounters port s
  | .reportDefect port seq kind severity cross => Sys2Proof.Machine.execReportDefect port seq kind severity cross s
  | .shadeReport port seq l a b => Sys2Proof.Machine.execShadeReport port seq l a b s
  | .readRepeat port seq => Sys2Proof.Machine.execReadRepeat port seq s
  | .readRoll port serial => Sys2Proof.Machine.execReadRoll port serial s
  | .readBatch port code => Sys2Proof.Machine.execReadBatch port code s
  | .getLabel port => Sys2Proof.Machine.execGetLabel port s
  | .labelDone port serial => Sys2Proof.Machine.execLabelDone port serial s
  | .rollDisposition port serial decision => Sys2Proof.Machine.execRollDisposition port serial decision s
  | .readEvents port start => Sys2Proof.Machine.execReadEvents port start s
  | .clearEvents port => Sys2Proof.Machine.execClearEvents port s

end Sys2Proof.Machine
end

