-- ==== Sys2Proof/Safety.lean ====
section
/-! DEFINITION. What a safe machine is: no step stops, and the properties that every step keeps: ranges, capacities,
orders and the laws between blocks that the rules state. -/

namespace Sys2Proof.Machine

/-- A step that does not stop. -/
def Safe (s : State) : Prop := ∃ t, step s = .next t

/-- A property that every step keeps. -/
def KeptByStep (P : State → Prop) : Prop := ∀ s t, P s → step s = .next t → P t

/-! ### Recipes and setups -/

/-- The fields of a recipe lie in the ranges of section 9.2. -/
def Recipe.InRange (r : Recipe) : Prop :=
  4000 ≤ r.rNom ∧ r.rNom ≤ 40000 ∧ 1 ≤ r.rTol ∧ r.rTol ≤ r.rNom / 4 ∧ (r.mode = .drop → 1 ≤ r.drop16) ∧ r.drop16 ≤ 15 ∧
  r.phiCut ≤ 65535 ∧ 20000 ≤ r.lOrd ∧ r.lOrd ≤ 2000000 ∧ r.lShort ≤ r.lOrd ∧ 4000 ≤ r.cc ∧ r.cc ≤ 160000 ∧
  r.aT ≤ 16383 ∧ r.db ≤ 63 ∧ r.kp ≤ 255 ∧ r.ki ≤ 255 ∧ 1 ≤ r.sl ∧ r.sl ≤ 127 ∧ 1 ≤ r.wLock ∧ r.wLock ≤ 2047 ∧
  r.wLock ≤ r.wCap ∧ r.wCap ≤ 20000 ∧ 1 ≤ r.eTol ∧ r.eTol ≤ 2047 ∧ 10 ≤ r.t ∧ r.t ≤ 2000 ∧ 1 ≤ r.nLearn ∧
  r.nLearn ≤ 16 ∧ 1 ≤ r.bSlots ∧ r.bSlots ≤ 4

/-- The fields of a setup lie in the ranges of section 9.3. -/
def Setup.InRange (u : Setup) : Prop :=
  u.sMax ≤ 50000 ∧ 1 ≤ u.cTol ∧ u.cTol ≤ 4000 ∧ 5 ≤ u.tKnife ∧ u.tKnife ≤ 250 ∧ u.lateTol ≤ 4000

/-- The write in flight or suspended. -/
def StoreOp.write? : StoreOp → Option StoreWrite
  | .idle => none
  | .writing w _ => some w
  | .committing _ => none
  | .committingOver _ w => some w

/-- What a write is to store lies in range. -/
def WriteTarget.InRange : WriteTarget → Prop
  | .recipe _ r => r.InRange
  | .setup u => u.InRange

/-- R176, R178: every recipe and every setup that the part holds lies in range: in the array, loaded, in force, and in a
write in flight or suspended. -/
def FieldsInRange (s : State) : Prop :=
  (∀ r ∈ s.sc.session.recipe?, r.InRange) ∧ s.ps.setup.InRange ∧ (∀ i, ∀ r ∈ s.ps.array.slot i, r.InRange) ∧
  (∀ u ∈ s.ps.array.setup, u.InRange) ∧ (∀ w ∈ s.ps.op.write?, w.target.InRange)

/-! ### Emboss Register Controller -/

/-- The limits of R71, R72, R75 to R77 and R80, with the pending duty at 128 + u (R77). -/
def Erc.InRange (c : Erc) : Prop :=
  -8191 ≤ c.integral ∧ c.integral ≤ 8191 ∧ -127 ≤ c.lastOutput ∧ c.lastOutput ≤ 127 ∧
  (c.pendingDuty : Int) = 128 + c.lastOutput ∧ 1 ≤ c.appliedDuty ∧ c.appliedDuty ≤ 255 ∧ c.lockRun ≤ 3 ∧ c.lossRun ≤ 2

/-- R62, R66, R71, R72: a run counter counts in its own state only, and OFF holds no integral and no output. -/
def Erc.Tidy (c : Erc) : Prop :=
  (c.lockRun ≠ 0 → c.mode = .acquire) ∧ (c.lossRun ≠ 0 → c.mode = .locked) ∧
  (c.mode = .off → c.integral = 0 ∧ c.lastOutput = 0)

/-- A run is on: RUNNING or DRAINING. -/
def Session.inRun : Session → Bool
  | .loaded .running _ => true
  | .loaded .draining _ => true
  | .loaded .armed _ => false
  | .unloaded => false

/-- The loaded recipe has emboss enabled. -/
def Session.embossed : Session → Bool
  | .loaded _ r => r.emboss
  | .unloaded => false

/-- R62, R64 to R67: the ERC is OFF exactly outside a run with emboss enabled, and in HOLD exactly while the emboss
point is LOST in such a run. -/
def ErcFollows (s : State) : Prop :=
  (s.erc.mode = .off ↔ (s.sc.session.inRun && s.sc.session.embossed) = false) ∧
  (s.erc.mode = .hold ↔ (s.sc.session.inRun && s.sc.session.embossed) = true ∧ s.rt.emboss.mode = .lost)

/-- The invariant of the ERC. -/
def ErcSound (s : State) : Prop := s.erc.InRange ∧ s.erc.Tidy ∧ ErcFollows s

/-! ### Line Event Table -/

/-- R187, R191, R192: the laws of the event table. -/
def EventsSound (s : State) : Prop :=
  s.events.total ≤ Config.maxWord ∧ s.events.discarded ≤ Config.maxWord ∧
  s.events.entries.length = min s.events.total Config.eventCapacity ∧
  s.events.summary = s.events.refs.any ∧
  (s.events.total < Config.maxWord →
    s.events.discarded + s.events.entries.length = s.events.total ∧
    (s.events.entries.take Config.eventRetained).map EventEntry.number =
      List.range' 1 (min s.events.total Config.eventRetained) ∧
    (s.events.entries.drop Config.eventRetained).map EventEntry.number =
      List.range' (s.events.total + 1 - (s.events.entries.drop Config.eventRetained).length)
        (s.events.entries.drop Config.eventRetained).length)

/-! ### Repeat Queue -/

/-- The seq that follows every seq given so far: the run sequence counter, or one more once it is spent (R22). -/
def SessionControl.nextFree (c : SessionControl) : Nat := if c.seqSpent then c.nextSeq + 1 else c.nextSeq

/-- R22, R33, R40: the queue holds at most 512 records of consecutive seq up to the last one given, none outside a run,
and the AWAITING records are its newest. -/
def QueueSound (s : State) : Prop :=
  s.rt.queue.length ≤ Config.queueCapacity ∧
  1 ≤ s.sc.nextSeq ∧ s.sc.nextSeq ≤ Config.maxWord ∧ (s.sc.seqSpent = true → s.sc.nextSeq = Config.maxWord) ∧
  s.rt.queue.length < s.sc.nextFree ∧
  s.rt.queue.map RepeatRecord.seq = List.range' (s.sc.nextFree - s.rt.queue.length) s.rt.queue.length ∧
  (s.rt.queue ≠ [] → s.sc.session.inRun = true) ∧
  (∀ k ∈ s.rt.queue.dropWhile fun k => k.emboss != .awaiting, k.emboss = .awaiting) ∧
  s.rt.emboss.regain ≤ 2 ∧ s.rt.knife.regain ≤ 2

/-- The fields of a record agree (sections 3.1, 3.4, 3.7): what is present with which emboss status and which verdict.
-/
def RepeatRecord.Sound (k : RepeatRecord) : Prop :=
  k.defects.length ≤ Config.defectCapacity ∧ k.overflow ≤ 255 ∧
  ((k.embossPos.isSome = true) ↔ (k.emboss = .matched ∨ k.emboss = .untracked)) ∧
  (k.embossLen.isSome = true → k.emboss = .matched ∧ k.printLen.isSome = true) ∧
  (k.stretch.isSome = k.embossLen.isSome) ∧
  ((k.reading.isSome = true) ↔ k.shade ≠ .pending) ∧
  (k.leader = true → k.printLen = none ∧ k.irregular = false) ∧
  (k.emboss = .awaiting → k.register = .pending ∨ k.register = .notApplicable)

/-- Every record of the queue is sound. -/
def RecordsSound (s : State) : Prop := ∀ k ∈ s.rt.queue, k.Sound

/-! ### Knife -/

/-- R14, R15, R141, R145: at most 4 cuts in order of position, KNIFE_REQ exactly while a cut is outstanding, a reached
head only behind an outstanding cut, and no head at or behind LE that is not reported reached. -/
def KnifeSound (s : State) : Prop :=
  s.ks.queue.length ≤ Config.knifeCapacity ∧
  s.ks.knifeReq = s.ks.outstanding.isSome ∧
  (s.wpu.reach = true → s.ks.queue ≠ [] ∧ s.ks.outstanding.isSome = true) ∧
  (∀ c ∈ s.ks.queue.head?, s.wpu.reach = false → isReached s.wpu.le c.pos = false) ∧
  (∀ p ∈ s.ks.queue.zip s.ks.queue.tail, 0 ≤ signedDistance p.1.pos p.2.pos)

/-! ### Persistent Store -/

/-- One pair of counters is no greater than another. -/
def Counters.Le (x y : Counters) : Prop := x.batch ≤ y.batch ∧ x.roll ≤ y.roll

/-- The commit series in flight. -/
def StoreOp.series? : StoreOp → Option CommitSeries
  | .idle => none
  | .writing _ _ => none
  | .committing c => some c
  | .committingOver c _ => some c

/-- R174, R175, R179 to R183: the laws of the counters: the mirror stands exactly while the validity is VALID, no mirror
exceeds what a commit in flight writes or what is reserved, a valid counter block holds the mirror, a recipe is loaded
only over VALID counters, a seeded series runs only while they are INVALID, and the reserved counters are known while a
commit is pending or a suspension is due. -/
def CountersSound (s : State) : Prop :=
  (s.ps.validity = .valid ↔ s.ps.mirror.isSome = true) ∧
  (∀ m ∈ s.ps.mirror, ∃ r ∈ s.ps.reserved, m.Le r) ∧
  (∀ c ∈ s.ps.op.series?, c.failures ≤ 2 ∧ (∃ r ∈ s.ps.reserved, c.values.Le r) ∧ (∀ m ∈ s.ps.mirror, m.Le c.values) ∧
    s.ps.array.counters = none ∧ (c.seeded = true → s.ps.validity = .invalid)) ∧
  (∀ v ∈ s.ps.array.counters, s.ps.mirror = some v) ∧
  (s.sc.session ≠ .unloaded → s.ps.validity = .valid) ∧
  (∀ r ∈ s.ps.reserved, r.batch ≤ Config.maxBatchCode ∧ r.roll ≤ Config.maxWord) ∧
  s.ps.failures ≤ 255 ∧
  (s.ps.commitPending = true → s.ps.reserved.isSome = true) ∧
  (∀ w, s.ps.op = .writing w true → s.ps.reserved.isSome = true)

/-- What a write in flight says of the array and of the setup in force: its content is invalid there (R174), and a setup
being written is the one in force (R178). -/
def WriteTarget.Agrees (w : WriteTarget) (ps : PersistentStore) : Prop :=
  match w with
  | .recipe i _ => ps.array.slot i = none
  | .setup u => ps.array.setup = none ∧ u = ps.setup

/-- R174, R177, R178: a content being written is invalid in the array, a setup being written is the setup in force, and
the setup-stored flag says that the array holds the setup in force. -/
def WritesSound (s : State) : Prop :=
  (∀ w ∈ s.ps.op.write?, w.target.Agrees s.ps) ∧
  (s.ps.setupStored = true → s.ps.array.setup = some s.ps.setup)

/-! ### Roll Table and Batch Table -/

/-- R110, R113, R175: at most 16 rolls of distinct serials in rising order, none above the reserved roll counter, none
while the counters are INVALID, and the segment names the one BUILDING roll. -/
def RollsSound (s : State) : Prop :=
  s.rb.rolls.length ≤ Config.rollCapacity ∧
  s.rb.rolls.Pairwise (fun x y => x.serial < y.serial) ∧
  (∀ x ∈ s.rb.rolls, 1 ≤ x.serial ∧ ∃ r ∈ s.ps.reserved, x.serial ≤ r.roll) ∧
  (s.rb.rolls.filter fun x => x.state == .building).map Roll.serial =
    (match s.rb.segment with
      | .roll n => [n]
      | .none => []
      | .waste => []
      | .awaitA => []) ∧
  (s.rb.segment ≠ .none → s.sc.session.inRun = true) ∧
  (s.ps.validity = .invalid → s.rb.rolls = [])

/-- The batch that a shade verdict names is held in the table. -/
def ShadeVerdict.HeldIn (v : ShadeVerdict) (bs : List BatchEntry) : Prop :=
  match v with
  | .batch code => ∃ b ∈ bs, b.code = code
  | .pending => True
  | .noBatch => True

/-- R84, R100, R102, R104, R175: at most 16 batches of distinct codes in rising order, none above the reserved batch
counter, none while the counters are INVALID; the counts are the numbers of records and rolls that name the batch; every
code named is held; and a CLOSED batch is held only while something names it. -/
def BatchesSound (s : State) : Prop :=
  s.batches.length ≤ Config.batchCapacity ∧
  s.batches.Pairwise (fun x y => x.code < y.code) ∧
  (∀ b ∈ s.batches, 1 ≤ b.code ∧ (∃ r ∈ s.ps.reserved, b.code ≤ r.batch) ∧
    b.rolls = s.rb.rolls.countP (fun x => x.batch == b.code) ∧
    b.queued = s.rt.queue.countP (fun k => k.shade == .batch b.code) ∧
    b.isSpent = false) ∧
  (∀ x ∈ s.rb.rolls, ∃ b ∈ s.batches, b.code = x.batch) ∧
  (∀ k ∈ s.rt.queue, k.shade.HeldIn s.batches) ∧
  ((∃ b ∈ s.batches, b.active = true) → s.sc.session.inRun = true) ∧
  (s.ps.validity = .invalid → s.batches = [])

/-! ### Labels -/

/-- R155 to R158: the label order is the CLOSED rolls, none twice; an outstanding label names the ready head; and the
head-ready indication stands exactly while the head's codes are persisted. -/
def LabelsSound (s : State) : Prop :=
  s.ld.order.Nodup ∧
  (∀ n ∈ s.ld.order, ∃ x ∈ s.rb.rolls, x.serial = n ∧ x.state = .closed) ∧
  (∀ x ∈ s.rb.rolls, x.state = .closed → x.serial ∈ s.ld.order) ∧
  (∀ n ∈ s.ld.outstanding, s.ld.order.head? = some n ∧ s.ld.headReady = true) ∧
  s.ld.headReady = s.headIsReady

/-- R111, R143, R168: a BUILDING roll has no class and every other has one; a REMNANT is never CLOSED or HELD; a HELD
roll carries a hold flag, and a CLOSED roll carries one only when it was accepted. -/
def Roll.Sound (x : Roll) : Prop :=
  ((x.state = .building) ↔ x.cls = none) ∧
  (x.state = .closed ∨ x.state = .held → x.cls ≠ some .remnant) ∧
  (x.state = .held → x.hold.any = true) ∧
  (x.state = .closed → x.hold.any = true → x.accepted = true)

/-- The serials that the queued and the outstanding cuts end. -/
def KnifeSequencer.endings (ks : KnifeSequencer) : List Nat :=
  (ks.queue ++ (ks.outstanding.map Outstanding.cut).toList).filterMap fun c => c.kind.ending

/-- Every roll is sound, and every ENDING roll waits for a cut that is queued or outstanding (R111, R143). -/
def RollStatesSound (s : State) : Prop :=
  (∀ x ∈ s.rb.rolls, x.Sound) ∧ (∀ x ∈ s.rb.rolls, x.state = .ending → x.serial ∈ s.ks.endings)

/-! ### The whole -/

/-- All the laws together. -/
def Sound (s : State) : Prop :=
  FieldsInRange s ∧ ErcSound s ∧ EventsSound s ∧ QueueSound s ∧ RecordsSound s ∧ KnifeSound s ∧ CountersSound s ∧
  WritesSound s ∧ RollsSound s ∧ BatchesSound s ∧ LabelsSound s ∧ RollStatesSound s

/-! ### What statements speak of -/

/-- R1: an edge that makes A lead B: 00 to 10, 10 to 11, 11 to 01, 01 to 00 (log entry 3). -/
def ForwardEdge (old new : Quad) : Prop :=
  (old = ⟨false, false⟩ ∧ new = ⟨true, false⟩) ∨ (old = ⟨true, false⟩ ∧ new = ⟨true, true⟩) ∨
  (old = ⟨true, true⟩ ∧ new = ⟨false, true⟩) ∨ (old = ⟨false, true⟩ ∧ new = ⟨false, false⟩)

/-- R1: an edge that makes B lead A: the same sequence backwards. -/
def ReverseEdge (old new : Quad) : Prop := ForwardEdge new old

/-- A port after a request was answered on it (R197 to R199); the frame and SDO are recorded as log entry 13 says. -/
def PortState.afterRequest (p : PortState) (i : Instr) (st : Status) (data : List Byte) : PortState where
  frame := requestBytes i
  sdo := List.replicate (requestBytes i).length 0
  slot := ⟨st, BitVec.ofNat 8 (commandCode i), data, false⟩
  replyLost := p.replyLost || !p.slot.fetched || p.slot.status == .pending
  raw := p.raw
  enable := p.enable

/-- A state after a request was answered on a port: nothing else changes than the port and its clear-armed flag. -/
def State.answered (s : State) (port : Port) (i : Instr) (st : Status) (data : List Byte) : State :=
  { s with
    sc := { s.sc with clearArmed := s.sc.clearArmed.set port false }
    ports := s.ports.set port ((s.ports.get port).afterRequest i st data) }

/-- The structural fields of a recipe image lie in the ranges of section 9.2 (R176, section 11.6). -/
def StructuralInRange (m : RecipeImage) : Prop :=
  4000 ≤ m.rNom.toNat ∧ m.rNom.toNat ≤ 40000 ∧ 1 ≤ m.rTol.toNat ∧ m.rTol.toNat ≤ m.rNom.toNat / 4 ∧
  (m.drop = true → m.drop16.toNat ≠ 0) ∧ 20000 ≤ m.lOrd.toNat ∧ m.lOrd.toNat ≤ 2000000 ∧
  m.lShort.toNat ≤ m.lOrd.toNat ∧ m.kcCode.toNat ≠ 3 ∧ 4000 ≤ m.cc.toNat ∧ m.cc.toNat ≤ 160000

/-- A capture of a sensor passes the three tests of R6 to R8 in a session with a recipe loaded. -/
def Accepted (s : State) (sensor : Sensor) (run : RunState) (r : Recipe) : Prop :=
  s.sc.session = .loaded run r ∧ s.wpu.direction sensor = .forward ∧
  ∀ p ∈ (s.wpu.sensor sensor).last, (r.rNom : Int) ≤ 2 * signedDistance p.pos (s.wpu.counter sensor)

/-- A point's measured length lies within its window (section 3.3.3). -/
def Window.Contains (w : Window) (m : Nat) : Prop := w.ref ≤ m + w.tol ∧ m ≤ w.ref + w.tol

/-- R47, R48: a length above the window `w` that fits no skipped record either, `next` being the window of the record
after. -/
def Window.Loses (w : Window) (next : Option Window) (m : Nat) : Prop :=
  w.ref + w.tol < m ∧ ∀ v ∈ next, ¬Window.Contains ⟨w.ref + v.ref, w.tol + v.tol⟩ m

/-- R47: a length above the window `w` that fits the record skipped and the one after it, of window `v`. -/
def Window.Skips (w v : Window) (m : Nat) : Prop :=
  w.ref + w.tol < m ∧ Window.Contains ⟨w.ref + v.ref, w.tol + v.tol⟩ m

/-- R49: what a mark makes of a point in LOST. -/
def TrackPoint.Follows (p q : TrackPoint) (plausible : Prop) : Prop :=
  (¬plausible ∧ q = ⟨.lost, 0⟩) ∨ (plausible ∧ p.regain < 2 ∧ q = ⟨.lost, p.regain + 1⟩) ∨
  (plausible ∧ 2 ≤ p.regain ∧ q = ⟨.sync, 0⟩)

/-- R68: the ERC takes the record `seq` with error e in the state u. In OFF it writes the error only (R65). In ACQUIRE
and LOCKED it counts, runs the trim law and writes error and verdict; REGISTER is raised and the lock or loss logged
exactly when its state changes (R71 to R73, R78). -/
def RegisterTakes (r : Recipe) (seq : Nat) (e : Int) (u t : State) : Prop :=
  (u.erc.mode = .off → t = { u with rt := { u.rt with queue := u.rt.queue.map fun x =>
    if x.seq = seq then { x with embossError := some e } else x } }) ∧
  ∀ after : Erc, u.erc.mode = .acquire ∨ u.erc.mode = .locked → after = u.erc.count r e →
    t.erc = after.trim r e ∧
    t.rt = { u.rt with queue := u.rt.queue.map fun x => if x.seq = seq then
      { x with
        embossError := some e
        register := if after.mode = .locked ∧ e.natAbs ≤ r.eTol then .inRegister else .outOfRegister } else x } ∧
    (after.mode = u.erc.mode → t.events = u.events ∧ t.ports = u.ports ∧ t.sc = u.sc) ∧
    (after.mode ≠ u.erc.mode →
      t.events = (logEvent u ⟨if after.mode = .locked then .registerLocked else .registerLost, .emboss, some seq, none,
        none, extraInt e⟩).events ∧
      ∀ q, (t.ports.get q).raw = (u.ports.get q).raw ||| 0x21) ∧
    t.wpu = u.wpu ∧ t.batches = u.batches ∧ t.rb = u.rb ∧ t.ks = u.ks ∧ t.ld = u.ld ∧ t.ps = u.ps

/-! ### Hand-overs and rolls, as statements speak of them -/

/-- R16: no reach is reported while no cut is queued. -/
def NoStrayReach (s : State) : Prop := s.ks.queue = [] → s.wpu.reach = false

/-- R44, R45: a cut mark in a run is accepted and matched to the head k of the queue, in SEEKING or plausible in SYNC.
-/
def MatchedAtKnife (s : State) (r : Recipe) (k : RepeatRecord) : Prop :=
  (Accepted s .cm .running r ∨ Accepted s .cm .draining r) ∧ s.rt.queue.head? = some k ∧ k.knifeMissed = false ∧
  NoStrayReach s ∧
  (s.rt.knife.mode = .seeking ∨ s.rt.knife.mode = .sync ∧ ∃ p, s.wpu.cm.last = some p ∧
    Window.Contains ⟨k.creditedLen r, s.ps.setup.cTol⟩ (s.wpu.le - p.pos).toNat)

/-- The segment names the roll x, which is BUILDING (R113). -/
def State.Builds (s : State) (x : Roll) : Prop :=
  s.rb.segment = .roll x.serial ∧ s.findRoll x.serial = some x ∧ x.state = .building ∧
  (s.rb.rolls.map Roll.serial).Nodup

/-- No roll is building: the segment is NONE, WASTE or AWAIT_A. -/
def State.BuildsNone (s : State) : Prop := ∀ n, s.rb.segment ≠ .roll n

/-- R9, R39: the state after a cut mark was accepted and the knife point has become p. -/
def State.atKnife (s : State) (p : TrackPoint) : State :=
  { s with
    wpu := { s.wpu with cm := { s.wpu.cm with last := some ⟨s.wpu.le, none⟩ } }
    rt := { s.rt with knife := p } }

/-- R41, R54, R113: the state after the oldest record k was handed over on the capture c, before the RB decides:
EMBOSS_MISSED is logged with extra 1 when k is still AWAITING, queue and batch lose k, the last hand-over is k's. -/
def State.handed (u : State) (r : Recipe) (k : RepeatRecord) (c : Word) : State :=
  lowerQueued
    { (if k.emboss = .awaiting then logEvent u ⟨.embossMissed, .emboss, some k.seq, none, none, 1⟩ else u) with
      rt := { u.rt with queue := u.rt.queue.tail }
      rb := { u.rb with lastHandOver := some ⟨c, k.creditedLen r⟩ } } k.shade

/-- R54, R123: the state after the record k was handed over and went to waste. -/
def State.wasted (u : State) (r : Recipe) (k : RepeatRecord) (c : Word) : State :=
  freeTestOf { u.handed r k c with rb := { (u.handed r k c).rb with segment := .waste } } k.shade

/-- The roll with the hold flag TRACKING_FAULT. -/
def Roll.faulted (x : Roll) : Roll := { x with hold := { x.hold with trackingFault := true } }

/-- R119: the roll x after a fold of the record k. -/
def Roll.grown (x : Roll) (r : Recipe) (k : RepeatRecord) : Roll :=
  { x with
    length := x.length + k.creditedLen r
    repeats := x.repeats + 1
    sums := match k.reading with
      | some e => ⟨x.sums.l + e.l, x.sums.a + e.a, x.sums.b + e.b⟩
      | none => x.sums
    shadeCount := if k.reading.isSome then x.shadeCount + 1 else x.shadeCount
    minors := min 255 (x.minors + ((k.defects.filter fun d => d.severity == .minor).length +
      if k.major then 0 else k.overflow))
    lastSeq := k.seq }

/-- R54, R117, R118: the state after the record k was handed over, the BUILDING roll having become x. -/
def State.folded (u : State) (r : Recipe) (k : RepeatRecord) (c : Word) (x : Roll) : State :=
  freeTestOf { u.handed r k c with rb := { (u.handed r k c).rb with
    rolls := u.rb.rolls.map fun y => if y.serial = x.serial then x else y } } k.shade

/-- R120, R134: the class of a roll that closes: FULL from L_ord on, SHORT from L_short on, else REMNANT. -/
def Roll.closeClass (x : Roll) (r : Recipe) : RollClass :=
  if r.lOrd ≤ x.length then .full else if r.lShort ≤ x.length then .short else .remnant

/-- R116 to R118: the BUILDING roll x closes at the record k: x has reached L_ord, or k, not missed by the knife, is not
good or of another batch. -/
def ClosesAt (r : Recipe) (k : RepeatRecord) (x : Roll) : Prop :=
  r.lOrd ≤ x.length ∨ (k.knifeMissed = false ∧ (k.isGood = false ∨ k.shade ≠ .batch x.batch))

/-- R121: the record at which the roll x closes is trim: DROP mode, phase B, class FULL or SHORT. -/
def Roll.LeavesTrim (x : Roll) (r : Recipe) : Prop := r.mode = .drop ∧ x.phase = .b ∧ x.closeClass r ≠ .remnant

/-- R131: the fire position at a phase, on a capture and a credited length. -/
def Recipe.fireAt (r : Recipe) (c : Word) (len : Nat) (ph : Phase) : Word :=
  c + BitVec.ofNat 32 r.phiCut + BitVec.ofNat 32 (match ph with
    | .a => 0
    | .b => r.drop16 * len / 16)

/-- R120, R121, R133: the state after the record k was handed over and the BUILDING roll x closed at it, its end
position being `pos`: x is ENDING with its class, the next drop phase is turned over in DROP mode unless x is a REMNANT,
and the record is trim (segment AWAIT_A, the pending drop start flag set) or waste. -/
def State.closed (u : State) (r : Recipe) (k : RepeatRecord) (c : Word) (x : Roll) (pos : Word) : State :=
  { u.handed r k c with rb := { (u.handed r k c).rb with
      rolls := u.rb.rolls.map fun y => if y.serial = x.serial then
        { x with state := .ending, cls := some (x.closeClass r), endPos := some pos } else y
      nextDrop := if r.mode = .drop ∧ x.closeClass r ≠ .remnant then x.phase.opposite else u.rb.nextDrop
      segment := if r.mode = .drop ∧ x.phase = .b ∧ x.closeClass r ≠ .remnant then .awaitA else .waste
      pendingDrop := u.rb.pendingDrop ||
        decide (r.mode = .drop ∧ x.phase = .b ∧ x.closeClass r ≠ .remnant) } }

/-- R126: the look-ahead forbids a roll of batch `code` at record k, with `queue` behind it: before the credited lengths
from k on reach L_short there comes a record known to be bad or of another verdict. -/
def LookAheadForbids (r : Recipe) (k : RepeatRecord) (code : Nat) (queue : List RepeatRecord) : Prop :=
  ∃ pre x post, queue = pre ++ x :: post ∧
    k.creditedLen r + (pre.map fun y => y.creditedLen r).sum < r.lShort ∧
    (x.knownBad = true ∨ (x.shade ≠ .pending ∧ x.shade ≠ .batch code))

/-- R125: the record k, to be decided outside a roll in the state u, starts one of batch `code`, c being the reserved
counters: it is good, the table has room, the look-ahead allows it and the roll counter is not exhausted. -/
def State.Starts (u : State) (r : Recipe) (k : RepeatRecord) (code : Nat) (c : Counters) : Prop :=
  k.isGood = true ∧ k.shade = .batch code ∧ u.rb.rolls.length < 16 ∧
  (r.lookAhead = true → ¬LookAheadForbids r k code u.rt.queue.tail) ∧
  u.ps.reserved = some c ∧ c.roll < 4294967295 ∧ ∀ y ∈ u.rb.rolls, y.serial ≤ c.roll

/-- R125, R126: the good record k, to be decided outside a roll in the state u, starts none and goes to waste; the event
logged: ROLL_TABLE_FULL, none for the look-ahead, COUNTER_EXHAUSTED. -/
def State.RefusesStart (u : State) (r : Recipe) (k : RepeatRecord) (ev : Option EventReport) : Prop :=
  k.isGood = true ∧ ∃ code, k.shade = .batch code ∧
  ((16 ≤ u.rb.rolls.length ∧ ev = some ⟨.rollTableFull, .label, some k.seq, none, some code, 16⟩) ∨
    (u.rb.rolls.length < 16 ∧ r.lookAhead = true ∧ LookAheadForbids r k code u.rt.queue.tail ∧ ev = none) ∨
    (u.rb.rolls.length < 16 ∧ (r.lookAhead = true → ¬LookAheadForbids r k code u.rt.queue.tail) ∧
      (∃ c, u.ps.reserved = some c ∧ c.roll = 4294967295) ∧
      ev = some ⟨.counterExhausted, .store, some k.seq, none, some code, 1⟩))

/-- The state after an event was logged, if there is one. -/
def State.logged (u : State) (ev : Option EventReport) : State :=
  match ev with
  | some e => logEvent u e
  | none => u

/-- R129: the phase of the next roll to start. -/
def RollBuilder.nextPhase (rb : RollBuilder) (r : Recipe) : Phase :=
  if r.mode = .drop ∧ rb.pendingDrop = false then rb.nextDrop else .a

/-- R175, R181: the store after the counters c were reserved and their commit requested; the block of an attempt that
starts is invalid (log entry 17). -/
def PersistentStore.reservedTo (ps : PersistentStore) (c : Counters) : PersistentStore :=
  match ps.op with
  | .idle => { ps with
      reserved := some c
      commitPending := false
      array := { ps.array with counters := none }
      op := .committing ⟨c, 0, false⟩ }
  | .writing w _ => { ps with reserved := some c, op := .writing w true }
  | .committing _ => { ps with reserved := some c, commitPending := true }
  | .committingOver _ _ => { ps with reserved := some c, commitPending := true }

/-- R112, R128 to R130: the state after a roll of batch `code` started at the record k in the state u, c being the
reserved counters: the next serial is reserved, the roll is BUILDING from k on with its start position `pos`, its batch
counts it, and ROLL_TABLE_LOW is logged when 14 or more rolls stand in the table, before the cuts (log entry 7). -/
def State.begun (u : State) (r : Recipe) (k : RepeatRecord) (code : Nat) (c : Counters) (pos : Word) : State :=
  let t : State := { u with
    ps := u.ps.reservedTo { c with roll := c.roll + 1 }
    batches := u.batches.map fun b => if b.code = code then { b with rolls := b.rolls + 1 } else b
    rb := { u.rb with
      segment := .roll (c.roll + 1)
      pendingDrop := false
      rolls := u.rb.rolls ++ [{
        serial := c.roll + 1
        batch := code
        state := .building
        phase := u.rb.nextPhase r
        mode := r.mode
        pattern := r.pattern
        repeats := 1
        length := k.creditedLen r
        cls := none
        sums := k.reading.getD ⟨0, 0, 0⟩
        shadeCount := if k.reading.isSome then 1 else 0
        minors := min 255 ((k.defects.filter fun d => d.severity == .minor).length + k.overflow)
        hold := ⟨false, false, false⟩
        firstSeq := k.seq
        lastSeq := k.seq
        startPos := pos
        endPos := none
        accepted := false }] } }
  if 14 ≤ t.rb.rolls.length then
    logEvent t ⟨.rollTableLow, .label, some k.seq, some (c.roll + 1), some code, extraNat t.rb.rolls.length⟩
  else t

/-! ### Cuts, as statements speak of them -/

/-- R145, R146, R15: the state after the head cut c has fired in the state u, `rest` being the cuts behind it: c is
outstanding with its lateness, LATE flag and the parameters in force, KNIFE_REQ is asserted, and the new head is tested.
A LATE cut is logged CUT_LATE and gives OFF_MATCH to its starting roll while that is BUILDING or ENDING. -/
def State.fired (u : State) (c : Cut) (rest : List Cut) : State :=
  let lateness := signedDistance c.pos u.wpu.le
  let late := c.raised || decide ((u.ps.setup.lateTol : Int) < lateness)
  { (if late then logEvent u ⟨.cutLate, .knife, none,
      (match c.kind with
        | .ends n => some n
        | .starts n => some n
        | .endStart _ n => some n), none, extraNat lateness.toNat⟩ else u) with
    ks := { u.ks with
      queue := rest, outstanding := some ⟨c, lateness, late, u.ps.setup.tKnife, u.ps.setup.lateTol⟩, knifeReq := true }
    wpu := { u.wpu with reach := match rest with
      | [] => false
      | d :: _ => isReached u.wpu.le d.pos }
    rb := { u.rb with rolls := u.rb.rolls.map fun x =>
      if late = true ∧ c.kind.starting = some x.serial ∧ (x.state = .building ∨ x.state = .ending) then
        { x with hold := { x.hold with offMatch := true } } else x } }

/-- R142: the fire position that a cut is compared with: the tail cut's, or the outstanding cut's when none is queued.
-/
def KnifeSequencer.Behind (ks : KnifeSequencer) (p : Word) : Prop :=
  (∃ q d, ks.queue = q ++ [d] ∧ d.pos = p) ∨ (ks.queue = [] ∧ ∃ o, ks.outstanding = some o ∧ o.cut.pos = p)

/-- R142: the cut c, handed over while fewer than 4 cuts are queued, is queued as q: raised to the position before it,
or as it is. -/
def KnifeSequencer.Queues (ks : KnifeSequencer) (c q : Cut) : Prop :=
  ks.queue.length < 4 ∧
  ((∃ p, ks.Behind p ∧ signedDistance p c.pos < 0 ∧ q = { c with pos := p, raised := true }) ∨
    ((∀ p, ks.Behind p → 0 ≤ signedDistance p c.pos) ∧ q = { c with raised := false }))

/-- R14, R142, R145: the state after the cut q has joined the tail of the queue in the state u. In an empty queue it is
tested at once, and fires at once when it is reached and no cut is outstanding. -/
def State.placed (u : State) (q : Cut) : State :=
  if u.ks.queue = [] then
    if isReached u.wpu.le q.pos = true ∧ u.ks.outstanding = none then u.fired q []
    else { u with ks := { u.ks with queue := [q] }, wpu := { u.wpu with reach := isReached u.wpu.le q.pos } }
  else { u with ks := { u.ks with queue := u.ks.queue ++ [q] } }

/-- R133: the rolls of the cut c record its fire position. -/
def State.recorded (u : State) (c : Cut) : State :=
  { u with rb := { u.rb with rolls := u.rb.rolls.map fun y => { y with
      startPos := if c.kind.starting = some y.serial then c.pos else y.startPos
      endPos := if c.kind.ending = some y.serial then some c.pos else y.endPos } } }

/-- R143 step 1, R144: the rolls of the cut c that are BUILDING or ENDING carry CUT_FAULT. -/
def State.cutFaulted (u : State) (c : Cut) : State :=
  { u with rb := { u.rb with rolls := u.rb.rolls.map fun y : Roll =>
      if (c.kind.starting = some y.serial ∨ c.kind.ending = some y.serial) ∧ (y.state = .building ∨ y.state = .ending) then
        { y with hold := { y.hold with cutFault := true } } else y } }

/-- R143 step 2, R144, R148: the ENDING roll x of a cut that failed: HELD, or, a REMNANT, out of the table with
REMNANT_CUT logged, whose extra says how the cut ended, its batch counting one roll less and tested for freeing. -/
def State.endFailed (u : State) (x : Roll) (extra : BitVec 16) : State :=
  if x.cls = some .remnant then
    logEvent
      (freeTestOf
        { u with
          rb := { u.rb with rolls := u.rb.rolls.filter fun y => decide (y.serial ≠ x.serial) }
          batches := u.batches.map fun b => if b.code = x.batch then { b with rolls := b.rolls - 1 } else b }
        (.batch x.batch))
      ⟨.remnantCut, .knife, some x.lastSeq, some x.serial, some x.batch, extra⟩
  else
    { u with
      rb := { u.rb with rolls := u.rb.rolls.map fun y => if y.serial = x.serial then { y with state := .held } else y }
      ports := u.ports.map fun q => q.raise noticeHeld }

/-- R143, R144, R148: the state after the cut c failed in the state u, `ev` being its event and `extra` the extra of a
REMNANT_CUT: the event is logged; both rolls gain CUT_FAULT; an ENDING roll is completed; CUT is raised. -/
def State.cutFailed (u : State) (c : Cut) (ev : EventReport) (extra : BitVec 16) : State :=
  let v : State := (logEvent u ev).cutFaulted c
  let w : State := match c.kind.ending.bind v.findRoll with
    | some x => if x.state = .ending then v.endFailed x extra else v
    | none => v
  { w with ports := w.ports.map fun q => q.raise noticeCut }

/-- R143, R144: the state after the cut c was refused in the state u: KNIFE_OVERRUN carries the ending roll, or the
starting roll where there is none, and the position computed. -/
def State.refused (u : State) (c : Cut) : State :=
  u.cutFailed c ⟨.knifeOverrun, .knife, none, c.kind.ending.or c.kind.starting, none, c.pos.setWidth 16⟩ 2

/-- R133, R142, R144: the RB hands the cut c over in the state u, and v is the state after: the cut is queued, raised
where it must be, or refused when 4 are queued; the rolls record its position. -/
def State.TakesCut (u : State) (c : Cut) (v : State) : Prop :=
  (∃ q, u.ks.Queues c q ∧ v = (u.recorded q).placed q) ∨ (4 ≤ u.ks.queue.length ∧ v = (u.recorded c).refused c)

/-! ### Every hand-over, as statements speak of it -/

/-- R54, R116 to R132: the record k, marked where the knife missed it or the point was lost, is handed over on the
capture c in the state u. One clause for each decision of the RB; each cut is taken as `State.TakesCut` says. The index
is the state after. Its events stand in the order of log entry 7; EMBOSS_MISSED is logged whatever the point (log entry
23). -/
inductive HandsOver (r : Recipe) (u : State) (k : RepeatRecord) (c : Word) : State → Prop where
  /-- R123: outside a roll a record that is not good, or that the knife missed, goes to waste. -/
  | wasted : u.BuildsNone → k.isGood = false ∨ k.knifeMissed = true → HandsOver r u k c (u.wasted r k c)
  /-- R125, R126: outside a roll a good record starts none and goes to waste. -/
  | refused (ev : Option EventReport) (v : State) : u.BuildsNone → k.knifeMissed = false → u.RefusesStart r k ev →
    v = u.handed r k c →
    HandsOver r u k c (freeTestOf (State.logged { v with rb := { v.rb with segment := .waste } } ev) k.shade)
  /-- R128 to R132: outside a roll a good record starts one, with a START cut. -/
  | starts (code : Nat) (n : Counters) (pos : Word) (v : State) : u.BuildsNone → k.knifeMissed = false →
    u.Starts r k code n → pos = r.fireAt c (k.creditedLen r) (u.rb.nextPhase r) →
    ((u.handed r k c).begun r k code n pos).TakesCut ⟨pos, .starts (n.roll + 1), .roll, false⟩ v →
    HandsOver r u k c (freeTestOf v k.shade)
  /-- R118, R119: a good record of the roll's batch is folded into a roll below L_ord. -/
  | folds (x : Roll) : u.Builds x → x.length < r.lOrd → k.knifeMissed = false → k.isGood = true →
    k.shade = .batch x.batch → HandsOver r u k c (u.folded r k c (x.grown r k))
  /-- R117: a record that the knife missed is folded into a roll below L_ord, with TRACKING_FAULT. -/
  | foldsMissed (x : Roll) : u.Builds x → x.length < r.lOrd → k.knifeMissed = true →
    HandsOver r u k c (u.folded r k c (x.grown r k).faulted)
  /-- R116 to R118, R120, R121: a roll closes at a record that is trim or starts no roll, with an END cut; TRACKING_FAULT
  when the knife missed the record. -/
  | closes (x y : Roll) (pos : Word) (v : State) : u.Builds x → ClosesAt r k x →
    x.LeavesTrim r ∨ k.isGood = false ∨ k.knifeMissed = true → y = (if k.knifeMissed then x.faulted else x) →
    pos = r.fireAt c (k.creditedLen r) x.phase →
    (u.closed r k c y pos).TakesCut ⟨pos, .ends x.serial, .waste, false⟩ v → HandsOver r u k c (freeTestOf v k.shade)
  /-- R121, R125, R132: a roll closes at a good record whose start is refused, with an END cut. -/
  | closesRefused (x : Roll) (ev : Option EventReport) (pos : Word) (v : State) : u.Builds x → ClosesAt r k x →
    ¬x.LeavesTrim r → k.knifeMissed = false → u.RefusesStart r k ev → pos = r.fireAt c (k.creditedLen r) x.phase →
    ((u.closed r k c x pos).logged ev).TakesCut ⟨pos, .ends x.serial, .waste, false⟩ v →
    HandsOver r u k c (freeTestOf v k.shade)
  /-- R121, R132: a roll closes at a record that starts another at the same phase, with one END_START cut. -/
  | endStart (x : Roll) (code : Nat) (n : Counters) (pos : Word) (v w : State) : u.Builds x → ClosesAt r k x →
    ¬x.LeavesTrim r → k.knifeMissed = false → u.Starts r k code n → pos = r.fireAt c (k.creditedLen r) x.phase →
    v = u.closed r k c x pos → v.rb.nextPhase r = x.phase →
    (v.begun r k code n pos).TakesCut ⟨pos, .endStart x.serial (n.roll + 1), .roll, false⟩ w →
    HandsOver r u k c (freeTestOf w k.shade)
  /-- R121, R132: a roll closes at a record that starts another at the other phase, with an END and then a START cut. -/
  | endThenStart (x : Roll) (code : Nat) (n : Counters) (pos start : Word) (v w z : State) : u.Builds x →
    ClosesAt r k x → ¬x.LeavesTrim r → k.knifeMissed = false → u.Starts r k code n →
    pos = r.fireAt c (k.creditedLen r) x.phase → v = u.closed r k c x pos → v.rb.nextPhase r ≠ x.phase →
    start = r.fireAt c (k.creditedLen r) (v.rb.nextPhase r) →
    (v.begun r k code n start).TakesCut ⟨pos, .ends x.serial, .waste, false⟩ w →
    w.TakesCut ⟨start, .starts (n.roll + 1), .roll, false⟩ z → HandsOver r u k c (freeTestOf z k.shade)

/-- R122: the BUILDING roll, if there is one, carries TRACKING_FAULT. -/
def State.trackFaulted (u : State) : State :=
  { u with rb := { u.rb with rolls := u.rb.rolls.map fun y => if u.rb.segment = .roll y.serial then y.faulted else y } }

/-! ### The end of a run, as statements speak of it -/

/-- R63: the ERC in OFF, its applied duty kept. -/
def Erc.switchedOff (c : Erc) : Erc :=
  { c with mode := .off, integral := 0, lastOutput := 0, lockRun := 0, lossRun := 0, pendingDuty := 128 }

/-- R24 steps 2 to 5: the batches close and the spent ones are freed, the ERC goes OFF, the session is ARMED, and
DRAIN_COMPLETE is logged with the roll closed; its extra 0 is the model's choice (log entry 33). -/
def State.drainEnded (u : State) (r : Recipe) (serial : Option Nat) : State :=
  logEvent
    { u with
      batches := (u.batches.filter fun b : BatchEntry => !(b.active && b.queued == 0 && b.rolls == 0)).map
        fun b => { b with state := .closed }
      erc := u.erc.switchedOff
      sc := { u.sc with session := .loaded .armed r }
      ports := u.ports.map fun q => { q with raw := q.raw |||
        ((if u.batches.any BatchEntry.active then 0x10 else 0) ||| (if u.erc.mode = .off then 0 else 0x20)) } }
    ⟨.drainComplete, .line, none, serial, none, 0⟩

/-- R24, R134: the state after drain completion in the state u with nothing queued and no cut outstanding. A BUILDING
roll x becomes ENDING with its class, its END cut queued on the end of the last hand-over (free where that is absent,
log entry 6). A cut already reached fires, and is logged CUT_LATE when LATE, before DRAIN_COMPLETE (log entry 31). -/
def State.drained (u : State) (r : Recipe) : State :=
  let ended := { u with rb := { u.rb with segment := .none, pendingDrop := false } }
  match u.rb.segment with
  | .roll n =>
    match u.findRoll n with
    | some x =>
      let h := u.rb.lastHandOver.getD ⟨Config.absentCapture, Config.absentLength⟩
      let pos := r.fireAt (h.capture + BitVec.ofNat 32 h.len) h.len x.phase
      State.drainEnded (State.placed
        { ended with rb := { ended.rb with
            nextDrop := if r.mode = .drop ∧ x.closeClass r ≠ .remnant then x.phase.opposite else u.rb.nextDrop
            rolls := u.rb.rolls.map fun y => if y.serial = n then
              { y with state := .ending, cls := some (x.closeClass r), endPos := some pos } else y } }
        ⟨pos, .ends n, .waste, false⟩) r (some n)
    | none => ended.drainEnded r none
  | .none | .waste | .awaitA => ended.drainEnded r none

/-- R24: the state after the drain completion test in the state u (its order of events: log entry 31). -/
def State.settled (u : State) : State :=
  match u.sc.session with
  | .loaded .draining r =>
    if u.rt.queue = [] ∧ u.ks.queue = [] ∧ u.ks.outstanding = none then u.drained r else u
  | .loaded .armed _ | .loaded .running _ | .unloaded => u

/-- R147 and R148, the last steps: the state after a cut has completed, from the state u in which no cut is outstanding:
a head reported reached fires, and the drain completion test is made. -/
def State.released (u : State) : State :=
  match u.ks.queue, u.wpu.reach with
  | c :: rest, true => (u.fired c rest).settled
  | _, _ => u.settled

/-! ### Batches, as statements speak of them -/

/-- R96: what a report with no winner finds before it opens a batch: s itself when a slot is free; otherwise the active
batch of the lowest last matched seq is CLOSED, logged with that seq (log entry 24), and freed when nothing names it. -/
def SlotCleared (s : State) (r : Recipe) (u : State) : Prop :=
  (s.batches.countP BatchEntry.active < r.bSlots ∧ u = s) ∨
  (r.bSlots ≤ s.batches.countP BatchEntry.active ∧ ∃ b ∈ s.batches, b.active = true ∧
    (∀ y ∈ s.batches, y.active = true → y ≠ b → b.lastSeq < y.lastSeq) ∧
    ∃ v, v = logEvent s ⟨.batchClosed, .quality, some b.lastSeq, none, some b.code, 0⟩ ∧ u = { v with
      ports := v.ports.map fun q => q.raise noticeBatch
      batches := if b.queued = 0 ∧ b.rolls = 0 then s.batches.filter fun y => decide (y.code ≠ b.code)
        else s.batches.map fun y => if y.code = b.code then { b with state := .closed } else y })

/-- R104: the batches left by the freeing test of one code: its entry is freed when it is CLOSED and both counts are 0.
-/
def freeSpent (code : Nat) (bs : List BatchEntry) : List BatchEntry :=
  match bs.find? fun b => decide (b.code = code) with
  | some b =>
    if b.state = .closed ∧ b.queued = 0 ∧ b.rolls = 0 then bs.filter fun y => decide (y.code ≠ code) else bs
  | none => bs

/-- R61, R100 to R105: the batches of s after every record has left the Repeat Queue, the rolls `lost` have left the
Roll Table and the run has ended: each is CLOSED with its counts lowered, its code, reference, last matched seq and
rolls labelled as they were; one that nothing names any more is freed. -/
def State.batchesLeft (s : State) (lost : List Roll) : List BatchEntry :=
  (s.batches.map fun b => { b with
    state := .closed
    queued := b.queued - s.rt.queue.countP fun k => k.shade == .batch b.code
    rolls := b.rolls - lost.countP fun x => x.batch == b.code }).filter fun b => !(b.queued == 0 && b.rolls == 0)

/-! ### Ports, as statements speak of them -/

/-- R202: a port whose raw set has gained the given notices. -/
def PortState.gaining (p : PortState) (bits : BitVec 8) : PortState := { p with raw := p.raw ||| bits }

/-- R177, R199: a port to which the end of a store operation was posted: the final status replaces a reply that shows
PENDING, which is when the slot is tied to the operation (log entry 20), and STORE is raised. -/
def PortState.posted (p : PortState) (st : Status) : PortState :=
  { p with
    slot := if p.slot.status = .pending then { p.slot with status := st, data := [] } else p.slot
    raw := p.raw ||| noticeStore }

/-- The port of a request of the catalogue that replies through the slot; none for the other commands. -/
def slotRequest : Instr → Option Port
  | .setNotices p _ | .ackNotices p _ | .resumeLine p | .clearArm p | .clearLine p | .loadRecipe p _ | .startRun p
  | .endRun p | .flushRun p | .writeRecipe p _ | .readRecipe p _ | .writeSetup p _ | .readSetup p
  | .seedCounters p _ _ | .readCounters p | .reportDefect p _ _ _ _ | .shadeReport p _ _ _ _ | .readRepeat p _
  | .readRoll p _ | .readBatch p _ | .getLabel p | .labelDone p _ | .rollDisposition p _ _ | .readEvents p _
  | .clearEvents p => some p
  | .deviceReset _ _ | .encoderCount _ _ _ | .caCount _ _ | .caIndex | .markCapture _ | .splice | .knifeAck
  | .knifeTimeout | .pwmPeriodEnd | .writeSuspend | .storeWriteEnd _ | .commitAttemptEnd _ | .readStatus _ _
  | .fetchReply _ _ | .badFrame _ _ => none

end Sys2Proof.Machine
end

