-- ==== Sys2Proof/Certificates/Slice0/Obligations.lean ====
section
/-! DEFINITION. The statements for the provers. -/

open Sys2Proof Sys2Proof.Machine

/-! ### The machine -/

/-- One step takes the command at the front of the queue and executes it on the state with the queue's rest; an empty
queue idles (log entry 10). -/
def Obligations.StepTakesTheFrontCommand : Prop :=
  (∀ (s : State) (c : Instr) (rest : List Instr), s.pending = c :: rest → step s = exec c { s with pending := rest }) ∧
  ∀ s : State, s.pending = [] → step s = .next s

/-- Every command in every state answers a next state, and leaves the queue of commands as it stands; that DEVICE_RESET
leaves it is the model's choice (log entry 21). -/
def Obligations.EveryCommandAnswersANextState : Prop :=
  ∀ (c : Instr) (s : State), ∃ t, exec c s = .next t ∧ t.pending = s.pending

/-- The state after reset satisfies every law of Safety.lean. -/
def Obligations.ResetStateIsSound : Prop := Sound State.reset

/-- DEVICE_RESET puts every block into its reset state, from every state: the values of R19, R61, R62, R82, R84, R110,
R113, R152, R173, R196 and R204, the PS read from the array as R185 leaves it, where an attempt cut short had landed or
not by the operand (log entry 12). Three of its clauses are the model's choices: the levels on the encoder inputs are
kept (log entry 2), so are the waiting commands (log entry 21), and the reserved counters restart from a valid counter
block, as R179 says, also where a code was reserved whose commit had not landed, which R98 keeps used (log entry 25). -/
def Obligations.DeviceResetPutsEveryBlockInItsResetState : Prop :=
  ∀ (cause : ResetCause) (landed : Bool) (s : State) (arr : StoreArray),
    arr = (match s.ps.op.series? with
      | some c => if landed then { s.ps.array with counters := some c.values } else s.ps.array
      | none => s.ps.array) →
    exec (.deviceReset cause landed) s = .next
      { wpu := ⟨0, 0, 0, .forward, .forward, s.wpu.peIn, s.wpu.leIn, s.wpu.caIn, ⟨none, 0⟩, ⟨none, 0⟩, ⟨none, 0⟩,
          false, false⟩
        sc := ⟨.unloaded, 1, false, true, ⟨false, false, false⟩⟩
        rt := ⟨[], true, ⟨.seeking, 0⟩, ⟨.seeking, 0⟩⟩
        erc := ⟨.off, 0, 0, 0, 0, 128, 128⟩
        batches := []
        rb := ⟨[], .none, .a, false, none⟩
        ks := ⟨[], none, false, .waste⟩
        ld := ⟨[], none, false⟩
        ps := { array := arr
                setup := arr.setup.getD
                  ⟨20000, 200, 50, 100, ⟨.native, .native, .native, .native, .native, .native, .native⟩⟩
                setupStored := arr.setup.isSome
                reserved := arr.counters
                mirror := arr.counters
                validity := if arr.counters.isSome then .valid else .invalid
                op := .idle
                commitPending := false
                failures := 0 }
        events := ⟨[⟨1, 0, .line, .session, .powerUp, .note, none, none, none,
            match cause with
            | .powerOn => 0
            | .resetInput => 1⟩], 1, 0, ⟨false, false, false, false, false, false, false⟩, false⟩
        ports := ⟨⟨[], [], ⟨.notFound, 0, [], true⟩, false, 0, 0⟩, ⟨[], [], ⟨.notFound, 0, [], true⟩, false, 0, 0⟩,
          ⟨[], [], ⟨.notFound, 0, [], true⟩, false, 0, 0⟩⟩
        pending := s.pending }

/-! ### Encoders, index and splice -/

/-- R1 to R3: an edge of the print encoder or of the angle encoder counts up or down by one, modulo 2^32 and modulo
16,384; a change of both inputs or of none is not counted, on the line encoder neither; nothing else changes. Which
sequence is forward is the model's reading (log entry 3). -/
def Obligations.PrintAndAngleEncodersCount : Prop :=
  ∀ (a b : Bool) (s : State),
    (ForwardEdge s.wpu.peIn ⟨a, b⟩ → exec (.encoderCount .pe a b) s =
      .next { s with wpu := { s.wpu with pe := s.wpu.pe + 1, peDir := .forward, peIn := ⟨a, b⟩ } }) ∧
    (ReverseEdge s.wpu.peIn ⟨a, b⟩ → exec (.encoderCount .pe a b) s =
      .next { s with wpu := { s.wpu with pe := s.wpu.pe - 1, peDir := .reverse, peIn := ⟨a, b⟩ } }) ∧
    (¬ForwardEdge s.wpu.peIn ⟨a, b⟩ → ¬ReverseEdge s.wpu.peIn ⟨a, b⟩ → exec (.encoderCount .pe a b) s =
      .next { s with wpu := { s.wpu with peIn := ⟨a, b⟩ } }) ∧
    (ForwardEdge s.wpu.caIn ⟨a, b⟩ → exec (.caCount a b) s =
      .next { s with wpu := { s.wpu with ca := s.wpu.ca + 1, caIn := ⟨a, b⟩ } }) ∧
    (ReverseEdge s.wpu.caIn ⟨a, b⟩ → exec (.caCount a b) s =
      .next { s with wpu := { s.wpu with ca := s.wpu.ca - 1, caIn := ⟨a, b⟩ } }) ∧
    (¬ForwardEdge s.wpu.caIn ⟨a, b⟩ → ¬ReverseEdge s.wpu.caIn ⟨a, b⟩ → exec (.caCount a b) s =
      .next { s with wpu := { s.wpu with caIn := ⟨a, b⟩ } }) ∧
    (¬ForwardEdge s.wpu.leIn ⟨a, b⟩ → ¬ReverseEdge s.wpu.leIn ⟨a, b⟩ → exec (.encoderCount .le a b) s =
      .next { s with wpu := { s.wpu with leIn := ⟨a, b⟩ } })

/-- R1, R2, R14, R15, R145, R146: an edge of the line encoder counts LE and sets its direction; with no cut queued
nothing else changes; a head that the new LE does not reach stays, and a reached one waits behind an outstanding cut
with the reach indication set; a reached head fires when no cut is outstanding, as `State.fired` says: it becomes
outstanding with its lateness and LATE flag, a LATE one is logged CUT_LATE and gives OFF_MATCH to its starting roll, and
the next head is tested. Which sequence is forward is the model's reading (log entry 3). -/
def Obligations.LineEncoderCountsAndFiresTheReachedHead : Prop :=
  ∀ (a b : Bool) (s : State) (d : Direction) (le : Word),
    (ForwardEdge s.wpu.leIn ⟨a, b⟩ ∧ d = .forward ∧ le = s.wpu.le + 1 ∨
      ReverseEdge s.wpu.leIn ⟨a, b⟩ ∧ d = .reverse ∧ le = s.wpu.le - 1) →
    (s.ks.queue = [] → exec (.encoderCount .le a b) s = .next
      { s with wpu := { s.wpu with le := le, leDir := d, leIn := ⟨a, b⟩, reach := false } }) ∧
    (∀ c rest, s.ks.queue = c :: rest → (s.ks.outstanding.isSome = true ∨ (s.wpu.reach = false ∧ ¬isReached le c.pos)) →
      exec (.encoderCount .le a b) s = .next
        { s with wpu := { s.wpu with
            le := le, leDir := d, leIn := ⟨a, b⟩, reach := s.wpu.reach || isReached le c.pos } }) ∧
    (∀ c rest, s.ks.queue = c :: rest → s.ks.outstanding = none → (s.wpu.reach = true ∨ isReached le c.pos = true) →
      exec (.encoderCount .le a b) s = .next
        (State.fired { s with wpu := { s.wpu with le := le, leDir := d, leIn := ⟨a, b⟩ } } c rest))

/-- R4: at each index edge an offset of magnitude greater than 8 logs ANGLE_SLIP with the offset as extra, and CA
becomes 0 in every case. -/
def Obligations.IndexChecksTheAngleAndZeroesIt : Prop :=
  ∀ (s : State) (off : Int),
    off = (if s.wpu.ca.toNat < 8192 then (s.wpu.ca.toNat : Int) else (s.wpu.ca.toNat : Int) - 16384) →
    -8192 ≤ off ∧ off ≤ 8191 ∧
    EventCode.angleSlip.group = .emboss ∧ EventCode.angleSlip.nativeAction = .flag ∧
    (off.natAbs ≤ 8 → exec .caIndex s = .next { s with wpu := { s.wpu with ca := 0 } }) ∧
    (8 < off.natAbs → ∃ t, exec .caIndex s = .next t ∧ t.wpu = { s.wpu with ca := 0 } ∧
      t.events = (logEvent s ⟨.angleSlip, .emboss, none, none, none, BitVec.ofInt 16 off⟩).events ∧
      t.rt = s.rt ∧ t.erc = s.erc ∧ t.batches = s.batches ∧ t.rb = s.rb ∧ t.ks = s.ks ∧ t.ld = s.ld ∧ t.ps = s.ps)

/-- R12: a splice edge sets the splice arm and flags the newest record, in every session state. -/
def Obligations.SpliceFlagsTheNewestRecord : Prop :=
  ∀ s : State,
    (s.rt.queue = [] → exec .splice s = .next { s with wpu := { s.wpu with spliceArm := true } }) ∧
    (∀ q k, s.rt.queue = q ++ [k] → (∀ x ∈ q, x.seq ≠ k.seq) → exec .splice s = .next
      { s with
        wpu := { s.wpu with spliceArm := true }
        rt := { s.rt with queue := q ++ [{ k with splice := true }] } })

/-! ### Marks -/

/-- R6 to R8, R11: a capture in UNLOADED, against the direction, or inside the blanking distance is ignored: the
sensor's spurious counter rises by one, saturating, and nothing else changes. -/
def Obligations.MarksThatFailATestAreCounted : Prop :=
  ∀ (sensor : Sensor) (s : State),
    (s.sc.session = .unloaded ∨ s.wpu.direction sensor = .reverse ∨
      ∃ run r p, s.sc.session = .loaded run r ∧ (s.wpu.sensor sensor).last = some p ∧
        2 * signedDistance p.pos (s.wpu.counter sensor) < r.rNom) →
    exec (.markCapture sensor) s = .next
      { s with
        wpu := s.wpu.setSensor sensor ⟨(s.wpu.sensor sensor).last, min 65535 ((s.wpu.sensor sensor).spurious + 1)⟩ }

/-- R10, R18, R22, R37, R40, R41: an accepted mark that makes or matches no record: any mark in ARMED, a print mark in
DRAINING, an emboss mark in a run with no AWAITING record and a cut mark in a run with an empty queue are counted as
spurious, with no event and no change of a point; a print mark in RUNNING that finds 512 records logs QUEUE_FULL, and
one that finds the sequence counter spent does nothing. That the full queue is tested before the spent counter is the
model's choice (log entry 7). -/
def Obligations.MarksThatFindNoPlace : Prop :=
  ∀ (sensor : Sensor) (run : RunState) (r : Recipe) (s : State), Accepted s sensor run r →
    ((run = .armed ∨ (run = .draining ∧ sensor = .pm) ∨
        (run ≠ .armed ∧ sensor = .em ∧ ∀ k ∈ s.rt.queue, k.emboss ≠ .awaiting) ∨
        (run ≠ .armed ∧ sensor = .cm ∧ s.rt.queue = [])) → exec (.markCapture sensor) s = .next
      { s with
        wpu := s.wpu.setSensor sensor ⟨(s.wpu.sensor sensor).last, min 65535 ((s.wpu.sensor sensor).spurious + 1)⟩ }) ∧
    (run = .running → sensor = .pm → 512 ≤ s.rt.queue.length → exec (.markCapture sensor) s =
      .next (logEvent s ⟨.queueFull, .print, some s.sc.nextSeq, none, none, 0⟩)) ∧
    (run = .running → sensor = .pm → s.rt.queue.length < 512 → s.sc.seqSpent = true →
      exec (.markCapture sensor) s = .next s)

/-- R9, R22, R36, R38, R13: an accepted print mark in RUNNING, with room and an unspent counter, makes a record at the
tail. -/
def Obligations.PrintMarkMakesARecord : Prop :=
  ∀ (r : Recipe) (s : State) (lp : Option Nat), Accepted s .pm .running r → s.rt.queue.length < 512 →
    s.sc.seqSpent = false →
    lp = (if s.rt.leaderNext then none else s.wpu.pm.last.map fun p => (s.wpu.pe - p.pos).toNat) →
    exec (.markCapture .pm) s = .next
      { s with
        wpu := { s.wpu with pm := { s.wpu.pm with last := some ⟨s.wpu.pe, none⟩ }, spliceArm := false }
        sc := { s.sc with
          nextSeq := if s.sc.nextSeq < 4294967295 then s.sc.nextSeq + 1 else s.sc.nextSeq
          seqSpent := !decide (s.sc.nextSeq < 4294967295) }
        rt := { s.rt with
          leaderNext := false
          queue := s.rt.queue ++ [{
            seq := s.sc.nextSeq
            printPos := s.wpu.pe
            printLen := lp
            leader := s.rt.leaderNext
            irregular := match lp with
              | some n => decide ((n : Int) < r.rNom - r.rTol) || decide (r.rNom + r.rTol < n)
              | none => false
            splice := s.wpu.spliceArm
            emboss := .awaiting
            embossPos := none
            embossLen := none
            stretch := none
            embossError := none
            register := if r.emboss then .pending else .notApplicable
            reading := none
            shade := .pending
            defects := []
            overflow := 0
            major := false
            knifeMissed := false
            untrackedAtKnife := false }] } }

/-- R9, R40, R45, R52, R53, R65: with the ERC OFF, an emboss mark in SYNC whose length lies in the window of the oldest
AWAITING record matches it: position, length, stretch and error are written, the capture of LE and CA is the last
accepted one, and nothing else changes. -/
def Obligations.EmbossMarkMatchesTheOldestAwaitingRecord : Prop :=
  ∀ (run : RunState) (r : Recipe) (s : State) (p : Capture) (k : RepeatRecord) (rest : List RepeatRecord) (lp m : Nat),
    Accepted s .em run r → (run = .running ∨ run = .draining) → s.rt.emboss.mode = .sync → s.erc.mode = .off →
    s.wpu.em.last = some p → (s.rt.queue.filter fun x => x.emboss == .awaiting) = k :: rest →
    (s.rt.queue.map RepeatRecord.seq).Nodup → k.printLen = some lp → m = (s.wpu.le - p.pos).toNat →
    Window.Contains ⟨lp, lp * s.ps.setup.sMax / 1000000⟩ m →
    exec (.markCapture .em) s = .next
      { s with
        wpu := { s.wpu with em := { s.wpu.em with last := some ⟨s.wpu.le, some s.wpu.ca⟩ } }
        rt := { s.rt with queue := s.rt.queue.map fun x => if x.seq = k.seq then
          { k with
            emboss := .matched
            embossPos := some s.wpu.le
            embossLen := some m
            stretch := some (roundDiv (((m : Int) - lp) * 1000000) lp)
            embossError := some (embossError r s.wpu.ca) } else x } }

/-- R44, R45, R47, R52, R53, R65, R68, R71 to R73, R78: an emboss mark that matches a record and the ERC that takes it.
In SEEKING the oldest AWAITING record is matched without a length and the point enters SYNC. A plausible mark in SYNC
matches it with length and stretch where it has a print length. A mark that fits one skipped record makes the oldest
MISSED, logs EMBOSS_MISSED, and matches the one after without a length. What the ERC does, by its state, is
`RegisterTakes`; the lock run in ACQUIRE and the loss run in LOCKED are those of R71 and R72. -/
def Obligations.RegisterControllerTakesARecord : Prop :=
  (∀ (run : RunState) (r : Recipe) (s : State) (k : RepeatRecord) (rest : List RepeatRecord) (w : Wpu) (e : Int),
    Accepted s .em run r → (run = .running ∨ run = .draining) →
    (s.rt.queue.filter fun x => x.emboss == .awaiting) = k :: rest → (s.rt.queue.map RepeatRecord.seq).Nodup →
    w = { s.wpu with em := { s.wpu.em with last := some ⟨s.wpu.le, some s.wpu.ca⟩ } } → e = embossError r s.wpu.ca →
    (s.rt.emboss.mode = .seeking → ∃ t, exec (.markCapture .em) s = .next t ∧ RegisterTakes r k.seq e
      { s with
        wpu := w
        rt := { s.rt with
          emboss := ⟨.sync, s.rt.emboss.regain⟩
          queue := s.rt.queue.map fun x => if x.seq = k.seq then
            { k with emboss := .matched, embossPos := some s.wpu.le } else x } } t) ∧
    (∀ p m, s.rt.emboss.mode = .sync → s.wpu.em.last = some p → m = (s.wpu.le - p.pos).toNat →
      (embossWindow r s.ps.setup k).Contains m → ∃ t, exec (.markCapture .em) s = .next t ∧ RegisterTakes r k.seq e
      { s with
        wpu := w
        rt := { s.rt with queue := s.rt.queue.map fun x => if x.seq = k.seq then
          { k with
            emboss := .matched
            embossPos := some s.wpu.le
            embossLen := if k.printLen.isSome then some m else k.embossLen
            stretch := (k.printLen.map fun lp : Nat => roundDiv (((m : Int) - lp) * 1000000) lp).or k.stretch } else x } }
        t) ∧
    (∀ p m n rest', s.rt.emboss.mode = .sync → s.wpu.em.last = some p → m = (s.wpu.le - p.pos).toNat →
      rest = n :: rest' → (embossWindow r s.ps.setup k).Skips (embossWindow r s.ps.setup n) m →
      ∃ t, exec (.markCapture .em) s = .next t ∧ RegisterTakes r n.seq e
      { logEvent s ⟨.embossMissed, .emboss, some k.seq, none, none, 0⟩ with
        wpu := w
        rt := { s.rt with queue := s.rt.queue.map fun x =>
          if x.seq = k.seq then
            { k with emboss := .missed, register := if k.register = .pending then .none else k.register }
          else if x.seq = n.seq then { n with emboss := .matched, embossPos := some s.wpu.le } else x } } t)) ∧
  ∀ (r : Recipe) (c : Erc) (e : Int),
    (c.mode = .acquire →
      (r.wLock < e.natAbs → c.count r e = { c with lockRun := 0 }) ∧
      (e.natAbs ≤ r.wLock → c.lockRun < 3 → c.count r e = { c with lockRun := c.lockRun + 1 }) ∧
      (e.natAbs ≤ r.wLock → c.lockRun = 3 → c.count r e = { c with mode := .locked, lockRun := 0, lossRun := 0 })) ∧
    (c.mode = .locked →
      (e.natAbs ≤ r.wCap → c.count r e = { c with lossRun := 0 }) ∧
      (r.wCap < e.natAbs → c.lossRun < 2 → c.count r e = { c with lossRun := c.lossRun + 1 }) ∧
      (r.wCap < e.natAbs → c.lossRun = 2 → c.count r e = { c with mode := .acquire, lockRun := 0, lossRun := 0 }))

/-- R10, R46: in SYNC a mark shorter than the window of its eligible record is spurious, at the emboss point and at the
knife point: SPURIOUS_MARK is logged with the length, the last accepted capture returns, no record changes. -/
def Obligations.ShortMarksAreSpurious : Prop :=
  ∀ (run : RunState) (r : Recipe) (s : State) (p : Capture) (k : RepeatRecord) (m : Nat),
    (run = .running ∨ run = .draining) →
    (Accepted s .em run r → s.rt.emboss.mode = .sync → s.wpu.em.last = some p →
      (s.rt.queue.filter fun x => x.emboss == .awaiting).head? = some k → m = (s.wpu.le - p.pos).toNat →
      m + (embossWindow r s.ps.setup k).tol < (embossWindow r s.ps.setup k).ref →
      exec (.markCapture .em) s = .next
        { logEvent s ⟨.spuriousMark, .emboss, some k.seq, none, none, extraNat m⟩ with
          wpu := { s.wpu with em := { s.wpu.em with spurious := min 65535 (s.wpu.em.spurious + 1) } } }) ∧
    (Accepted s .cm run r → s.rt.knife.mode = .sync → s.wpu.cm.last = some p → s.rt.queue.head? = some k →
      m = (s.wpu.le - p.pos).toNat → m + s.ps.setup.cTol < k.creditedLen r →
      exec (.markCapture .cm) s = .next
        { logEvent s ⟨.spuriousMark, .knife, some k.seq, none, none, extraNat m⟩ with
          wpu := { s.wpu with cm := { s.wpu.cm with spurious := min 65535 (s.wpu.cm.spurious + 1) } } })

/-- R10, R47 to R49, R51, R55, R66, R67, R73, R122, R41: a point in SYNC that takes a long mark which fits no skipped
record enters LOST and logs TRACK_LOST; in LOST every mark is taken, so that its capture stays the last accepted one,
the regain counter follows `TrackPoint.Follows`, and the third plausible mark in a row returns the point to SYNC and
logs TRACK_REGAINED. At the emboss point the record is UNTRACKED, and the ERC goes to HOLD at the loss and back to
ACQUIRE at the return, each change raising REGISTER. At the knife point the record is handed over, EMBOSS_MISSED logged
with extra 1 when it is still AWAITING (`State.handed`), and every decision on it is that of `HandsOver`: with no roll
building it goes to waste; a BUILDING roll receives TRACKING_FAULT at the loss and closes at the record, its END cut
queued or refused. A long mark in SYNC that fits one skipped record logs KNIFE_MISSED and hands both records over, the
skipped one on an estimated capture (R47, R55). The model's choices in this statement: EMBOSS_MISSED is logged in LOST
too (log entry 23); KNIFE_MISSED stands before every event of the skipped record's hand-over, the second record's
EMBOSS_MISSED after those, TRACK_REGAINED last, and ROLL_TABLE_LOW before the cuts (log entry 7); an end cut of drain
completion fires before DRAIN_COMPLETE (log entry 31), which carries extra 0 (log entry 33). -/
def Obligations.TrackingPointsAreLostAndRegained : Prop :=
  (∀ (run : RunState) (r : Recipe) (s : State) (p : Capture) (k : RepeatRecord) (rest : List RepeatRecord) (m : Nat)
    (w : Window),
    Accepted s .em run r → (run = .running ∨ run = .draining) → s.wpu.em.last = some p →
    m = (s.wpu.le - p.pos).toNat → w = embossWindow r s.ps.setup k → (s.rt.queue.map RepeatRecord.seq).Nodup →
    (s.rt.queue.filter fun x => x.emboss == .awaiting) = k :: rest →
    (s.rt.emboss.mode = .sync → w.Loses (rest.head?.map fun n => embossWindow r s.ps.setup n) m →
      ∃ t, exec (.markCapture .em) s = .next t ∧ t.rt.emboss = ⟨.lost, 0⟩ ∧ t.rt.knife = s.rt.knife ∧
        t.rt.queue = (s.rt.queue.map fun x => if x.seq = k.seq then k.untracked s.wpu.le else x) ∧
        t.events = (logEvent s ⟨.trackLost, .emboss, some k.seq, none, none, extraNat m⟩).events ∧
        t.erc = (if s.erc.mode = .acquire ∨ s.erc.mode = .locked then
          { s.erc with mode := .hold, lockRun := 0, lossRun := 0 } else s.erc) ∧
        t.wpu = { s.wpu with em := { s.wpu.em with last := some ⟨s.wpu.le, some s.wpu.ca⟩ } } ∧
        t.sc = (logEvent s ⟨.trackLost, .emboss, some k.seq, none, none, extraNat m⟩).sc ∧
        (∀ port, t.ports.get port = (s.ports.get port).gaining (noticeEvent |||
          if s.erc.mode = .acquire ∨ s.erc.mode = .locked then noticeRegister else 0)) ∧
        t.batches = s.batches ∧ t.rb = s.rb ∧ t.ks = s.ks ∧ t.ld = s.ld ∧ t.ps = s.ps) ∧
    (∀ q, s.rt.emboss.mode = .lost → s.rt.emboss.Follows q (w.Contains m) →
      ∃ t, exec (.markCapture .em) s = .next t ∧ t.rt.emboss = q ∧ t.rt.knife = s.rt.knife ∧
        t.rt.queue = (s.rt.queue.map fun x => if x.seq = k.seq then k.untracked s.wpu.le else x) ∧
        t.events = (if q.mode = .sync then
          (logEvent s ⟨.trackRegained, .emboss, some k.seq, none, none, 0⟩).events else s.events) ∧
        t.erc = (if q.mode = .sync ∧ s.erc.mode = .hold then { s.erc with mode := .acquire, lockRun := 0 } else s.erc) ∧
        t.wpu = { s.wpu with em := { s.wpu.em with last := some ⟨s.wpu.le, some s.wpu.ca⟩ } } ∧ t.sc = s.sc ∧
        (∀ port, t.ports.get port = (s.ports.get port).gaining (if q.mode = .sync then
          noticeEvent ||| (if s.erc.mode = .hold then noticeRegister else 0) else 0)) ∧
        t.batches = s.batches ∧ t.rb = s.rb ∧ t.ks = s.ks ∧ t.ld = s.ld ∧ t.ps = s.ps)) ∧
  (∀ (r : Recipe) (s u : State) (p : Capture) (k : RepeatRecord) (rest : List RepeatRecord) (m : Nat) (w : Window),
    (Accepted s .cm .running r ∨ Accepted s .cm .draining r) → s.rt.queue = k :: rest → k.knifeMissed = false →
    NoStrayReach s → s.wpu.cm.last = some p → m = (s.wpu.le - p.pos).toNat →
    w = ⟨k.creditedLen r, s.ps.setup.cTol⟩ →
    (s.rt.knife.mode = .sync → w.Loses (rest.head?.map fun n => ⟨n.creditedLen r, s.ps.setup.cTol⟩) m →
      u = (logEvent s ⟨.trackLost, .knife, some k.seq, none, none, extraNat m⟩).atKnife ⟨.lost, 0⟩ →
      (s.BuildsNone → exec (.markCapture .cm) s = .next (u.wasted r k s.wpu.le).settled) ∧
      (∀ x q, s.Builds x →
        s.ks.Queues ⟨r.fireAt s.wpu.le (k.creditedLen r) x.phase, .ends x.serial, .waste, false⟩ q →
        exec (.markCapture .cm) s = .next
          (freeTestOf ((u.closed r k s.wpu.le x.faulted q.pos).placed q) k.shade).settled) ∧
      (∀ v, HandsOver r u.trackFaulted { k with untrackedAtKnife := true } s.wpu.le v →
        exec (.markCapture .cm) s = .next v.settled)) ∧
    (∀ q, s.rt.knife.mode = .lost → s.rt.knife.Follows q (w.Contains m) → s.BuildsNone →
      u = ((s.atKnife q).wasted r k s.wpu.le).settled →
      exec (.markCapture .cm) s = .next (if q.mode = .sync then
        logEvent u ⟨.trackRegained, .knife, some k.seq, none, none, 0⟩ else u)) ∧
    (∀ q v, s.rt.knife.mode = .lost → s.rt.knife.Follows q (w.Contains m) →
      HandsOver r (s.atKnife q) { k with untrackedAtKnife := true } s.wpu.le v →
      exec (.markCapture .cm) s = .next (if q.mode = .sync then
        logEvent v.settled ⟨.trackRegained, .knife, some k.seq, none, none, 0⟩ else v.settled)) ∧
    (∀ n rest' v, s.rt.knife.mode = .sync → rest = n :: rest' → w.Skips ⟨n.creditedLen r, s.ps.setup.cTol⟩ m →
      s.BuildsNone → u = (logEvent s ⟨.knifeMissed, .knife, some k.seq, none, none, 0⟩).atKnife s.rt.knife →
      v = u.wasted r k (s.wpu.le - BitVec.ofNat 32 (n.creditedLen r)) →
      (n.isGood = false → exec (.markCapture .cm) s = .next (v.wasted r n s.wpu.le).settled) ∧
      ∀ z, HandsOver r v n s.wpu.le z → exec (.markCapture .cm) s = .next z.settled))

/-! ### The emboss register controller -/

/-- R69: the repeat angle of the recipe and the angle offset: congruent to CA − A_t, from −P ÷ 2 to P ÷ 2 − 1, exactly
half a repeat angle read as negative. The emboss error is the offset scaled by the circumference and rounded (R70). -/
def Obligations.AngleOffsetIsTheNearestTarget : Prop :=
  ∀ (r : Recipe) (ca : Angle) (per : Int),
    per = (match r.kc with
      | .one => 16384
      | .two => 8192
      | .four => 4096) →
    r.repeatAngle = per ∧ (∃ n : Int, angleOffset r ca = (ca.toNat : Int) - r.aT + n * per) ∧
    -(per / 2) ≤ angleOffset r ca ∧ angleOffset r ca ≤ per / 2 - 1 ∧
    angleOffset { r with aT := r.aT % per.toNat } ca = angleOffset r ca ∧
    embossError r ca = roundDiv (angleOffset r ca * r.cc) 16384

/-- R74 to R77: the trim law: deadband, clamp, integral, output and slew, each within its limits; the run counters and
the state are left. The scaled output is the sum over 256 rounded to the nearest, halves away from zero. -/
def Obligations.TrimLawOfOneRecord : Prop :=
  ∀ (r : Recipe) (c : Erc) (e e' ec i v u : Int),
    e' = (if (e.natAbs : Int) ≤ r.db then 0 else if 0 < e then e - r.db else e + r.db) →
    ec = max (-2047) (min 2047 e') → i = max (-8191) (min 8191 (c.integral + ec)) → v = r.kp * ec + r.ki * i →
    u = max (-127) (min 127 (if 0 ≤ v then (2 * v + 256) / 512 else -((-2 * v + 256) / 512))) →
    c.trim r e = { c with
      integral := i
      lastOutput := max (c.lastOutput - r.sl) (min (c.lastOutput + r.sl) u)
      pendingDuty := (128 + max (c.lastOutput - r.sl) (min (c.lastOutput + r.sl) u)).toNat } ∧
    (e' ≠ 0 → (0 < e' ↔ 0 < e)) ∧ (r.kp ≤ 255 → r.ki ≤ 255 → -2610690 ≤ v ∧ v ≤ 2610690) ∧
    (-127 ≤ c.lastOutput → c.lastOutput ≤ 127 →
      1 ≤ (c.trim r e).pendingDuty ∧ (c.trim r e).pendingDuty ≤ 255)

/-! ### Cut marks and rolls -/

/-- R41, R44, R45, R54, R116, R118, R120 to R123, R131 to R133, R142, R144: a cut mark matched to the head of the queue,
in SEEKING or plausible in SYNC, takes the point into SYNC and hands the record over. Outside a roll a record that is
not good goes to waste. A BUILDING roll that has reached L_ord, or meets a record that is not good or of another batch,
closes: it is ENDING with its class, its END cut is queued at the fire position of its phase, and the record is trim or,
if it is not good, waste. With 4 cuts queued the END cut is refused: KNIFE_OVERRUN is logged, and the roll becomes HELD
with CUT_FAULT or, a REMNANT, leaves the table. Last comes the drain completion test (R24), whose order of events (log
entry 31) and extra of DRAIN_COMPLETE (log entry 33) are the model's choices. -/
def Obligations.CutMarkSendsABadRecordToWaste : Prop :=
  ∀ (r : Recipe) (s u : State) (k : RepeatRecord), MatchedAtKnife s r k → u = s.atKnife ⟨.sync, s.rt.knife.regain⟩ →
    (s.BuildsNone → k.isGood = false → exec (.markCapture .cm) s = .next (u.wasted r k s.wpu.le).settled) ∧
    (∀ x, s.Builds x → ClosesAt r k x → x.LeavesTrim r ∨ k.isGood = false →
      (∀ q, s.ks.Queues ⟨r.fireAt s.wpu.le (k.creditedLen r) x.phase, .ends x.serial, .waste, false⟩ q →
        exec (.markCapture .cm) s = .next
          (freeTestOf ((u.closed r k s.wpu.le x q.pos).placed q) k.shade).settled) ∧
      (∀ pos v, 4 ≤ s.ks.queue.length → pos = r.fireAt s.wpu.le (k.creditedLen r) x.phase →
        v = u.closed r k s.wpu.le x pos → ∃ t, exec (.markCapture .cm) s = .next t ∧
        t.ks = s.ks ∧ t.ps = s.ps ∧ t.erc = s.erc ∧ t.rt = v.rt ∧ t.rb.segment = v.rb.segment ∧
        (x.closeClass r ≠ .remnant → t.ld = s.ld ∧
          t.rb = { v.rb with rolls := s.rb.rolls.map fun y => if y.serial = x.serial then
            { x with
              state := .held
              cls := some (x.closeClass r)
              endPos := some pos
              hold := { x.hold with cutFault := true } } else y } ∧
          t.events = (logEvent v ⟨.knifeOverrun, .knife, none, some x.serial, none, pos.setWidth 16⟩).events) ∧
        (x.closeClass r = .remnant → t.ld = s.ld ∧
          t.rb = { v.rb with rolls := s.rb.rolls.filter fun y => decide (y.serial ≠ x.serial) } ∧
          t.events = (logEvent (logEvent v ⟨.knifeOverrun, .knife, none, some x.serial, none, pos.setWidth 16⟩)
            ⟨.remnantCut, .knife, some x.lastSeq, some x.serial, some x.batch, 2⟩).events)))

/-- R47, R54, R55, R116 to R121: records folded into a BUILDING roll below L_ord. A good record of the roll's batch, at
a cut mark that is matched, is folded and the segment stays. At a cut mark that fits one skipped record, KNIFE_MISSED is
logged; the skipped record is folded with TRACKING_FAULT, or closes a roll that has reached L_ord; and the record
matched is then folded, or closes the roll. The last clause says the same of every decision on either record
(`HandsOver`), among them a start at the record matched and a cut refused with 4 queued. The order of events is the
model's choice: KNIFE_MISSED before every event of the skipped record's hand-over (EMBOSS_MISSED, KNIFE_OVERRUN,
CUT_LATE, REMNANT_CUT), the second record's EMBOSS_MISSED after those, ROLL_TABLE_LOW before the cuts (log entry 7), and
an end cut of drain completion before DRAIN_COMPLETE (log entry 31), which carries extra 0 (log entry 33). -/
def Obligations.CutMarksFoldRecordsIntoTheRoll : Prop :=
  (∀ (r : Recipe) (s : State) (k : RepeatRecord) (x : Roll), MatchedAtKnife s r k → s.Builds x → x.length < r.lOrd →
    k.isGood = true → k.shade = .batch x.batch → exec (.markCapture .cm) s = .next
      ((s.atKnife ⟨.sync, s.rt.knife.regain⟩).folded r k s.wpu.le (x.grown r k)).settled) ∧
  (∀ (r : Recipe) (s u : State) (p : Capture) (k n : RepeatRecord) (rest : List RepeatRecord) (m : Nat) (x : Roll)
    (c : Word),
    (Accepted s .cm .running r ∨ Accepted s .cm .draining r) → s.rt.queue = k :: n :: rest → n.knifeMissed = false →
    NoStrayReach s → s.rt.knife.mode = .sync → s.wpu.cm.last = some p → m = (s.wpu.le - p.pos).toNat →
    Window.Skips ⟨k.creditedLen r, s.ps.setup.cTol⟩ ⟨n.creditedLen r, s.ps.setup.cTol⟩ m →
    c = s.wpu.le - BitVec.ofNat 32 (n.creditedLen r) → s.Builds x →
    u = (logEvent s ⟨.knifeMissed, .knife, some k.seq, none, none, 0⟩).atKnife s.rt.knife →
    (∀ y, x.length < r.lOrd → y = (x.grown r k).faulted →
      (y.length < r.lOrd → n.isGood = true → n.shade = .batch x.batch → exec (.markCapture .cm) s = .next
        ((u.folded r k c y).folded r n s.wpu.le (y.grown r n)).settled) ∧
      (∀ q, ClosesAt r n y → y.LeavesTrim r ∨ n.isGood = false →
        s.ks.Queues ⟨r.fireAt s.wpu.le (n.creditedLen r) y.phase, .ends y.serial, .waste, false⟩ q →
        exec (.markCapture .cm) s = .next
          (freeTestOf (((u.folded r k c y).closed r n s.wpu.le y q.pos).placed q) n.shade).settled)) ∧
    (∀ q, r.lOrd ≤ x.length → n.isGood = false →
      s.ks.Queues ⟨r.fireAt c (k.creditedLen r) x.phase, .ends x.serial, .waste, false⟩ q →
      exec (.markCapture .cm) s = .next
        ((freeTestOf ((u.closed r k c x.faulted q.pos).placed q) k.shade).wasted r n s.wpu.le).settled)) ∧
  ∀ (r : Recipe) (s u v w : State) (p : Capture) (k n : RepeatRecord) (rest : List RepeatRecord) (c : Word),
    (Accepted s .cm .running r ∨ Accepted s .cm .draining r) → s.rt.queue = k :: n :: rest → NoStrayReach s →
    s.rt.knife.mode = .sync → s.wpu.cm.last = some p →
    Window.Skips ⟨k.creditedLen r, s.ps.setup.cTol⟩ ⟨n.creditedLen r, s.ps.setup.cTol⟩ (s.wpu.le - p.pos).toNat →
    c = s.wpu.le - BitVec.ofNat 32 (n.creditedLen r) →
    u = (logEvent s ⟨.knifeMissed, .knife, some k.seq, none, none, 0⟩).atKnife s.rt.knife →
    HandsOver r u { k with knifeMissed := true } c v → HandsOver r v n s.wpu.le w →
    exec (.markCapture .cm) s = .next w.settled

/-- R112, R125, R126, R128 to R132, R175, R181: a good record that is decided outside a roll, at a cut mark that is
matched. It starts a roll when the table has room, the look-ahead allows it and the roll counter is not exhausted
(`State.Starts`): outside a roll a START cut is queued; where another roll closes at the record, one END_START cut at
the same phase, an END cut and a START cut otherwise. Refused, it goes to waste with the event of the refusal
(`State.RefusesStart`), and a roll that closes at it has its END cut. The last clauses say the same of every decision on
a matched record, with any number of cuts queued (`HandsOver`), and that there always is one where the segment names the
BUILDING roll or none and the reserved roll counter is known; a start after a skip is in CutMarksFoldRecordsIntoTheRoll.
The order of events is the model's choice: ROLL_TABLE_LOW before the hand-over's cuts (log entry 7), an end cut of drain
completion before DRAIN_COMPLETE (log entry 31), which carries extra 0 (log entry 33). -/
def Obligations.CutMarkStartsARoll : Prop :=
  ∀ (r : Recipe) (s u : State) (k : RepeatRecord), MatchedAtKnife s r k → u = s.atKnife ⟨.sync, s.rt.knife.regain⟩ →
    (∀ code c, s.Starts r k code c →
      (∀ q, s.BuildsNone →
        s.ks.Queues ⟨r.fireAt s.wpu.le (k.creditedLen r) (s.rb.nextPhase r), .starts (c.roll + 1), .roll, false⟩ q →
        exec (.markCapture .cm) s = .next
          (freeTestOf (((u.handed r k s.wpu.le).begun r k code c q.pos).placed q) k.shade).settled) ∧
      (∀ x q v, s.Builds x → ClosesAt r k x → ¬x.LeavesTrim r → v = u.closed r k s.wpu.le x q.pos →
        v.rb.nextPhase r = x.phase →
        s.ks.Queues ⟨r.fireAt s.wpu.le (k.creditedLen r) x.phase, .endStart x.serial (c.roll + 1), .roll, false⟩ q →
        exec (.markCapture .cm) s = .next (freeTestOf ((v.begun r k code c q.pos).placed q) k.shade).settled) ∧
      (∀ x q p v w, s.Builds x → ClosesAt r k x → ¬x.LeavesTrim r → v = u.closed r k s.wpu.le x q.pos →
        v.rb.nextPhase r ≠ x.phase →
        s.ks.Queues ⟨r.fireAt s.wpu.le (k.creditedLen r) x.phase, .ends x.serial, .waste, false⟩ q →
        w = (v.begun r k code c p.pos).placed q →
        w.ks.Queues
          ⟨r.fireAt s.wpu.le (k.creditedLen r) (v.rb.nextPhase r), .starts (c.roll + 1), .roll, false⟩ p →
        exec (.markCapture .cm) s = .next (freeTestOf (w.placed p) k.shade).settled)) ∧
    (∀ ev, s.RefusesStart r k ev →
      (∀ v, s.BuildsNone → v = u.handed r k s.wpu.le → exec (.markCapture .cm) s = .next
        (freeTestOf (State.logged { v with rb := { v.rb with segment := .waste } } ev) k.shade).settled) ∧
      (∀ x q, s.Builds x → ClosesAt r k x → ¬x.LeavesTrim r →
        s.ks.Queues ⟨r.fireAt s.wpu.le (k.creditedLen r) x.phase, .ends x.serial, .waste, false⟩ q →
        exec (.markCapture .cm) s = .next
          (freeTestOf (((u.closed r k s.wpu.le x q.pos).logged ev).placed q) k.shade).settled)) ∧
    (∀ v, HandsOver r u k s.wpu.le v → exec (.markCapture .cm) s = .next v.settled) ∧
    ∀ n, (s.BuildsNone ∨ ∃ x, s.Builds x) → s.ps.reserved = some n → n.roll ≤ 4294967295 →
      (∀ y ∈ s.rb.rolls, y.serial ≤ n.roll) → ∃ v, HandsOver r u k s.wpu.le v

/-! ### The knife -/

/-- R147, R149, R150: an acknowledge with no cut outstanding is logged KNIFE_LATE_ACK and changes nothing else. One that
finds a START cut completes it: KNIFE_REQ negated, DIVERT set, CUT raised, the KNIFE reference cleared when the cut was
on time; then a reached head fires and the drain completion test is made (`State.released`), in the order of log entry
31, DRAIN_COMPLETE with the extra of log entry 33. -/
def Obligations.AcknowledgeCompletesAStartCut : Prop :=
  ∀ s : State,
    (s.ks.outstanding = none → exec .knifeAck s = .next (logEvent s ⟨.knifeLateAck, .knife, none, none, none, 0⟩)) ∧
    (∀ o n, s.ks.outstanding = some o → o.cut.kind = .starts n → NoStrayReach s →
      exec .knifeAck s = .next (State.released
        { s with
          ks := { s.ks with outstanding := none, knifeReq := false, divert := o.cut.dest }
          events := if o.late then s.events else s.events.putRef .knife false
          ports := s.ports.map fun q => q.raise noticeCut }))

/-- R143, R147, R155, R157, R158, R168: the acknowledge of an END or END_START cut completes its ENDING roll: a REMNANT
leaves the table with REMNANT_CUT logged; a FULL or SHORT roll becomes HELD when it carries a hold flag, and otherwise
CLOSED at the tail of the label order, ready at once when it is the head and its codes are persisted. The notices raised
are CUT, and EVENT with BATCH when the batch is freed, HELD, or LABEL when a head becomes ready. The KNIFE reference is
cleared when the cut was on time; then a reached head fires and the drain completion test is made (`State.released`), in
the order of log entry 31, DRAIN_COMPLETE with the extra of log entry 33. -/
def Obligations.AcknowledgeCompletesTheEndingRoll : Prop :=
  ∀ (s : State) (o : Outstanding) (n : Nat) (x : Roll), s.ks.outstanding = some o →
    (o.cut.kind = .ends n ∨ ∃ m, o.cut.kind = .endStart n m) → NoStrayReach s →
    s.findRoll n = some x → x.state = .ending → (s.rb.rolls.map Roll.serial).Nodup →
    ∃ (u : State) (ev : LineEvents), exec .knifeAck s = .next u.released ∧
      u.ks = { s.ks with outstanding := none, knifeReq := false, divert := o.cut.dest } ∧
      u.events = (if o.late then ev else ev.putRef .knife false) ∧
      u.rt = s.rt ∧ u.erc = s.erc ∧ u.ps = s.ps ∧ u.wpu = s.wpu ∧ u.sc.session = s.sc.session ∧
      (∀ q, u.ports.get q = (s.ports.get q).gaining (noticeCut |||
        if x.cls = some .remnant then
          noticeEvent ||| (if u.batches.length < s.batches.length then noticeBatch else 0)
        else if x.hold.any then noticeHeld
        else if u.ld.headReady = s.ld.headReady then 0 else noticeLabel)) ∧
      (x.cls = some .remnant → u.rb = { s.rb with rolls := s.rb.rolls.filter fun y => decide (y.serial ≠ n) } ∧
        u.ld = s.ld ∧
        ev = (logEvent s ⟨.remnantCut, .knife, some x.lastSeq, some n, some x.batch, 0⟩).events ∧
        u.batches = freeSpent x.batch (s.batches.map fun b => if b.code = x.batch then
          { b with rolls := b.rolls - 1 } else b)) ∧
      (x.cls ≠ some .remnant → ev = s.events ∧ u.batches = s.batches) ∧
      (x.cls ≠ some .remnant → x.hold.any = true → u.ld = s.ld ∧
        u.rb = { s.rb with rolls := s.rb.rolls.map fun y => if y.serial = n then { x with state := .held } else y }) ∧
      (x.cls ≠ some .remnant → x.hold.any = false → u.ld.order = s.ld.order ++ [n] ∧
        u.ld.outstanding = s.ld.outstanding ∧
        (u.ld.headReady = true ↔ s.ld.headReady = true ∨ s.ld.order = [] ∧
          ∃ m, s.ps.mirror = some m ∧ x.batch ≤ m.batch ∧ n ≤ m.roll) ∧
        u.rb = { s.rb with rolls := s.rb.rolls.map fun y => if y.serial = n then { x with state := .closed } else y })

/-- R143, R148: the expiry of the knife wait timer fails the outstanding cut, of any kind: KNIFE_REQ is negated, DIVERT
follows, KNIFE_TIMEOUT is logged with the ending roll, or the starting roll where there is none, and T_knife, both rolls
gain CUT_FAULT, an ENDING roll becomes HELD or, a REMNANT, leaves the table with REMNANT_CUT logged with extra 1, and
CUT is raised (`State.cutFailed`); then a reached head fires and the drain completion test is made (`State.released`),
in the order of log entry 31, DRAIN_COMPLETE with the extra of log entry 33. For an END_START cut with a FULL or SHORT
ending roll all of it is written out. With no cut outstanding nothing happens (log entry 9). -/
def Obligations.TimeoutFailsTheOutstandingCut : Prop :=
  ∀ s : State,
    (s.ks.outstanding = none → exec .knifeTimeout s = .next s) ∧
    (∀ o, s.ks.outstanding = some o → NoStrayReach s → exec .knifeTimeout s = .next (State.released (State.cutFailed
      { s with ks := { s.ks with outstanding := none, knifeReq := false, divert := o.cut.dest } } o.cut
      ⟨.knifeTimeout, .knife, none, o.cut.kind.ending.or o.cut.kind.starting, none, extraNat o.tKnife⟩ 1))) ∧
    (∀ o n m x y, s.ks.outstanding = some o → o.cut.kind = .endStart n m → NoStrayReach s → n ≠ m →
      s.findRoll n = some x → s.findRoll m = some y →
      x.state = .ending → x.cls ≠ some .remnant → y.state = .building → (s.rb.rolls.map Roll.serial).Nodup →
      ∃ u : State, exec .knifeTimeout s = .next u.released ∧
        u.ks = { s.ks with outstanding := none, knifeReq := false, divert := o.cut.dest } ∧
        u.rb = { s.rb with rolls := s.rb.rolls.map fun z =>
          if z.serial = n then { x with state := .held, hold := { x.hold with cutFault := true } }
          else if z.serial = m then { y with hold := { y.hold with cutFault := true } } else z } ∧
        u.events = (logEvent s ⟨.knifeTimeout, .knife, none, some n, none, extraNat o.tKnife⟩).events ∧
        (∀ q, u.ports.get q = (s.ports.get q).gaining (noticeEvent ||| noticeHeld ||| noticeCut)) ∧
        u.rt = s.rt ∧ u.erc = s.erc ∧ u.batches = s.batches ∧ u.ld = s.ld ∧ u.ps = s.ps ∧ u.wpu = s.wpu ∧
        u.sc.session = s.sc.session)

/-- R81: at the end of a PWM period the applied duty takes the pending duty, and nothing else changes. -/
def Obligations.PeriodEndAppliesThePendingDuty : Prop :=
  ∀ s : State, exec .pwmPeriodEnd s = .next { s with erc := { s.erc with appliedDuty := s.erc.pendingDuty } }

/-! ### The store -/

/-- R181, R182, R174: the suspension of a write starts a commit attempt on the reserved counters, with commit-pending
cleared and the counter block invalid from then on (log entry 17); with no suspension due nothing happens (log entry 9).
-/
def Obligations.SuspensionStartsTheCommit : Prop :=
  ∀ s : State,
    (∀ w c, s.ps.op = .writing w true → s.ps.reserved = some c → exec .writeSuspend s = .next
      { s with ps := { s.ps with
          commitPending := false
          array := { s.ps.array with counters := none }
          op := .committingOver ⟨c, 0, false⟩ w } }) ∧
    ((∀ w, s.ps.op ≠ .writing w true) → exec .writeSuspend s = .next s)

/-- R177, R178, R184, R199: the end of a write: the content becomes valid when the comparison agreed and stays invalid
otherwise; the final status replaces the reply of the writing port while it is tied to the write, that is while it shows
PENDING (log entry 20), and STORE is raised there. With no commit waiting the store is IDLE; with commit-pending set or
a suspension due a commit series starts on the reserved counters, its block invalid (log entry 17). With no write
running nothing happens (log entry 9). -/
def Obligations.WriteEndsAndPostsItsOutcome : Prop :=
  ∀ (agrees : Bool) (s : State),
    (∀ w due st fin ports, s.ps.op = .writing w due →
      st = (if agrees then (if w.clamped then Status.doneClamped else .done) else .storeFailed) →
      fin = (if agrees then
        (match w.target with
          | .recipe i r => { s.ps with array := { s.ps.array with slots := s.ps.array.slots.set i (some r) } }
          | .setup u => { s.ps with array := { s.ps.array with setup := some u }, setupStored := true })
        else s.ps) →
      ports = s.ports.set w.port
        { s.ports.get w.port with
          slot := if (s.ports.get w.port).slot.status = .pending then
            { (s.ports.get w.port).slot with status := st, data := [] } else (s.ports.get w.port).slot
          raw := (s.ports.get w.port).raw ||| noticeStore } →
      (due = false → s.ps.commitPending = false → exec (.storeWriteEnd agrees) s = .next
        { s with ps := { fin with op := .idle }, ports := ports }) ∧
      (∀ c, due = true ∨ s.ps.commitPending = true → s.ps.reserved = some c → exec (.storeWriteEnd agrees) s = .next
        { s with
          ps := { fin with
            commitPending := false
            array := { fin.array with counters := none }
            op := .committing ⟨c, 0, false⟩ }
          ports := ports })) ∧
    ((∀ w b, s.ps.op ≠ .writing w b) → exec (.storeWriteEnd agrees) s = .next s)

/-- R158, R180, R182 to R184, R199: the end of a commit attempt. On success the mirror and the counter block take the
values written, the validity is VALID and the failure count 0, and the label head is ready, raising LABEL when it becomes
so, when its codes are no greater than the values written; the store then starts a new series, resumes the write, or is
IDLE. On the first or second failure a retry starts with the reserved counters. On the third STORE_FAIL is logged with
the failure count and commit-pending is set. The end of a series that SEED COUNTERS started is posted to Port F: the
final status replaces its reply while the slot is tied to the series (R199), that is while it shows PENDING (log entry
20), and STORE is raised there. The block is invalid while an attempt is in flight (log entry 17). With no attempt in
flight nothing happens (log entry 9). -/
def Obligations.CommitAttemptEnds : Prop :=
  (∀ (s : State) (agrees : Bool), s.ps.op.series? = none → exec (.commitAttemptEnd agrees) s = .next s) ∧
  ∀ (s : State) (c : CommitSeries) (held : Option StoreWrite) (res : Counters),
    s.ps.op = (match held with
      | none => StoreOp.committing c
      | some w => .committingOver c w) → s.ps.reserved = some res →
    (∃ t, exec (.commitAttemptEnd true) s = .next t ∧ t.ps.mirror = some c.values ∧ t.ps.validity = .valid ∧
      t.ps.failures = 0 ∧ t.ps.reserved = s.ps.reserved ∧ t.ps.commitPending = false ∧
      (s.ps.commitPending = false → t.ps.array.counters = some c.values ∧ t.ps.op = (match held with
        | none => StoreOp.idle
        | some w => .writing w false)) ∧
      (s.ps.commitPending = true → t.ps.array.counters = none ∧ t.ps.op = (match held with
        | none => StoreOp.committing ⟨res, 0, false⟩
        | some w => .committingOver ⟨res, 0, false⟩ w)) ∧
      (s.events.refs.store = false → t.events = s.events) ∧
      (s.events.refs.store = true →
        t.events = (logEvent s ⟨.storeRecovered, .store, none, none, none, 0⟩).events) ∧
      t.ld = { s.ld with headReady := t.ld.headReady } ∧
      (t.ld.headReady = true ↔ s.ld.headReady = true ∨ ∃ h y, s.ld.order.head? = some h ∧ s.findRoll h = some y ∧
        y.batch ≤ c.values.batch ∧ y.serial ≤ c.values.roll) ∧
      (∀ q p, p = (s.ports.get q).gaining ((if s.events.refs.store then noticeEvent else 0) |||
          if t.ld.headReady = s.ld.headReady then 0 else noticeLabel) →
        t.ports.get q = if c.seeded = true ∧ q = .portF then p.posted .done else p) ∧
      t.sc = s.sc ∧ t.wpu = s.wpu ∧ t.rt = s.rt ∧ t.erc = s.erc ∧ t.batches = s.batches ∧ t.rb = s.rb ∧ t.ks = s.ks) ∧
    (c.failures < 2 → exec (.commitAttemptEnd false) s = .next
      { s with ps := { s.ps with
          failures := min 255 (s.ps.failures + 1)
          array := { s.ps.array with counters := none }
          op := match held with
            | none => .committing ⟨res, c.failures + 1, c.seeded⟩
            | some w => .committingOver ⟨res, c.failures + 1, c.seeded⟩ w } }) ∧
    (2 ≤ c.failures → ∃ t, exec (.commitAttemptEnd false) s = .next t ∧
      t.ps = { s.ps with
        failures := min 255 (s.ps.failures + 1)
        commitPending := true
        op := match held with
          | none => .idle
          | some w => .writing w false } ∧
      t.events = (logEvent s
        ⟨.storeFail, .store, none, none, none, extraNat (min 255 (s.ps.failures + 1))⟩).events ∧
      (∀ q p, p = (s.ports.get q).gaining noticeEvent →
        t.ports.get q = if c.seeded = true ∧ q = .portF then p.posted .storeFailed else p) ∧
      t.wpu = s.wpu ∧ t.rt = s.rt ∧ t.erc = s.erc ∧ t.batches = s.batches ∧ t.rb = s.rb ∧ t.ks = s.ks ∧ t.ld = s.ld)

/-- R176: WRITE RECIPE on Ports P and Q: OUT_OF_RANGE, BUSY, or the write of the clamped recipe with its slot EMPTY from
the start (log entry 17) and PENDING in the reply slot; the structural fields are stored as sent, what the clamps do,
and the write is a clamped one exactly when a tuning field was out of its range. -/
def Obligations.WriteRecipeOutcomes : Prop :=
  ∀ (port : Port) (m : RecipeImage) (s : State), port ≠ .portF →
    (((∀ i : Fin 8, m.slot.toNat ≠ i.val + 1) ∨ ¬StructuralInRange m) → exec (.writeRecipe port m) s =
      .next (s.answered port (.writeRecipe port m) .outOfRange [])) ∧
    (∀ i : Fin 8, m.slot.toNat = i.val + 1 → StructuralInRange m → s.ps.op ≠ .idle → exec (.writeRecipe port m) s =
      .next (s.answered port (.writeRecipe port m) .busy [])) ∧
    (∀ i : Fin 8, m.slot.toNat = i.val + 1 → StructuralInRange m → s.ps.op = .idle → exec (.writeRecipe port m) s =
      .next (State.answered
        { s with ps := { s.ps with
            array := { s.ps.array with slots := s.ps.array.slots.set i none }
            op := .writing ⟨port, .recipe i (clampedRecipe m), recipeWasClamped m⟩ false } }
        port (.writeRecipe port m) .pending [])) ∧
    (StructuralInRange m → (clampedRecipe m).InRange) ∧
    ((clampedRecipe m).pattern = m.pattern ∧ (clampedRecipe m).rNom = m.rNom.toNat ∧
      (clampedRecipe m).rTol = m.rTol.toNat ∧ (clampedRecipe m).mode = (if m.drop then .drop else .straight) ∧
      (clampedRecipe m).drop16 = m.drop16.toNat ∧ (clampedRecipe m).phiCut = m.phiCut.toNat ∧
      (clampedRecipe m).lOrd = m.lOrd.toNat ∧ (clampedRecipe m).lShort = m.lShort.toNat ∧
      (clampedRecipe m).lookAhead = m.lookAhead ∧ (clampedRecipe m).emboss = m.emboss ∧
      (m.kcCode = 0 → (clampedRecipe m).kc = .one) ∧ (m.kcCode = 1 → (clampedRecipe m).kc = .two) ∧
      (m.kcCode = 2 → (clampedRecipe m).kc = .four) ∧ (clampedRecipe m).cc = m.cc.toNat ∧
      (clampedRecipe m).aT = m.aT.toNat ∧ (clampedRecipe m).kp = m.kp.toNat ∧ (clampedRecipe m).ki = m.ki.toNat) ∧
    (recipeWasClamped m = false ↔ m.db.toNat ≤ 63 ∧ 1 ≤ m.sl.toNat ∧ m.sl.toNat ≤ 127 ∧ 1 ≤ m.wLock.toNat ∧
      m.wLock.toNat ≤ 2047 ∧ m.wLock.toNat ≤ m.wCap.toNat ∧ m.wCap.toNat ≤ 20000 ∧ 1 ≤ m.eTol.toNat ∧
      m.eTol.toNat ≤ 2047 ∧ 10 ≤ m.t.toNat ∧ m.t.toNat ≤ 2000 ∧ 1 ≤ m.nLearn.toNat ∧ m.nLearn.toNat ≤ 16 ∧
      1 ≤ m.bSlots.toNat ∧ m.bSlots.toNat ≤ 4) ∧
    (clampedRecipe m).db = min 63 m.db.toNat ∧ (clampedRecipe m).sl = max 1 (min 127 m.sl.toNat) ∧
    (clampedRecipe m).wLock = max 1 (min 2047 m.wLock.toNat) ∧
    (clampedRecipe m).wCap = max (max 1 (min 2047 m.wLock.toNat)) (min 20000 m.wCap.toNat) ∧
    (clampedRecipe m).eTol = max 1 (min 2047 m.eTol.toNat) ∧ (clampedRecipe m).t = max 10 (min 2000 m.t.toNat) ∧
    (clampedRecipe m).nLearn = max 1 (min 16 m.nLearn.toNat) ∧
    (clampedRecipe m).bSlots = max 1 (min 4 m.bSlots.toNat)

/-- R178: WRITE SETUP on Port F: WRONG_STATE in a run, OUT_OF_RANGE for a group action beyond its list, BUSY, or the
clamped setup in force at once, its record invalid from the start (log entry 17), the setup-stored flag clear and
PENDING in the reply slot. -/
def Obligations.WriteSetupOutcomes : Prop :=
  ∀ (u : SetupArgs) (s : State),
    (s.sc.session.inRun = true → exec (.writeSetup .portF u) s =
      .next (s.answered .portF (.writeSetup .portF u) .wrongState [])) ∧
    (s.sc.session.inRun = false →
      (4 ≤ u.tracking.toNat ∨ 4 ≤ u.emboss.toNat ∨ 4 ≤ u.shade.toNat ∨ 4 ≤ u.roll.toNat ∨ 4 ≤ u.knife.toNat ∨
        4 ≤ u.store.toNat ∨ 4 ≤ u.session.toNat) → exec (.writeSetup .portF u) s =
      .next (s.answered .portF (.writeSetup .portF u) .outOfRange [])) ∧
    (∀ g, s.sc.session.inRun = false → setupGroups u = some g → s.ps.op ≠ .idle → exec (.writeSetup .portF u) s =
      .next (s.answered .portF (.writeSetup .portF u) .busy [])) ∧
    (∀ g v clamped, s.sc.session.inRun = false → setupGroups u = some g → s.ps.op = .idle →
      v = Setup.mk (min 50000 u.sMax.toNat) (max 1 (min 4000 u.cTol.toNat)) (max 5 (min 250 u.tKnife.toNat))
        (min 4000 u.lateTol.toNat) g →
      clamped = !(v.sMax == u.sMax.toNat && v.cTol == u.cTol.toNat && v.tKnife == u.tKnife.toNat &&
        v.lateTol == u.lateTol.toNat) →
      exec (.writeSetup .portF u) s = .next (State.answered
        { s with ps := { s.ps with
            setup := v
            setupStored := false
            array := { s.ps.array with setup := none }
            op := .writing ⟨.portF, .setup v, clamped⟩ false } } .portF (.writeSetup .portF u) .pending []))

/-- R180: SEED COUNTERS on Port F: WRONG_STATE while the validity is VALID, OUT_OF_RANGE above 16,777,215, BUSY, or the
reserved counters set and a commit started, its block invalid (log entry 17), with PENDING in the reply slot. -/
def Obligations.SeedCountersOutcomes : Prop :=
  ∀ (b n : BitVec 32) (s : State),
    (s.ps.validity = .valid → exec (.seedCounters .portF b n) s =
      .next (s.answered .portF (.seedCounters .portF b n) .wrongState [])) ∧
    (s.ps.validity = .invalid → 16777215 < b.toNat → exec (.seedCounters .portF b n) s =
      .next (s.answered .portF (.seedCounters .portF b n) .outOfRange [])) ∧
    (s.ps.validity = .invalid → b.toNat ≤ 16777215 → s.ps.op ≠ .idle → exec (.seedCounters .portF b n) s =
      .next (s.answered .portF (.seedCounters .portF b n) .busy [])) ∧
    (s.ps.validity = .invalid → b.toNat ≤ 16777215 → s.ps.op = .idle → exec (.seedCounters .portF b n) s =
      .next (State.answered
        { s with ps := { s.ps with
            reserved := some ⟨b.toNat, n.toNat⟩
            commitPending := false
            array := { s.ps.array with counters := none }
            op := .committing ⟨⟨b.toNat, n.toNat⟩, 0, true⟩ } } .portF (.seedCounters .portF b n) .pending []))

/-! ### Ports -/

/-- R201: READ STATUS shifts out 66 bytes that describe the state, then zeros, and changes nothing but the frame and SDO
of its port, which are recorded as log entry 13 says. -/
def Obligations.ReadStatusChangesNoBlock : Prop :=
  ∀ (port : Port) (clocked : List Byte) (s : State),
    exec (.readStatus port clocked) s = .next
      { s with
        ports := s.ports.set port
          { s.ports.get port with
            frame := 1 :: 0 :: clocked
            sdo := ([0, 0] ++ statusBytes s port ++ List.replicate clocked.length 0).take (clocked.length + 2) } } ∧
    (statusBytes s port).length = 66 ∧
    (statusBytes s port)[0]? = some s.sc.session.byte ∧
    (statusBytes s port)[3]? = some (s.wpu.pe.setWidth 8) ∧ (statusBytes s port)[7]? = some (s.wpu.le.setWidth 8) ∧
    (statusBytes s port)[21]? = some (BitVec.ofNat 8 s.erc.pendingDuty) ∧
    (statusBytes s port)[27]? = some (BitVec.ofNat 8 s.batches.length) ∧
    (statusBytes s port)[54]? = some (BitVec.ofNat 8 s.ps.failures) ∧
    (statusBytes s port)[64]? = some (s.ports.get port).raw ∧ (statusBytes s port)[65]? = some (s.ports.get port).enable

/-- R200: FETCH REPLY shifts the reply slot out; a frame that clocked the 5 header bytes clears reply-lost and marks a
reply that is not PENDING fetched; a shorter one changes neither. Two things are the model's choices: bits 2 to 7 of the
flags byte are sent as 0 (log entry 29), and the frame and SDO are recorded byte by byte (log entry 13). -/
def Obligations.FetchReplyShiftsTheSlotOut : Prop :=
  ∀ (port : Port) (clocked : List Byte) (s : State) (p : PortState) (out : List Byte), p = s.ports.get port →
    out = ([0, 0] ++ ([p.slot.status.byte, bitsByte [p.replyLost, p.slot.fetched], p.slot.code] ++
      leBytes 2 p.slot.data.length ++ p.slot.data) ++ List.replicate (clocked.length + 2) 0).take
        (clocked.length + 2) →
    exec (.fetchReply port clocked) s = .next
      { s with
        ports := s.ports.set port
          { p with
            frame := 2 :: 0 :: clocked
            sdo := out
            replyLost := if 5 ≤ clocked.length then false else p.replyLost
            slot := { p.slot with fetched :=
              if 5 ≤ clocked.length ∧ p.slot.status ≠ .pending then true else p.slot.fetched } } }

/-- R197, R26: a frame with no complete byte is ignored; a frame that the frame check rejects is answered BAD_FRAME and
clears the port's clear-armed flag, with no other effect; what the frame check rejects. The code in the reply and the
SDO record are the model's choice (log entry 13). -/
def Obligations.BadFramesAreAnswered : Prop :=
  ∀ (port : Port) (f : Frame) (s : State),
    (f.bytes = [] → exec (.badFrame port f) s = .next
      { s with ports := s.ports.set port { s.ports.get port with frame := [], sdo := [] } }) ∧
    (f.bytes ≠ [] → frameBad f = true → exec (.badFrame port f) s = .next
      { s with
        sc := { s.sc with clearArmed := s.sc.clearArmed.set port false }
        ports := s.ports.set port
          { s.ports.get port with
            frame := f.bytes
            sdo := malformedSdo s port f.bytes
            slot := ⟨.badFrame, f.bytes.headD 0, [], false⟩
            replyLost := (s.ports.get port).replyLost || !(s.ports.get port).slot.fetched ||
              (s.ports.get port).slot.status == .pending } }) ∧
    (f.bytes ≠ [] → (frameBad f = true ↔ f.bytes.length = 1 ∨ f.part = true ∨
      ∀ row ∈ catalogue, ∀ code n rest, f.bytes = code :: n :: rest →
        row.code ≠ code.toNat ∨ n.toNat ∉ row.lengths ∨
          (code.toNat ≠ 1 ∧ code.toNat ≠ 2 ∧ rest.length ≠ n.toNat)))

/-- R202: SET NOTICES replaces the enable set of its port and ACK NOTICES clears the named raw bits; both reply DONE and
change nothing else; ATTN is the overlap of the two sets. -/
def Obligations.NoticesAreSetAndAcknowledged : Prop :=
  ∀ (port : Port) (n : Byte) (s : State) (t : State),
    (t = s.answered port (.setNotices port n) .done [] → exec (.setNotices port n) s = .next
      { t with ports := t.ports.set port { t.ports.get port with enable := n } }) ∧
    (t = s.answered port (.ackNotices port n) .done [] → exec (.ackNotices port n) s = .next
      { t with ports := t.ports.set port { t.ports.get port with raw := (t.ports.get port).raw &&& ~~~n } }) ∧
    ((s.ports.get port).attn = true ↔ (s.ports.get port).raw &&& (s.ports.get port).enable ≠ 0)

/-- R198: a request on a port that the catalogue does not list for it is answered NOT_PERMITTED and has no other effect;
which requests are listed for which ports. -/
def Obligations.RequestsOnOtherPortsAreNotPermitted : Prop :=
  (∀ (i : Instr) (port : Port) (s : State), slotRequest i = some port → permitted (commandCode i) port = false →
    exec i s = .next (s.answered port i .notPermitted [])) ∧
  (∀ (i : Instr) (port : Port), slotRequest i = some port →
    (permitted (commandCode i) port = false ↔
      (commandCode i ∈ [16, 17, 18] ∧ port ≠ .portP) ∨ (commandCode i = 19 ∧ port = .portQ) ∨
      (commandCode i ∈ [24, 32] ∧ port = .portF) ∨ (commandCode i ∈ [26, 28] ∧ port ≠ .portF) ∨
      (commandCode i ∈ [33, 48, 49, 50] ∧ port ≠ .portQ)))

/-- R59, R107, R139, R186, R194: the seven reading requests change nothing but their port, and what each answers: READ
RECIPE OUT_OF_RANGE, BUSY, EMPTY_SLOT or the recipe, READ REPEAT NO_SUCH_REPEAT, TOO_LATE or the record, with the seq of
head and tail. The order of READ RECIPE's refusals (log entry 28), the bytes that the layouts leave open (log entries 15
and 29) and the reserved counters shown while the validity is INVALID (log entry 32) are the model's. -/
def Obligations.ReadRequestsChangeNoBlock : Prop :=
  ∀ (port : Port) (s : State),
    (∀ slot : Byte, (slot.toNat = 0 ∨ 8 < slot.toNat) → exec (.readRecipe port slot) s =
      .next (s.answered port (.readRecipe port slot) .outOfRange [])) ∧
    (∀ (slot : Byte) (n : Fin 8), slot.toNat = n.val + 1 →
      (s.ps.op ≠ .idle → exec (.readRecipe port slot) s =
        .next (s.answered port (.readRecipe port slot) .busy [])) ∧
      (s.ps.op = .idle → s.ps.array.slots[n] = none → exec (.readRecipe port slot) s =
        .next (s.answered port (.readRecipe port slot) .emptySlot [])) ∧
      (∀ r, s.ps.op = .idle → s.ps.array.slots[n] = some r → exec (.readRecipe port slot) s =
        .next (s.answered port (.readRecipe port slot) .done (recipeImageBytes (r.image slot.toNat))))) ∧
    exec (.readSetup port) s = .next (s.answered port (.readSetup port) .done
      (setupArgBytes s.ps.setup.args ++ [if s.ps.setupStored then 1 else 0])) ∧
    exec (.readCounters port) s = .next (s.answered port (.readCounters port) .done (counterBytes s.ps)) ∧
    (∀ seq, s.rt.queue = [] → exec (.readRepeat port seq) s =
      .next (s.answered port (.readRepeat port seq) .noSuchRepeat (leBytes 4 0 ++ leBytes 4 0))) ∧
    (∀ (seq : BitVec 32) h t span, s.headSeq = some h → s.tailSeq = some t → span = leBytes 4 h ++ leBytes 4 t →
      (seq.toNat < h → exec (.readRepeat port seq) s =
        .next (s.answered port (.readRepeat port seq) .tooLate span)) ∧
      (h ≤ seq.toNat → t < seq.toNat → exec (.readRepeat port seq) s =
        .next (s.answered port (.readRepeat port seq) .noSuchRepeat span)) ∧
      (∀ k, h ≤ seq.toNat → seq.toNat ≤ t → s.findRecord seq.toNat = some k → exec (.readRepeat port seq) s =
        .next (s.answered port (.readRepeat port seq) .done (k.bytes ++ span)))) ∧
    (∀ n, exec (.readRoll port (some n)) s = .next (s.answered port (.readRoll port (some n))
      (if n = 0 then .outOfRange else if (s.findRoll n.toNat).isSome then .done else .notFound)
      (if n = 0 then [] else ((s.findRoll n.toNat).map Roll.bytes).getD []))) ∧
    exec (.readRoll port none) s = .next (s.answered port (.readRoll port none) .done (rollList s)) ∧
    (∀ n, exec (.readBatch port (some n)) s = .next (s.answered port (.readBatch port (some n))
      (if n = 0 ∨ 16777215 < n.toNat then .outOfRange
        else if (s.findBatch n.toNat).isSome then .done else .notFound)
      (if n = 0 ∨ 16777215 < n.toNat then [] else ((s.findBatch n.toNat).map BatchEntry.bytes).getD []))) ∧
    exec (.readBatch port none) s = .next (s.answered port (.readBatch port none) .done (batchList s)) ∧
    (∀ start, exec (.readEvents port start) s =
      .next (s.answered port (.readEvents port start) .done (eventsData s.events start.toNat)))

/-! ### Sessions -/

/-- R26: CLEAR ARM sets the flag of its own port and replies DONE; every other request taken on a port, refused or not,
and every frame answered BAD_FRAME clears that port's flag and leaves the others; READ STATUS and FETCH REPLY leave all
flags; a CLEAR LINE carried out clears all flags, as device reset does. A CLEAR LINE without its own port's flag is
answered NOT_ARMED and has no other effect (R27). -/
def Obligations.ClearArmedFlagLastsOneRequest : Prop :=
  (∀ (port : Port) (s : State), exec (.clearArm port) s = .next
    { s.answered port (.clearArm port) .done [] with
      sc := { s.sc with clearArmed := s.sc.clearArmed.set port true } }) ∧
  (∀ (i : Instr) (port : Port) (s t : State), slotRequest i = some port → i ≠ .clearArm port → exec i s = .next t →
    t.sc.clearArmed.get port = false ∧
    (t.sc.clearArmed = s.sc.clearArmed.set port false ∨
      i = .clearLine port ∧ s.sc.clearArmed.get port = true ∧ s.sc.session ≠ .unloaded ∧
        t.sc.clearArmed = ⟨false, false, false⟩)) ∧
  (∀ (port : Port) (f : Frame) (s t : State), f.bytes ≠ [] → frameBad f = true → exec (.badFrame port f) s = .next t →
    t.sc.clearArmed = s.sc.clearArmed.set port false) ∧
  (∀ (port : Port) (clocked : List Byte) (s t : State),
    (exec (.readStatus port clocked) s = .next t ∨ exec (.fetchReply port clocked) s = .next t) →
    t.sc.clearArmed = s.sc.clearArmed) ∧
  (∀ (port : Port) (s t : State), exec (.clearLine port) s = .next t →
    (s.sc.clearArmed.get port = false → t = s.answered port (.clearLine port) .notArmed []) ∧
    (s.sc.clearArmed.get port = true → s.sc.session ≠ .unloaded → t.sc.clearArmed = ⟨false, false, false⟩)) ∧
  (∀ (cause : ResetCause) (landed : Bool) (s t : State), exec (.deviceReset cause landed) s = .next t →
    t.sc.clearArmed = ⟨false, false, false⟩)

/-- R31, R181: RESUME LINE clears the stop latch in every session state; with commit-pending clear or a commit in flight
nothing else changes; with commit-pending set and the store IDLE or WRITING it makes a commit request. The block of a
commit started is invalid (log entry 17), and its counters are free where they are unknown, which no run reaches (log
entry 5). -/
def Obligations.ResumeLineClearsTheStopLatch : Prop :=
  ∀ (port : Port) (s : State),
    exec (.resumeLine port) s = .next (State.answered
      { s with
        sc := { s.sc with stopLatch := false }
        ps := if s.ps.commitPending = false then s.ps else match s.ps.op with
          | .idle => { s.ps with
              commitPending := false
              array := { s.ps.array with counters := none }
              op := .committing ⟨s.ps.reservedNow, 0, false⟩ }
          | .writing w _ => { s.ps with op := .writing w true }
          | .committing _ => s.ps
          | .committingOver _ _ => s.ps } port (.resumeLine port) .done [])

/-- R27 to R29, R105: CLEAR LINE without its port's flag is answered NOT_ARMED, in UNLOADED WRONG_STATE; otherwise the
web in flight is removed, the session is ARMED, and what is kept stays: every batch that is not spent, CLOSED, with its
code, reference, last matched seq and rolls labelled (`State.batchesLeft`). That a batch CLOSED before is freed too is
the model's reading (log entry 22). -/
def Obligations.ClearLineRemovesTheWebInFlight : Prop :=
  ∀ (port : Port) (s : State),
    (s.sc.clearArmed.get port = false → exec (.clearLine port) s =
      .next (s.answered port (.clearLine port) .notArmed [])) ∧
    (s.sc.clearArmed.get port = true → s.sc.session = .unloaded → exec (.clearLine port) s =
      .next (s.answered port (.clearLine port) .wrongState [])) ∧
    (∀ run r, s.sc.clearArmed.get port = true → s.sc.session = .loaded run r →
      ∃ t, exec (.clearLine port) s = .next t ∧
        t.sc = { s.sc with
          session := .loaded .armed r, clearArmed := ⟨false, false, false⟩, stopLatch := t.sc.stopLatch } ∧
        (t.sc.stopLatch = s.sc.stopLatch) ∧
        t.rt = { s.rt with queue := [], emboss := ⟨.seeking, 0⟩, knife := ⟨.seeking, 0⟩ } ∧
        t.ks = ⟨[], none, false, .waste⟩ ∧ t.wpu = { s.wpu with reach := false } ∧
        t.rb = { s.rb with
          rolls := s.rb.rolls.filter fun x => !(x.state == .building || x.state == .ending)
          segment := .none, nextDrop := .a, pendingDrop := false } ∧
        t.erc = { s.erc with
          mode := .off, integral := 0, lastOutput := 0, lockRun := 0, lossRun := 0, pendingDuty := 128 } ∧
        t.batches = s.batchesLeft (s.rb.rolls.filter fun x => x.state == .building || x.state == .ending) ∧
        t.ld = s.ld ∧ t.ps = s.ps ∧
        t.events = (logEvent s ⟨.lineCleared, .line, none, none, none, extraNat s.rt.queue.length⟩).events ∧
        (∀ q, (t.ports.get q).raw = (s.ports.get q).raw ||| (noticeEvent ||| noticeCleared |||
          (if s.batches.any BatchEntry.active = true ∨ t.batches.length < s.batches.length then noticeBatch else 0) |||
          if s.erc.mode = .off then 0 else noticeRegister)) ∧
        (t.ports.get port).slot = ⟨.done, 10, [], false⟩)

/-- R20: LOAD RECIPE on Port P: the first condition that applies decides the reply; a VALID slot is loaded, the session
is ARMED and the ERC OFF. -/
def Obligations.LoadRecipeOutcomes : Prop :=
  ∀ (slot : Byte) (s : State) (i : Instr), i = .loadRecipe .portP slot →
    (s.sc.session.inRun = true → exec i s = .next (s.answered .portP i .wrongState [])) ∧
    (s.sc.session.inRun = false →
      ((slot.toNat = 0 ∨ 8 < slot.toNat) → exec i s = .next (s.answered .portP i .outOfRange [])) ∧
      (∀ n : Fin 8, slot.toNat = n.val + 1 →
        (s.ps.validity = .invalid → exec i s = .next (s.answered .portP i .storeFailed [])) ∧
        (s.ps.validity = .valid → s.ps.op ≠ .idle → exec i s = .next (s.answered .portP i .busy [])) ∧
        (s.ps.validity = .valid → s.ps.op = .idle → s.ps.array.slots[n] = none →
          exec i s = .next (s.answered .portP i .emptySlot [])) ∧
        (∀ r, s.ps.validity = .valid → s.ps.op = .idle → s.ps.array.slots[n] = some r →
          exec i s = .next (State.answered
            { s with
              sc := { s.sc with session := .loaded .armed r }
              erc := { s.erc with
                mode := .off, integral := 0, lastOutput := 0, lockRun := 0, lossRun := 0, pendingDuty := 128 }
              ports := if s.erc.mode = .off then s.ports else s.ports.map fun q => q.raise noticeRegister }
            .portP i .done []))))

/-- R21, R23, R24, R134: START RUN is accepted in ARMED with nothing queued or outstanding and sets the run up; END RUN
in RUNNING goes to DRAINING, and with nothing queued or outstanding the drain completes at once, as `State.drained`
says: a BUILDING roll becomes ENDING with its class and its END cut is queued, the batches close, the ERC goes OFF, the
session is ARMED and DRAIN_COMPLETE is logged; elsewhere both are answered WRONG_STATE. That an end cut already reached
fires, and is logged CUT_LATE, before DRAIN_COMPLETE (log entry 31) and that DRAIN_COMPLETE carries extra 0 (log entry
33) are the model's choices. -/
def Obligations.RunsAreStartedAndEnded : Prop :=
  ∀ s : State,
    (∀ r, s.sc.session = .loaded .armed r → s.rt.queue = [] → s.ks.queue = [] → s.ks.outstanding = none →
      exec (.startRun .portP) s = .next (State.answered
        { s with
          sc := { s.sc with session := .loaded .running r, nextSeq := 1, seqSpent := false }
          rt := { s.rt with leaderNext := true, emboss := ⟨.seeking, 0⟩, knife := ⟨.seeking, 0⟩ }
          erc := if r.emboss then { s.erc with mode := .acquire } else s.erc
          rb := { s.rb with segment := .none, nextDrop := .a, pendingDrop := false }
          ports := if r.emboss ∧ s.erc.mode ≠ .acquire then s.ports.map fun q => q.raise noticeRegister else s.ports }
        .portP (.startRun .portP) .done [])) ∧
    (((∀ r, s.sc.session ≠ .loaded .armed r) ∨ s.rt.queue ≠ [] ∨ s.ks.queue ≠ [] ∨ s.ks.outstanding ≠ none) →
      exec (.startRun .portP) s = .next (s.answered .portP (.startRun .portP) .wrongState [])) ∧
    (∀ r, s.sc.session = .loaded .running r → (s.rt.queue ≠ [] ∨ s.ks.queue ≠ [] ∨ s.ks.outstanding ≠ none) →
      exec (.endRun .portP) s = .next (State.answered
        { s with sc := { s.sc with session := .loaded .draining r } } .portP (.endRun .portP) .done [])) ∧
    (∀ r, s.sc.session = .loaded .running r → s.rt.queue = [] → s.ks.queue = [] → s.ks.outstanding = none →
      NoStrayReach s → exec (.endRun .portP) s = .next (State.answered
        (State.drained { s with sc := { s.sc with session := .loaded .draining r } } r)
        .portP (.endRun .portP) .done [])) ∧
    ((∀ r, s.sc.session ≠ .loaded .running r) →
      exec (.endRun .portP) s = .next (s.answered .portP (.endRun .portP) .wrongState []))

/-- R25, R135: FLUSH RUN on Ports P and F: WRONG_STATE outside DRAINING; in DRAINING the queue is emptied, the roll
closes without an end cut as SHORT and HELD with CUT_FAULT or leaves the table, the batches close, the ERC goes OFF, the
session is ARMED, RUN_FLUSHED is logged, and EVENT, BATCH, HELD and REGISTER are raised as the changes ask; the Knife
Queue, the tracking points and the last hand-over stay. Every batch that is not spent stays, CLOSED, with its code,
reference, last matched seq and rolls labelled (`State.batchesLeft`); a batch spent before, which no run reaches, is not
spoken of. -/
def Obligations.FlushRunEndsTheDrain : Prop :=
  ∀ (port : Port) (s : State), port ≠ .portQ →
    ((∀ r, s.sc.session ≠ .loaded .draining r) → exec (.flushRun port) s =
      .next (s.answered port (.flushRun port) .wrongState [])) ∧
    (∀ r, s.sc.session = .loaded .draining r → ∃ t, exec (.flushRun port) s = .next t ∧
      t.sc.session = .loaded .armed r ∧ t.sc.nextSeq = s.sc.nextSeq ∧ t.rt = { s.rt with queue := [] } ∧
      t.ks = s.ks ∧ t.ld = s.ld ∧ t.ps = s.ps ∧ t.wpu = s.wpu ∧
      t.rb.segment = .none ∧ t.rb.pendingDrop = false ∧ t.rb.nextDrop = s.rb.nextDrop ∧
      t.rb.lastHandOver = s.rb.lastHandOver ∧ (∀ b ∈ t.batches, b.active = false) ∧
      t.erc = { s.erc with
        mode := .off, integral := 0, lastOutput := 0, lockRun := 0, lossRun := 0, pendingDuty := 128 } ∧
      ((∀ n, s.rb.segment ≠ .roll n) → t.rb.rolls = s.rb.rolls ∧
        t.events = (logEvent s ⟨.runFlushed, .line, none, none, none, extraNat s.rt.queue.length⟩).events) ∧
      ((s.batches.map BatchEntry.code).Nodup → (∀ b ∈ s.batches, b.isSpent = false) →
        ((∀ n, s.rb.segment ≠ .roll n) → t.batches = s.batchesLeft []) ∧
        (∀ n x, s.rb.segment = .roll n → s.findRoll n = some x →
          t.batches = s.batchesLeft (if x.length < r.lShort then [x] else []))) ∧
      (∀ n x, s.rb.segment = .roll n → s.findRoll n = some x → (s.rb.rolls.map Roll.serial).Nodup →
        t.events = (logEvent s ⟨.runFlushed, .line, none, some n, none, extraNat s.rt.queue.length⟩).events ∧
        (x.length < r.lShort → t.rb.rolls = s.rb.rolls.filter fun y => decide (y.serial ≠ n)) ∧
        (r.lShort ≤ x.length → t.rb.rolls = s.rb.rolls.map fun y => if y.serial = n then
          { x with state := .held, cls := some .short, hold := { x.hold with cutFault := true } } else y)) ∧
      (∀ q, (t.ports.get q).raw = (s.ports.get q).raw ||| (noticeEvent |||
        (if s.batches.any BatchEntry.active = true ∨ t.batches.length < s.batches.length then noticeBatch else 0) |||
        (if s.erc.mode = .off then 0 else noticeRegister) |||
        match s.rb.segment with
        | .roll n => (match s.findRoll n with
          | some x => if r.lShort ≤ x.length then noticeHeld else 0
          | none => 0)
        | .none | .waste | .awaitA => 0)) ∧
      (t.ports.get port).slot = ⟨.done, 19, [], false⟩)

/-! ### Reports -/

/-- R57, R58: REPORT DEFECT on Ports P and Q: OUT_OF_RANGE, NO_SUCH_REPEAT, TOO_LATE, or the defect applied to the named
record: listed while fewer than 4 are, counted as overflow otherwise, and major set by a MAJOR severity. -/
def Obligations.ReportDefectOutcomes : Prop :=
  ∀ (port : Port) (seq : BitVec 32) (kind sev : Byte) (cross : BitVec 16) (s : State) (i : Instr), port ≠ .portF →
    i = .reportDefect port seq kind sev cross →
    ((4 ≤ kind.toNat ∨ 2 ≤ sev.toNat ∨ (2000 < cross.toNat ∧ cross.toNat ≠ 65535)) →
      exec i s = .next (s.answered port i .outOfRange [])) ∧
    (∀ d, defectOf kind sev cross = some d →
      d.kind.byte = kind ∧ d.severity.byte = sev ∧
      d.cross = (if cross.toNat = 65535 then none else some cross.toNat) ∧
      (s.rt.queue = [] → exec i s = .next (s.answered port i .noSuchRepeat [])) ∧
      (∀ h t, s.headSeq = some h → s.tailSeq = some t →
        (seq.toNat < h → exec i s = .next (s.answered port i .tooLate [])) ∧
        (h ≤ seq.toNat → t < seq.toNat → exec i s = .next (s.answered port i .noSuchRepeat [])) ∧
        (h ≤ seq.toNat → seq.toNat ≤ t → exec i s = .next (State.answered
          { s with rt := { s.rt with queue := s.rt.queue.map fun k => if k.seq = seq.toNat then
            { k with
              defects := if k.defects.length < 4 then k.defects ++ [d] else k.defects
              overflow := if k.defects.length < 4 then k.overflow else min 255 (k.overflow + 1)
              major := k.major || d.severity == .major } else k } } port i .done []))))

/-- R86, R87, R90 to R99: SHADE REPORT on Port Q: the ranges of a reading, the refusals in their order, and a reading
taken: the reading and the verdict stand in the record, and the reply carries the verdict and the state of its batch.
The winner counts the record and takes its seq; a LEARNING one takes the reading into its mean, and is OPEN from N_learn
readings on. With no winner a batch is opened on a newly reserved code, after slot closure (`SlotCleared`, which is
R96's reading, log entry 24), unless the counter is exhausted or the table full as it stands (log entry 26): then the
verdict is NO_BATCH. That a report on a record whose hand-over completed the drain is WRONG_STATE, as any other outside
a run, is the model's choice (log entry 30). -/
def Obligations.ShadeReportOutcomes : Prop :=
  ∀ (seq : BitVec 32) (l a b : BitVec 16) (s : State) (i : Instr), i = .shadeReport .portQ seq l a b →
    (readingOf l a b = if 10000 < l.toNat ∨ a.toInt < -12800 ∨ 12799 < a.toInt ∨ b.toInt < -12800 ∨ 12799 < b.toInt then
      none else some ⟨l.toNat, a.toInt, b.toInt⟩) ∧
    (s.sc.session.inRun = false → exec i s = .next (s.answered .portQ i .wrongState [])) ∧
    (s.sc.session.inRun = true → readingOf l a b = none → exec i s = .next (s.answered .portQ i .outOfRange [])) ∧
    (∀ x, s.sc.session.inRun = true → readingOf l a b = some x → s.rt.queue = [] →
      exec i s = .next (s.answered .portQ i .noSuchRepeat [])) ∧
    (∀ x h t, s.sc.session.inRun = true → readingOf l a b = some x → s.headSeq = some h → s.tailSeq = some t →
      (seq.toNat < h → exec i s = .next (s.answered .portQ i .tooLate [])) ∧
      (h ≤ seq.toNat → t < seq.toNat → exec i s = .next (s.answered .portQ i .noSuchRepeat [])) ∧
      (∀ k, h ≤ seq.toNat → seq.toNat ≤ t → s.findRecord seq.toNat = some k → k.reading.isSome = true →
        exec i s = .next (s.answered .portQ i .alreadyReported [])) ∧
      (∀ k r, h ≤ seq.toNat → seq.toNat ≤ t → s.findRecord seq.toNat = some k → k.reading = none →
        s.sc.session.recipe? = some r → (s.batches.map BatchEntry.code).Nodup →
        (∀ e, winner s.batches x r.t = some e → s.findBatch e.code = some e →
          (e.state = .opened → exec i s = .next (State.answered
            { s with
              rt := { s.rt with queue := s.rt.queue.map fun y => if y.seq = seq.toNat then
                { y with reading := some x, shade := .batch e.code } else y }
              batches := s.batches.map fun y => if y.code = e.code then
                { e with queued := e.queued + 1, lastSeq := seq.toNat } else y }
            .portQ i .done (leBytes 4 e.code ++ [1]))) ∧
          (∀ sums n z, e.state = .learning sums n → z = Lab.mk (sums.l + x.l) (sums.a + x.a) (sums.b + x.b) →
            exec i s = .next (State.answered
            { s with
              rt := { s.rt with queue := s.rt.queue.map fun y => if y.seq = seq.toNat then
                { y with reading := some x, shade := .batch e.code } else y }
              batches := s.batches.map fun y => if y.code = e.code then
                { e with
                  queued := e.queued + 1
                  lastSeq := seq.toNat
                  reference := ⟨roundDiv z.l (n + 1), roundDiv z.a (n + 1), roundDiv z.b (n + 1)⟩
                  state := if r.nLearn ≤ n + 1 then .opened else .learning z (n + 1) } else y
              ports := if r.nLearn ≤ n + 1 then s.ports.map fun q => q.raise noticeBatch else s.ports }
            .portQ i .done (leBytes 4 e.code ++ [if r.nLearn ≤ n + 1 then 1 else 0])))) ∧
        (∀ c, winner s.batches x r.t = none → s.ps.reserved = some c →
          (c.batch = 16777215 → exec i s = .next (State.answered
            { logEvent s ⟨.counterExhausted, .store, some seq.toNat, none, none, 0⟩ with
              rt := { s.rt with queue := s.rt.queue.map fun y => if y.seq = seq.toNat then
                { y with reading := some x, shade := .noBatch } else y } }
            .portQ i .done (leBytes 4 16777216 ++ [0]))) ∧
          (∀ u, c.batch < 16777215 → SlotCleared s r u →
            (16 ≤ u.batches.length → exec i s = .next (State.answered
              { logEvent u ⟨.batchTableFull, .quality, some seq.toNat, none, none, 16⟩ with
                rt := { s.rt with queue := s.rt.queue.map fun y => if y.seq = seq.toNat then
                  { y with reading := some x, shade := .noBatch } else y } }
              .portQ i .done (leBytes 4 16777216 ++ [0]))) ∧
            (∀ v, u.batches.length < 16 → (∀ y ∈ u.batches, y.code ≤ c.batch) →
              v = logEvent
                { u with
                  ps := u.ps.reservedTo { c with batch := c.batch + 1 }
                  batches := u.batches ++ [{
                    code := c.batch + 1
                    state := if r.nLearn ≤ 1 then .opened else .learning x 1
                    reference := x
                    lastSeq := seq.toNat
                    queued := 1
                    rolls := 0
                    labelled := 0 }] }
                ⟨.batchOpened, .quality, some seq.toNat, none, some (c.batch + 1), extraNat (u.batches.length + 1)⟩ →
              exec i s = .next (State.answered
                { v with
                  ports := v.ports.map fun q => q.raise noticeBatch
                  rt := { s.rt with queue := s.rt.queue.map fun y => if y.seq = seq.toNat then
                    { y with reading := some x, shade := .batch (c.batch + 1) } else y } }
                .portQ i .done (leBytes 4 (c.batch + 1) ++ [if r.nLearn ≤ 1 then 1 else 0])))))))

/-- R89, R90: the winner among the batches is a LEARNING or OPEN one within the tolerance, none nearer, and none as near
with a smaller code; there is none exactly when no such batch lies within the tolerance. -/
def Obligations.NearestBatchWins : Prop :=
  ∀ (bs : List BatchEntry) (x : Lab) (t : Nat),
    (∀ e, winner bs x t = some e → e ∈ bs ∧ e.active = true ∧
      (x.l - e.reference.l) ^ 2 + (x.a - e.reference.a) ^ 2 + (x.b - e.reference.b) ^ 2 ≤ (t : Int) ^ 2 ∧
      ∀ y ∈ bs, y.active = true → x.dist2 y.reference ≤ (t : Int) ^ 2 →
        x.dist2 e.reference ≤ x.dist2 y.reference ∧
        (x.dist2 e.reference = x.dist2 y.reference → e.code ≤ y.code)) ∧
    (winner bs x t = none ↔ ∀ y ∈ bs, y.active = true → (t : Int) ^ 2 < x.dist2 y.reference)

/-! ### Labels -/

/-- R163, R164: GET LABEL on Port Q: the outstanding label again, NO_LABEL, NOT_READY with the head's serial, or the
head's label, which becomes outstanding. -/
def Obligations.GetLabelOutcomes : Prop :=
  ∀ s : State,
    (∀ n x, s.ld.outstanding = some n → s.findRoll n = some x → exec (.getLabel .portQ) s =
      .next (s.answered .portQ (.getLabel .portQ) .done x.label)) ∧
    (s.ld.outstanding = none → s.ld.order = [] → exec (.getLabel .portQ) s =
      .next (s.answered .portQ (.getLabel .portQ) .noLabel [])) ∧
    (∀ n, s.ld.outstanding = none → s.ld.order.head? = some n → s.ld.headReady = false → exec (.getLabel .portQ) s =
      .next (s.answered .portQ (.getLabel .portQ) .notReady (leBytes 4 n))) ∧
    (∀ n x, s.ld.outstanding = none → s.ld.order.head? = some n → s.ld.headReady = true → s.findRoll n = some x →
      exec (.getLabel .portQ) s = .next (State.answered { s with ld := { s.ld with outstanding := some n } }
        .portQ (.getLabel .portQ) .done x.label))

/-- R103, R158, R165, R166: LABEL DONE on Port Q: the refusals, and the removal of the outstanding label's roll: it
leaves the order and the table, its batch counts it labelled and is tested for freeing, raising BATCH when freed, and
the new head is tested, raising LABEL when ready; the reply. -/
def Obligations.LabelDoneOutcomes : Prop :=
  ∀ (n : BitVec 32) (s : State) (i : Instr), i = .labelDone .portQ n →
    (n.toNat = 0 → exec i s = .next (s.answered .portQ i .outOfRange [])) ∧
    (n.toNat ≠ 0 → s.ld.outstanding ≠ some n.toNat → exec i s = .next (s.answered .portQ i .notFound [])) ∧
    (∀ x, n.toNat ≠ 0 → s.ld.outstanding = some n.toNat → s.findRoll n.toNat = some x →
      ∃ t, exec i s = .next t ∧
        t.rb = { s.rb with rolls := s.rb.rolls.filter fun y => decide (y.serial ≠ n.toNat) } ∧
        t.ld.order = s.ld.order.tail ∧ t.ld.outstanding = none ∧
        (t.ld.headReady = true ↔ ∃ h y m, s.ld.order.tail.head? = some h ∧ t.findRoll h = some y ∧
          s.ps.mirror = some m ∧ y.batch ≤ m.batch ∧ y.serial ≤ m.roll) ∧
        t.batches = freeSpent x.batch (s.batches.map fun c => if c.code = x.batch then
          { c with rolls := c.rolls - 1, labelled := min 4294967295 (c.labelled + 1) } else c) ∧
        (∀ q, (t.ports.get q).raw = (s.ports.get q).raw ||| ((if t.ld.headReady then noticeLabel else 0) |||
          if t.batches.length < s.batches.length then noticeBatch else 0)) ∧
        t.rt = s.rt ∧ t.ks = s.ks ∧ t.ps = s.ps ∧ t.erc = s.erc ∧ t.events = s.events ∧ t.wpu = s.wpu ∧
        (t.ports.get .portQ).slot.status = .done ∧
        (∀ c, s.findBatch x.batch = some c → (t.ports.get .portQ).slot.data =
          leBytes 4 n.toNat ++ leBytes 3 x.batch ++ leBytes 4 (min 4294967295 (c.labelled + 1)) ++
            leBytes 1 s.ld.order.tail.length))

/-- R158, R169 to R171: ROLL DISPOSITION on Port Q: the refusals in their order; ACCEPT closes the HELD roll at the tail
of the label order, ready at once, with LABEL raised, when it is the head and its codes are persisted, and answers its
place; VOID removes it, its batch counting one roll less and tested for freeing, and logs ROLL_VOIDED with its hold
flags. That a roll whose LABEL DONE was taken before is answered NOT_FOUND, as any other that is absent (R169), where
R167 says WRONG_STATE, is the model's choice (log entry 27). -/
def Obligations.RollDispositionOutcomes : Prop :=
  ∀ (n : BitVec 32) (d : Byte) (s : State) (i : Instr), i = .rollDisposition .portQ n d →
    ((n.toNat = 0 ∨ 2 ≤ d.toNat) → exec i s = .next (s.answered .portQ i .outOfRange [])) ∧
    (n.toNat ≠ 0 → d.toNat < 2 → s.findRoll n.toNat = none → exec i s = .next (s.answered .portQ i .notFound [])) ∧
    (∀ x, n.toNat ≠ 0 → d.toNat < 2 → s.findRoll n.toNat = some x →
      (x.state ≠ .held → exec i s = .next (s.answered .portQ i .wrongState [])) ∧
      (x.state = .held → d = 0 → (s.rb.rolls.map Roll.serial).Nodup → ∃ t, exec i s = .next t ∧
        t.rb = { s.rb with rolls := s.rb.rolls.map fun y => if y.serial = n.toNat then
          { x with state := .closed, accepted := true } else y } ∧
        t.ld.order = s.ld.order ++ [n.toNat] ∧ t.ld.outstanding = s.ld.outstanding ∧
        (t.ld.headReady = true ↔ s.ld.headReady = true ∨ s.ld.order = [] ∧
          ∃ m, s.ps.mirror = some m ∧ x.batch ≤ m.batch ∧ x.serial ≤ m.roll) ∧
        (∀ q, (t.ports.get q).raw = (s.ports.get q).raw ||| if t.ld.headReady = s.ld.headReady then 0 else noticeLabel) ∧
        (t.ports.get .portQ).slot = ⟨.done, 50, leBytes 1 (s.ld.order.length + 1), false⟩ ∧
        t.rt = s.rt ∧ t.ks = s.ks ∧ t.ps = s.ps ∧ t.erc = s.erc ∧ t.events = s.events ∧ t.batches = s.batches) ∧
      (x.state = .held → d = 1 → ∃ t, exec i s = .next t ∧
        t.rb = { s.rb with rolls := s.rb.rolls.filter fun y => decide (y.serial ≠ n.toNat) } ∧
        t.events = (logEvent s ⟨.rollVoided, .label, some x.lastSeq, some n.toNat, some x.batch,
          BitVec.ofNat 16 ((if x.hold.cutFault then 1 else 0) + (if x.hold.offMatch then 2 else 0) +
            (if x.hold.trackingFault then 4 else 0))⟩).events ∧
        t.batches = freeSpent x.batch (s.batches.map fun b => if b.code = x.batch then
          { b with rolls := b.rolls - 1 } else b) ∧
        (∀ q, (t.ports.get q).raw = (s.ports.get q).raw ||| (noticeEvent |||
          if t.batches.length < s.batches.length then noticeBatch else 0)) ∧
        (t.ports.get .portQ).slot = ⟨.done, 50, [], false⟩ ∧
        t.rt = s.rt ∧ t.ks = s.ks ∧ t.ps = s.ps ∧ t.erc = s.erc ∧ t.ld = s.ld))

/-! ### Events -/

/-- R187, R190, R191: one logging: the count, the entry with its number, LE and effective action, its place, the station
reference and the stop latch by the action, and EVENT on all three ports; nothing else. -/
def Obligations.LoggingAnEvent : Prop :=
  ∀ (s : State) (r : EventReport) (e : EventEntry) (act : Action),
    act = effectiveAction r.code (s.ps.setup.groups.get r.code.group) →
    e = ⟨min 4294967295 (s.events.total + 1), s.wpu.le, r.station, r.code.group, r.code, act, r.seq, r.serial, r.batch,
      r.extra⟩ →
    (logEvent s r).events.total = e.number ∧
    (s.events.entries.length < 40 → (logEvent s r).events.entries = s.events.entries ++ [e] ∧
      (logEvent s r).events.discarded = s.events.discarded) ∧
    (s.events.entries.length = 40 →
      (logEvent s r).events.entries = s.events.entries.take 8 ++ s.events.entries.drop 9 ++ [e] ∧
      (logEvent s r).events.discarded = min 4294967295 (s.events.discarded + 1)) ∧
    (r.code.isRecovery = false →
      (act = .note → (logEvent s r).events.refs = s.events.refs ∧ (logEvent s r).sc = s.sc) ∧
      (act ≠ .note → (logEvent s r).events.refs.get r.station = true ∧ (logEvent s r).events.summary = true) ∧
      (act = .stop → (logEvent s r).sc = { s.sc with stopLatch := true }) ∧
      (act = .flag → (logEvent s r).sc = s.sc)) ∧
    (r.code.isRecovery = true → (logEvent s r).events.refs.get r.station = false ∧ (logEvent s r).sc = s.sc) ∧
    (∀ st, st ≠ r.station → (logEvent s r).events.refs.get st = s.events.refs.get st) ∧
    (∀ q, (logEvent s r).ports.get q = { s.ports.get q with raw := (s.ports.get q).raw ||| 1 }) ∧
    (logEvent s r).wpu = s.wpu ∧ (logEvent s r).rt = s.rt ∧ (logEvent s r).erc = s.erc ∧
    (logEvent s r).batches = s.batches ∧ (logEvent s r).rb = s.rb ∧ (logEvent s r).ks = s.ks ∧
    (logEvent s r).ld = s.ld ∧ (logEvent s r).ps = s.ps ∧ (logEvent s r).pending = s.pending

/-- R189: the effective action by the native action and the group's action; under NATIVE a code takes its default
action, which is its native action but for ROLL_TABLE_LOW (R188). -/
def Obligations.EffectiveActionOfAnEvent : Prop :=
  ∀ (c : EventCode) (g : GroupAction),
    (c.nativeAction = .note → effectiveAction c g = .note) ∧
    (c.nativeAction ≠ .note →
      effectiveAction c .stop = .stop ∧ effectiveAction c .flag = .flag ∧ effectiveAction c .note = .note ∧
      effectiveAction c .native = c.defaultAction) ∧
    (c ≠ .rollTableLow → c.defaultAction = c.nativeAction) ∧
    EventCode.rollTableLow.nativeAction = .flag ∧ EventCode.rollTableLow.defaultAction = .stop

/-- R193: CLEAR EVENTS empties the table, zeroes both counts, clears the seven references and the summary, and leaves
the stop latch and the raw notices; the next event logged is number 1 and joins the retained part. -/
def Obligations.ClearEventsEmptiesTheTable : Prop :=
  ∀ (port : Port) (s : State),
    exec (.clearEvents port) s = .next (State.answered
      { s with events := ⟨[], 0, 0, ⟨false, false, false, false, false, false, false⟩, false⟩ }
      port (.clearEvents port) .done []) ∧
    ∀ t r, exec (.clearEvents port) s = .next t →
      ((logEvent t r).events.entries.map EventEntry.number) = [1]

/-! ### Headline results -/

/-- A request's frame is decoded to the request: for every request of the catalogue, the frame of its bytes passes the
frame check and spells exactly that request, with every operand at every value. That BAD_FRAME with such a frame is
executed as the request is the model's choice (log entry 14). -/
def Obligations.FrameOfARequestSpellsIt : Prop :=
  (∀ (i : Instr) (port : Port), slotRequest i = some port →
    frameBad ⟨requestBytes i, false⟩ = false ∧ requestOfFrame port (requestBytes i) = some i ∧
    ∀ s, exec (.badFrame port ⟨requestBytes i, false⟩) s = exec i s) ∧
  (∀ (port : Port) (clocked : List Byte),
    frameBad ⟨1 :: 0 :: clocked, false⟩ = false ∧ frameBad ⟨2 :: 0 :: clocked, false⟩ = false ∧
    requestOfFrame port (1 :: 0 :: clocked) = some (.readStatus port clocked) ∧
    requestOfFrame port (2 :: 0 :: clocked) = some (.fetchReply port clocked))

/-- Every step keeps the laws of the ERC: the ranges of the integral, the output, the duties and the runs, and that it
controls exactly in a run with emboss enabled and holds exactly while the emboss point is LOST. -/
def Obligations.EveryStepKeepsTheRegisterLaws : Prop := KeptByStep ErcSound

/-- Every step keeps the laws of the event table: min (total, 40) entries, the first 8 and the latest 32 numbers, the
discarded count, and the summary as the OR of the references. -/
def Obligations.EveryStepKeepsTheEventLaws : Prop := KeptByStep EventsSound

/-- Every step keeps the laws of the Repeat Queue and of its records: at most 512, consecutive seq up to the last given,
none outside a run, the AWAITING ones newest, and the presence of fields by status. -/
def Obligations.EveryStepKeepsTheQueueLaws : Prop := KeptByStep fun s => QueueSound s ∧ RecordsSound s

/-- Every step keeps the laws of the knife: at most 4 cuts in order, KNIFE_REQ with the outstanding cut, and no cut that
is reached and could fire left waiting. -/
def Obligations.EveryStepKeepsTheKnifeLaws : Prop := KeptByStep KnifeSound

/-- Every step keeps the laws of the store: the counters of mirror, block, series and reservation, the contents being
written, and every recipe and setup within its ranges. -/
def Obligations.EveryStepKeepsTheStoreLaws : Prop :=
  KeptByStep fun s => CountersSound s ∧ WritesSound s ∧ FieldsInRange s

/-- Every step from a sound state keeps the laws of the Roll Table and the Batch Table: capacities, keys, the one
BUILDING roll, and the counts of each batch as the numbers of records and rolls that name it. -/
def Obligations.EveryStepKeepsTheTableLaws : Prop :=
  ∀ s t, Sound s → step s = .next t → RollsSound t ∧ BatchesSound t

/-- Every step from a sound state keeps the laws of labels and roll states: the label order is the CLOSED rolls, the
head-ready indication says that the head's codes are persisted, and every ENDING roll waits for a cut. -/
def Obligations.EveryStepKeepsTheLabelLaws : Prop :=
  ∀ s t, Sound s → step s = .next t → LabelsSound t ∧ RollStatesSound t

/-- R163, R175, R185: GET LABEL hands out a label only for a roll whose batch code and serial are persisted; and a
device reset at any time, whatever was in flight, leaves the reserved counters unknown or at least at the codes of the
label that was outstanding, so that these are not issued again. -/
def Obligations.OutstandingLabelCodesSurviveAReset : Prop :=
  (∀ s t, Sound s → exec (.getLabel .portQ) s = .next t → (t.ports.get .portQ).slot.status = .done →
    ∃ n x m, t.ld.outstanding = some n ∧ s.findRoll n = some x ∧ s.ps.mirror = some m ∧ x.batch ≤ m.batch ∧
      x.serial ≤ m.roll) ∧
  (∀ s t cause landed n x, Sound s → s.ld.outstanding = some n → s.findRoll n = some x →
    exec (.deviceReset cause landed) s = .next t → ∀ c ∈ t.ps.reserved, x.batch ≤ c.batch ∧ x.serial ≤ c.roll)
end

