-- ==== Sys2Proof/Laws/Arith.lean ====
section
/-! SUPPORT. What the arithmetic operations and the keyed tables do. -/

namespace Sys2Proof.Machine

/-! ### Limits -/

theorem clampInt_ge (lo hi x : Int) : lo ≤ clampInt lo hi x := by
  unfold clampInt
  omega

theorem clampInt_le (lo hi x : Int) (h : lo ≤ hi) : clampInt lo hi x ≤ hi := by
  unfold clampInt
  omega

theorem clampInt_inside (lo hi x : Int) (h : lo ≤ x) (h' : x ≤ hi) : clampInt lo hi x = x := by
  unfold clampInt
  omega

theorem clampNat_ge (lo hi x : Nat) : lo ≤ clampNat lo hi x := by
  unfold clampNat
  omega

theorem clampNat_le (lo hi x : Nat) (h : lo ≤ hi) : clampNat lo hi x ≤ hi := by
  unfold clampNat
  omega

theorem clampNat_inside (lo hi x : Nat) (h : lo ≤ x) (h' : x ≤ hi) : clampNat lo hi x = x := by
  unfold clampNat
  omega

theorem satAdd_le (limit x n : Nat) : satAdd limit x n ≤ limit := by
  unfold satAdd
  omega

theorem satAdd_below (limit x n : Nat) (h : x + n ≤ limit) : satAdd limit x n = x + n := by
  unfold satAdd
  omega

/-! ### Positions -/

theorem signedDistance_self (p : Word) : signedDistance p p = 0 := by
  simp [signedDistance]

theorem isReached_self (p : Word) : isReached p p = true := by
  simp [isReached, signedDistance_self]

theorem lengthFrom_self (p : Word) : lengthFrom p p = 0 := by
  simp [lengthFrom]

theorem lengthFrom_add (p : Word) (n : Nat) (h : n < 2 ^ 32) : lengthFrom p (p + BitVec.ofNat 32 n) = n := by
  unfold lengthFrom
  have h1 : p + BitVec.ofNat 32 n - p = BitVec.ofNat 32 n := by
    rw [BitVec.add_comm]
    exact BitVec.add_sub_cancel _ _
  rw [h1]
  simpa using h

/-! ### Rounding -/

theorem roundDiv_exact (q : Int) (d : Nat) (h : d ≠ 0) : roundDiv (q * d) d = q := by
  unfold roundDiv
  rw [if_neg h]
  have hd : (0 : Int) < d := by omega
  have key : ∀ x : Int, (2 * (x * d) + d) / (2 * d) = x := by
    intro x
    have e : 2 * (x * d) + (d : Int) = d + x * (2 * d) := by ring
    rw [e, Int.add_mul_ediv_right _ _ (by omega), Int.ediv_eq_zero_of_lt (by omega) (by omega)]
    omega
  split
  · exact key q
  · have e : -(q * (d : Int)) = -q * d := by ring
    rw [e, key]
    omega

/-! ### Keyed tables -/

section
variable {α : Type} (key : α → Nat)

@[simp] theorem length_updateBy (k : Nat) (f : α → α) (l : List α) : (updateBy key k f l).length = l.length := by
  simp [updateBy]

@[simp] theorem updateBy_nil (k : Nat) (f : α → α) : updateBy key k f [] = [] := rfl

theorem map_key_updateBy (k : Nat) (f : α → α) (h : ∀ x, key (f x) = key x) (l : List α) :
    (updateBy key k f l).map key = l.map key := by
  unfold updateBy
  rw [List.map_map]
  apply List.map_congr_left
  intro x _
  simp only [Function.comp_apply]
  split <;> simp [h]

theorem mem_updateBy (k : Nat) (f : α → α) (l : List α) (y : α) :
    y ∈ updateBy key k f l ↔ ∃ x ∈ l, y = if key x = k then f x else x := by
  simp only [updateBy, List.mem_map]
  exact ⟨fun ⟨x, hx, h⟩ => ⟨x, hx, h.symm⟩, fun ⟨x, hx, h⟩ => ⟨x, hx, h.symm⟩⟩

theorem mem_eraseBy (k : Nat) (l : List α) (y : α) : y ∈ eraseBy key k l ↔ y ∈ l ∧ key y ≠ k := by
  simp [eraseBy]

theorem mem_insertBy (x y : α) (l : List α) : y ∈ insertBy key x l ↔ y = x ∨ y ∈ l := by
  induction l with
  | nil => simp [insertBy]
  | cons z l ih =>
    unfold insertBy
    split
    · simp
    · simp [ih]
      tauto

@[simp] theorem length_insertBy (x : α) (l : List α) : (insertBy key x l).length = l.length + 1 := by
  induction l with
  | nil => rfl
  | cons z l ih =>
    unfold insertBy
    split <;> simp [ih]

theorem length_eraseBy_le (k : Nat) (l : List α) : (eraseBy key k l).length ≤ l.length := List.length_filter_le _ _

theorem findBy_mem (k : Nat) (l : List α) (x : α) (h : findBy key k l = some x) : x ∈ l ∧ key x = k := by
  refine ⟨List.mem_of_find?_eq_some h, ?_⟩
  have := List.find?_some h
  simpa using this

theorem findBy_none (k : Nat) (l : List α) : findBy key k l = none ↔ ∀ x ∈ l, key x ≠ k := by
  simp [findBy]

/-- Entries inserted above every key keep a table in rising order. -/
theorem pairwise_insertBy (x : α) (l : List α) (hl : l.Pairwise fun a b => key a < key b)
    (hx : ∀ y ∈ l, key y < key x) : (insertBy key x l).Pairwise fun a b => key a < key b := by
  induction l with
  | nil => simp [insertBy]
  | cons z l ih =>
    have hz : ¬ key x < key z := by
      have := hx z (by simp)
      omega
    unfold insertBy
    rw [if_neg hz]
    rw [List.pairwise_cons] at hl ⊢
    refine ⟨?_, ih hl.2 fun y hy => hx y (by simp [hy])⟩
    intro y hy
    rcases (mem_insertBy key x y l).1 hy with rfl | h
    · exact hx z (by simp)
    · exact hl.1 y h

theorem pairwise_updateBy (k : Nat) (f : α → α) (h : ∀ x, key (f x) = key x) (l : List α)
    (hl : l.Pairwise fun a b => key a < key b) : (updateBy key k f l).Pairwise fun a b => key a < key b := by
  have e : l.map key = (updateBy key k f l).map key := (map_key_updateBy key k f h l).symm
  have h1 : (l.map key).Pairwise (· < ·) := List.pairwise_map.2 hl
  rw [e] at h1
  exact List.pairwise_map.1 h1

theorem pairwise_eraseBy (k : Nat) (l : List α) (hl : l.Pairwise fun a b => key a < key b) :
    (eraseBy key k l).Pairwise fun a b => key a < key b := hl.sublist List.filter_sublist

end

/-! ### Numbers in bytes -/

@[simp] theorem length_leBytes (n v : Nat) : (leBytes n v).length = n := by
  induction n generalizing v with
  | zero => rfl
  | succ n ih => simp [leBytes, ih]

theorem leNat_leBytes (n v : Nat) : leNat (leBytes n v) = v % 256 ^ n := by
  induction n generalizing v with
  | zero => simp [leBytes, leNat, Nat.mod_one]
  | succ n ih =>
    simp only [leBytes, leNat, ih, BitVec.toNat_ofNat]
    rw [show (2 : Nat) ^ 8 = 256 from rfl, show 256 ^ (n + 1) = 256 * 256 ^ n from by ring]
    exact (Nat.mod_mul).symm

end Sys2Proof.Machine
end

