-- ==== Sys2Proof/Laws/State.lean ====
section
/-! SUPPORT. For each update of the state, what each field is after it. -/

namespace Sys2Proof.Machine

/-! ### State.onPort -/

@[simp] theorem State.onPort_wpu (s : State) (port : Port) (f : PortState → PortState) :
    (s.onPort port f).wpu = s.wpu := rfl

@[simp] theorem State.onPort_sc (s : State) (port : Port) (f : PortState → PortState) :
    (s.onPort port f).sc = s.sc := rfl

@[simp] theorem State.onPort_rt (s : State) (port : Port) (f : PortState → PortState) :
    (s.onPort port f).rt = s.rt := rfl

@[simp] theorem State.onPort_erc (s : State) (port : Port) (f : PortState → PortState) :
    (s.onPort port f).erc = s.erc := rfl

@[simp] theorem State.onPort_batches (s : State) (port : Port) (f : PortState → PortState) :
    (s.onPort port f).batches = s.batches := rfl

@[simp] theorem State.onPort_rb (s : State) (port : Port) (f : PortState → PortState) :
    (s.onPort port f).rb = s.rb := rfl

@[simp] theorem State.onPort_ks (s : State) (port : Port) (f : PortState → PortState) :
    (s.onPort port f).ks = s.ks := rfl

@[simp] theorem State.onPort_ld (s : State) (port : Port) (f : PortState → PortState) :
    (s.onPort port f).ld = s.ld := rfl

@[simp] theorem State.onPort_ps (s : State) (port : Port) (f : PortState → PortState) :
    (s.onPort port f).ps = s.ps := rfl

@[simp] theorem State.onPort_events (s : State) (port : Port) (f : PortState → PortState) :
    (s.onPort port f).events = s.events := rfl

@[simp] theorem State.onPort_ports (s : State) (port : Port) (f : PortState → PortState) :
    (s.onPort port f).ports = s.ports.set port (f (s.ports.get port)) := rfl

@[simp] theorem State.onPort_pending (s : State) (port : Port) (f : PortState → PortState) :
    (s.onPort port f).pending = s.pending := rfl

/-! ### State.raiseAll -/

@[simp] theorem State.raiseAll_wpu (s : State) (bit : BitVec 8) :
    (s.raiseAll bit).wpu = s.wpu := rfl

@[simp] theorem State.raiseAll_sc (s : State) (bit : BitVec 8) :
    (s.raiseAll bit).sc = s.sc := rfl

@[simp] theorem State.raiseAll_rt (s : State) (bit : BitVec 8) :
    (s.raiseAll bit).rt = s.rt := rfl

@[simp] theorem State.raiseAll_erc (s : State) (bit : BitVec 8) :
    (s.raiseAll bit).erc = s.erc := rfl

@[simp] theorem State.raiseAll_batches (s : State) (bit : BitVec 8) :
    (s.raiseAll bit).batches = s.batches := rfl

@[simp] theorem State.raiseAll_rb (s : State) (bit : BitVec 8) :
    (s.raiseAll bit).rb = s.rb := rfl

@[simp] theorem State.raiseAll_ks (s : State) (bit : BitVec 8) :
    (s.raiseAll bit).ks = s.ks := rfl

@[simp] theorem State.raiseAll_ld (s : State) (bit : BitVec 8) :
    (s.raiseAll bit).ld = s.ld := rfl

@[simp] theorem State.raiseAll_ps (s : State) (bit : BitVec 8) :
    (s.raiseAll bit).ps = s.ps := rfl

@[simp] theorem State.raiseAll_events (s : State) (bit : BitVec 8) :
    (s.raiseAll bit).events = s.events := rfl

@[simp] theorem State.raiseAll_ports (s : State) (bit : BitVec 8) :
    (s.raiseAll bit).ports = s.ports.map fun p => p.raise bit := rfl

@[simp] theorem State.raiseAll_pending (s : State) (bit : BitVec 8) :
    (s.raiseAll bit).pending = s.pending := rfl

/-! ### State.openFrame -/

@[simp] theorem State.openFrame_wpu (s : State) (port : Port) (bytes sdo : List Byte) :
    (s.openFrame port bytes sdo).wpu = s.wpu := rfl

@[simp] theorem State.openFrame_sc (s : State) (port : Port) (bytes sdo : List Byte) :
    (s.openFrame port bytes sdo).sc = s.sc := rfl

@[simp] theorem State.openFrame_rt (s : State) (port : Port) (bytes sdo : List Byte) :
    (s.openFrame port bytes sdo).rt = s.rt := rfl

@[simp] theorem State.openFrame_erc (s : State) (port : Port) (bytes sdo : List Byte) :
    (s.openFrame port bytes sdo).erc = s.erc := rfl

@[simp] theorem State.openFrame_batches (s : State) (port : Port) (bytes sdo : List Byte) :
    (s.openFrame port bytes sdo).batches = s.batches := rfl

@[simp] theorem State.openFrame_rb (s : State) (port : Port) (bytes sdo : List Byte) :
    (s.openFrame port bytes sdo).rb = s.rb := rfl

@[simp] theorem State.openFrame_ks (s : State) (port : Port) (bytes sdo : List Byte) :
    (s.openFrame port bytes sdo).ks = s.ks := rfl

@[simp] theorem State.openFrame_ld (s : State) (port : Port) (bytes sdo : List Byte) :
    (s.openFrame port bytes sdo).ld = s.ld := rfl

@[simp] theorem State.openFrame_ps (s : State) (port : Port) (bytes sdo : List Byte) :
    (s.openFrame port bytes sdo).ps = s.ps := rfl

@[simp] theorem State.openFrame_events (s : State) (port : Port) (bytes sdo : List Byte) :
    (s.openFrame port bytes sdo).events = s.events := rfl

@[simp] theorem State.openFrame_ports (s : State) (port : Port) (bytes sdo : List Byte) :
    (s.openFrame port bytes sdo).ports = s.ports.set port { s.ports.get port with frame := bytes, sdo := sdo } := rfl

@[simp] theorem State.openFrame_pending (s : State) (port : Port) (bytes sdo : List Byte) :
    (s.openFrame port bytes sdo).pending = s.pending := rfl

/-! ### State.disarm -/

@[simp] theorem State.disarm_wpu (s : State) (port : Port) :
    (s.disarm port).wpu = s.wpu := rfl

@[simp] theorem State.disarm_sc (s : State) (port : Port) :
    (s.disarm port).sc = { s.sc with clearArmed := s.sc.clearArmed.set port false } := rfl

@[simp] theorem State.disarm_rt (s : State) (port : Port) :
    (s.disarm port).rt = s.rt := rfl

@[simp] theorem State.disarm_erc (s : State) (port : Port) :
    (s.disarm port).erc = s.erc := rfl

@[simp] theorem State.disarm_batches (s : State) (port : Port) :
    (s.disarm port).batches = s.batches := rfl

@[simp] theorem State.disarm_rb (s : State) (port : Port) :
    (s.disarm port).rb = s.rb := rfl

@[simp] theorem State.disarm_ks (s : State) (port : Port) :
    (s.disarm port).ks = s.ks := rfl

@[simp] theorem State.disarm_ld (s : State) (port : Port) :
    (s.disarm port).ld = s.ld := rfl

@[simp] theorem State.disarm_ps (s : State) (port : Port) :
    (s.disarm port).ps = s.ps := rfl

@[simp] theorem State.disarm_events (s : State) (port : Port) :
    (s.disarm port).events = s.events := rfl

@[simp] theorem State.disarm_ports (s : State) (port : Port) :
    (s.disarm port).ports = s.ports := rfl

@[simp] theorem State.disarm_pending (s : State) (port : Port) :
    (s.disarm port).pending = s.pending := rfl

/-! ### State.updateBatch -/

@[simp] theorem State.updateBatch_wpu (s : State) (code : Nat) (f : BatchEntry → BatchEntry) :
    (s.updateBatch code f).wpu = s.wpu := rfl

@[simp] theorem State.updateBatch_sc (s : State) (code : Nat) (f : BatchEntry → BatchEntry) :
    (s.updateBatch code f).sc = s.sc := rfl

@[simp] theorem State.updateBatch_rt (s : State) (code : Nat) (f : BatchEntry → BatchEntry) :
    (s.updateBatch code f).rt = s.rt := rfl

@[simp] theorem State.updateBatch_erc (s : State) (code : Nat) (f : BatchEntry → BatchEntry) :
    (s.updateBatch code f).erc = s.erc := rfl

@[simp] theorem State.updateBatch_batches (s : State) (code : Nat) (f : BatchEntry → BatchEntry) :
    (s.updateBatch code f).batches = updateBy BatchEntry.code code f s.batches := rfl

@[simp] theorem State.updateBatch_rb (s : State) (code : Nat) (f : BatchEntry → BatchEntry) :
    (s.updateBatch code f).rb = s.rb := rfl

@[simp] theorem State.updateBatch_ks (s : State) (code : Nat) (f : BatchEntry → BatchEntry) :
    (s.updateBatch code f).ks = s.ks := rfl

@[simp] theorem State.updateBatch_ld (s : State) (code : Nat) (f : BatchEntry → BatchEntry) :
    (s.updateBatch code f).ld = s.ld := rfl

@[simp] theorem State.updateBatch_ps (s : State) (code : Nat) (f : BatchEntry → BatchEntry) :
    (s.updateBatch code f).ps = s.ps := rfl

@[simp] theorem State.updateBatch_events (s : State) (code : Nat) (f : BatchEntry → BatchEntry) :
    (s.updateBatch code f).events = s.events := rfl

@[simp] theorem State.updateBatch_ports (s : State) (code : Nat) (f : BatchEntry → BatchEntry) :
    (s.updateBatch code f).ports = s.ports := rfl

@[simp] theorem State.updateBatch_pending (s : State) (code : Nat) (f : BatchEntry → BatchEntry) :
    (s.updateBatch code f).pending = s.pending := rfl

/-! ### State.updateRoll -/

@[simp] theorem State.updateRoll_wpu (s : State) (serial : Nat) (f : Roll → Roll) :
    (s.updateRoll serial f).wpu = s.wpu := rfl

@[simp] theorem State.updateRoll_sc (s : State) (serial : Nat) (f : Roll → Roll) :
    (s.updateRoll serial f).sc = s.sc := rfl

@[simp] theorem State.updateRoll_rt (s : State) (serial : Nat) (f : Roll → Roll) :
    (s.updateRoll serial f).rt = s.rt := rfl

@[simp] theorem State.updateRoll_erc (s : State) (serial : Nat) (f : Roll → Roll) :
    (s.updateRoll serial f).erc = s.erc := rfl

@[simp] theorem State.updateRoll_batches (s : State) (serial : Nat) (f : Roll → Roll) :
    (s.updateRoll serial f).batches = s.batches := rfl

@[simp] theorem State.updateRoll_rb (s : State) (serial : Nat) (f : Roll → Roll) :
    (s.updateRoll serial f).rb = { s.rb with rolls := updateBy Roll.serial serial f s.rb.rolls } := rfl

@[simp] theorem State.updateRoll_ks (s : State) (serial : Nat) (f : Roll → Roll) :
    (s.updateRoll serial f).ks = s.ks := rfl

@[simp] theorem State.updateRoll_ld (s : State) (serial : Nat) (f : Roll → Roll) :
    (s.updateRoll serial f).ld = s.ld := rfl

@[simp] theorem State.updateRoll_ps (s : State) (serial : Nat) (f : Roll → Roll) :
    (s.updateRoll serial f).ps = s.ps := rfl

@[simp] theorem State.updateRoll_events (s : State) (serial : Nat) (f : Roll → Roll) :
    (s.updateRoll serial f).events = s.events := rfl

@[simp] theorem State.updateRoll_ports (s : State) (serial : Nat) (f : Roll → Roll) :
    (s.updateRoll serial f).ports = s.ports := rfl

@[simp] theorem State.updateRoll_pending (s : State) (serial : Nat) (f : Roll → Roll) :
    (s.updateRoll serial f).pending = s.pending := rfl

/-! ### State.eraseRoll -/

@[simp] theorem State.eraseRoll_wpu (s : State) (serial : Nat) :
    (s.eraseRoll serial).wpu = s.wpu := rfl

@[simp] theorem State.eraseRoll_sc (s : State) (serial : Nat) :
    (s.eraseRoll serial).sc = s.sc := rfl

@[simp] theorem State.eraseRoll_rt (s : State) (serial : Nat) :
    (s.eraseRoll serial).rt = s.rt := rfl

@[simp] theorem State.eraseRoll_erc (s : State) (serial : Nat) :
    (s.eraseRoll serial).erc = s.erc := rfl

@[simp] theorem State.eraseRoll_batches (s : State) (serial : Nat) :
    (s.eraseRoll serial).batches = s.batches := rfl

@[simp] theorem State.eraseRoll_rb (s : State) (serial : Nat) :
    (s.eraseRoll serial).rb = { s.rb with rolls := eraseBy Roll.serial serial s.rb.rolls } := rfl

@[simp] theorem State.eraseRoll_ks (s : State) (serial : Nat) :
    (s.eraseRoll serial).ks = s.ks := rfl

@[simp] theorem State.eraseRoll_ld (s : State) (serial : Nat) :
    (s.eraseRoll serial).ld = s.ld := rfl

@[simp] theorem State.eraseRoll_ps (s : State) (serial : Nat) :
    (s.eraseRoll serial).ps = s.ps := rfl

@[simp] theorem State.eraseRoll_events (s : State) (serial : Nat) :
    (s.eraseRoll serial).events = s.events := rfl

@[simp] theorem State.eraseRoll_ports (s : State) (serial : Nat) :
    (s.eraseRoll serial).ports = s.ports := rfl

@[simp] theorem State.eraseRoll_pending (s : State) (serial : Nat) :
    (s.eraseRoll serial).pending = s.pending := rfl

/-! ### State.updateRecord -/

@[simp] theorem State.updateRecord_wpu (s : State) (seq : Nat) (f : RepeatRecord → RepeatRecord) :
    (s.updateRecord seq f).wpu = s.wpu := rfl

@[simp] theorem State.updateRecord_sc (s : State) (seq : Nat) (f : RepeatRecord → RepeatRecord) :
    (s.updateRecord seq f).sc = s.sc := rfl

@[simp] theorem State.updateRecord_rt (s : State) (seq : Nat) (f : RepeatRecord → RepeatRecord) :
    (s.updateRecord seq f).rt = { s.rt with queue := updateBy RepeatRecord.seq seq f s.rt.queue } := rfl

@[simp] theorem State.updateRecord_erc (s : State) (seq : Nat) (f : RepeatRecord → RepeatRecord) :
    (s.updateRecord seq f).erc = s.erc := rfl

@[simp] theorem State.updateRecord_batches (s : State) (seq : Nat) (f : RepeatRecord → RepeatRecord) :
    (s.updateRecord seq f).batches = s.batches := rfl

@[simp] theorem State.updateRecord_rb (s : State) (seq : Nat) (f : RepeatRecord → RepeatRecord) :
    (s.updateRecord seq f).rb = s.rb := rfl

@[simp] theorem State.updateRecord_ks (s : State) (seq : Nat) (f : RepeatRecord → RepeatRecord) :
    (s.updateRecord seq f).ks = s.ks := rfl

@[simp] theorem State.updateRecord_ld (s : State) (seq : Nat) (f : RepeatRecord → RepeatRecord) :
    (s.updateRecord seq f).ld = s.ld := rfl

@[simp] theorem State.updateRecord_ps (s : State) (seq : Nat) (f : RepeatRecord → RepeatRecord) :
    (s.updateRecord seq f).ps = s.ps := rfl

@[simp] theorem State.updateRecord_events (s : State) (seq : Nat) (f : RepeatRecord → RepeatRecord) :
    (s.updateRecord seq f).events = s.events := rfl

@[simp] theorem State.updateRecord_ports (s : State) (seq : Nat) (f : RepeatRecord → RepeatRecord) :
    (s.updateRecord seq f).ports = s.ports := rfl

@[simp] theorem State.updateRecord_pending (s : State) (seq : Nat) (f : RepeatRecord → RepeatRecord) :
    (s.updateRecord seq f).pending = s.pending := rfl

/-! ### State.enter -/

@[simp] theorem State.enter_wpu (s : State) (run : RunState) (r : Recipe) :
    (s.enter run r).wpu = s.wpu := rfl

@[simp] theorem State.enter_sc (s : State) (run : RunState) (r : Recipe) :
    (s.enter run r).sc = { s.sc with session := .loaded run r } := rfl

@[simp] theorem State.enter_rt (s : State) (run : RunState) (r : Recipe) :
    (s.enter run r).rt = s.rt := rfl

@[simp] theorem State.enter_erc (s : State) (run : RunState) (r : Recipe) :
    (s.enter run r).erc = s.erc := rfl

@[simp] theorem State.enter_batches (s : State) (run : RunState) (r : Recipe) :
    (s.enter run r).batches = s.batches := rfl

@[simp] theorem State.enter_rb (s : State) (run : RunState) (r : Recipe) :
    (s.enter run r).rb = s.rb := rfl

@[simp] theorem State.enter_ks (s : State) (run : RunState) (r : Recipe) :
    (s.enter run r).ks = s.ks := rfl

@[simp] theorem State.enter_ld (s : State) (run : RunState) (r : Recipe) :
    (s.enter run r).ld = s.ld := rfl

@[simp] theorem State.enter_ps (s : State) (run : RunState) (r : Recipe) :
    (s.enter run r).ps = s.ps := rfl

@[simp] theorem State.enter_events (s : State) (run : RunState) (r : Recipe) :
    (s.enter run r).events = s.events := rfl

@[simp] theorem State.enter_ports (s : State) (run : RunState) (r : Recipe) :
    (s.enter run r).ports = s.ports := rfl

@[simp] theorem State.enter_pending (s : State) (run : RunState) (r : Recipe) :
    (s.enter run r).pending = s.pending := rfl

/-! ### State.onSensor -/

@[simp] theorem State.onSensor_wpu (s : State) (sensor : Sensor) (f : SensorState → SensorState) :
    (s.onSensor sensor f).wpu = s.wpu.setSensor sensor (f (s.wpu.sensor sensor)) := rfl

@[simp] theorem State.onSensor_sc (s : State) (sensor : Sensor) (f : SensorState → SensorState) :
    (s.onSensor sensor f).sc = s.sc := rfl

@[simp] theorem State.onSensor_rt (s : State) (sensor : Sensor) (f : SensorState → SensorState) :
    (s.onSensor sensor f).rt = s.rt := rfl

@[simp] theorem State.onSensor_erc (s : State) (sensor : Sensor) (f : SensorState → SensorState) :
    (s.onSensor sensor f).erc = s.erc := rfl

@[simp] theorem State.onSensor_batches (s : State) (sensor : Sensor) (f : SensorState → SensorState) :
    (s.onSensor sensor f).batches = s.batches := rfl

@[simp] theorem State.onSensor_rb (s : State) (sensor : Sensor) (f : SensorState → SensorState) :
    (s.onSensor sensor f).rb = s.rb := rfl

@[simp] theorem State.onSensor_ks (s : State) (sensor : Sensor) (f : SensorState → SensorState) :
    (s.onSensor sensor f).ks = s.ks := rfl

@[simp] theorem State.onSensor_ld (s : State) (sensor : Sensor) (f : SensorState → SensorState) :
    (s.onSensor sensor f).ld = s.ld := rfl

@[simp] theorem State.onSensor_ps (s : State) (sensor : Sensor) (f : SensorState → SensorState) :
    (s.onSensor sensor f).ps = s.ps := rfl

@[simp] theorem State.onSensor_events (s : State) (sensor : Sensor) (f : SensorState → SensorState) :
    (s.onSensor sensor f).events = s.events := rfl

@[simp] theorem State.onSensor_ports (s : State) (sensor : Sensor) (f : SensorState → SensorState) :
    (s.onSensor sensor f).ports = s.ports := rfl

@[simp] theorem State.onSensor_pending (s : State) (sensor : Sensor) (f : SensorState → SensorState) :
    (s.onSensor sensor f).pending = s.pending := rfl

/-! ### State.putEmboss -/

@[simp] theorem State.putEmboss_wpu (s : State) (p : TrackPoint) :
    (s.putEmboss p).wpu = s.wpu := rfl

@[simp] theorem State.putEmboss_sc (s : State) (p : TrackPoint) :
    (s.putEmboss p).sc = s.sc := rfl

@[simp] theorem State.putEmboss_rt (s : State) (p : TrackPoint) :
    (s.putEmboss p).rt = { s.rt with emboss := p } := rfl

@[simp] theorem State.putEmboss_erc (s : State) (p : TrackPoint) :
    (s.putEmboss p).erc = s.erc := rfl

@[simp] theorem State.putEmboss_batches (s : State) (p : TrackPoint) :
    (s.putEmboss p).batches = s.batches := rfl

@[simp] theorem State.putEmboss_rb (s : State) (p : TrackPoint) :
    (s.putEmboss p).rb = s.rb := rfl

@[simp] theorem State.putEmboss_ks (s : State) (p : TrackPoint) :
    (s.putEmboss p).ks = s.ks := rfl

@[simp] theorem State.putEmboss_ld (s : State) (p : TrackPoint) :
    (s.putEmboss p).ld = s.ld := rfl

@[simp] theorem State.putEmboss_ps (s : State) (p : TrackPoint) :
    (s.putEmboss p).ps = s.ps := rfl

@[simp] theorem State.putEmboss_events (s : State) (p : TrackPoint) :
    (s.putEmboss p).events = s.events := rfl

@[simp] theorem State.putEmboss_ports (s : State) (p : TrackPoint) :
    (s.putEmboss p).ports = s.ports := rfl

@[simp] theorem State.putEmboss_pending (s : State) (p : TrackPoint) :
    (s.putEmboss p).pending = s.pending := rfl

/-! ### State.putKnife -/

@[simp] theorem State.putKnife_wpu (s : State) (p : TrackPoint) :
    (s.putKnife p).wpu = s.wpu := rfl

@[simp] theorem State.putKnife_sc (s : State) (p : TrackPoint) :
    (s.putKnife p).sc = s.sc := rfl

@[simp] theorem State.putKnife_rt (s : State) (p : TrackPoint) :
    (s.putKnife p).rt = { s.rt with knife := p } := rfl

@[simp] theorem State.putKnife_erc (s : State) (p : TrackPoint) :
    (s.putKnife p).erc = s.erc := rfl

@[simp] theorem State.putKnife_batches (s : State) (p : TrackPoint) :
    (s.putKnife p).batches = s.batches := rfl

@[simp] theorem State.putKnife_rb (s : State) (p : TrackPoint) :
    (s.putKnife p).rb = s.rb := rfl

@[simp] theorem State.putKnife_ks (s : State) (p : TrackPoint) :
    (s.putKnife p).ks = s.ks := rfl

@[simp] theorem State.putKnife_ld (s : State) (p : TrackPoint) :
    (s.putKnife p).ld = s.ld := rfl

@[simp] theorem State.putKnife_ps (s : State) (p : TrackPoint) :
    (s.putKnife p).ps = s.ps := rfl

@[simp] theorem State.putKnife_events (s : State) (p : TrackPoint) :
    (s.putKnife p).events = s.events := rfl

@[simp] theorem State.putKnife_ports (s : State) (p : TrackPoint) :
    (s.putKnife p).ports = s.ports := rfl

@[simp] theorem State.putKnife_pending (s : State) (p : TrackPoint) :
    (s.putKnife p).pending = s.pending := rfl

/-! ### State.popOrder -/

@[simp] theorem State.popOrder_wpu (s : State) :
    (s.popOrder).wpu = s.wpu := rfl

@[simp] theorem State.popOrder_sc (s : State) :
    (s.popOrder).sc = s.sc := rfl

@[simp] theorem State.popOrder_rt (s : State) :
    (s.popOrder).rt = s.rt := rfl

@[simp] theorem State.popOrder_erc (s : State) :
    (s.popOrder).erc = s.erc := rfl

@[simp] theorem State.popOrder_batches (s : State) :
    (s.popOrder).batches = s.batches := rfl

@[simp] theorem State.popOrder_rb (s : State) :
    (s.popOrder).rb = s.rb := rfl

@[simp] theorem State.popOrder_ks (s : State) :
    (s.popOrder).ks = s.ks := rfl

@[simp] theorem State.popOrder_ld (s : State) :
    (s.popOrder).ld = ⟨s.ld.order.tail, none, false⟩ := rfl

@[simp] theorem State.popOrder_ps (s : State) :
    (s.popOrder).ps = s.ps := rfl

@[simp] theorem State.popOrder_events (s : State) :
    (s.popOrder).events = s.events := rfl

@[simp] theorem State.popOrder_ports (s : State) :
    (s.popOrder).ports = s.ports := rfl

@[simp] theorem State.popOrder_pending (s : State) :
    (s.popOrder).pending = s.pending := rfl

/-! ### State.withCommand -/

@[simp] theorem State.withCommand_wpu (s : State) (c : Instr) :
    (s.withCommand c).wpu = s.wpu := rfl

@[simp] theorem State.withCommand_sc (s : State) (c : Instr) :
    (s.withCommand c).sc = s.sc := rfl

@[simp] theorem State.withCommand_rt (s : State) (c : Instr) :
    (s.withCommand c).rt = s.rt := rfl

@[simp] theorem State.withCommand_erc (s : State) (c : Instr) :
    (s.withCommand c).erc = s.erc := rfl

@[simp] theorem State.withCommand_batches (s : State) (c : Instr) :
    (s.withCommand c).batches = s.batches := rfl

@[simp] theorem State.withCommand_rb (s : State) (c : Instr) :
    (s.withCommand c).rb = s.rb := rfl

@[simp] theorem State.withCommand_ks (s : State) (c : Instr) :
    (s.withCommand c).ks = s.ks := rfl

@[simp] theorem State.withCommand_ld (s : State) (c : Instr) :
    (s.withCommand c).ld = s.ld := rfl

@[simp] theorem State.withCommand_ps (s : State) (c : Instr) :
    (s.withCommand c).ps = s.ps := rfl

@[simp] theorem State.withCommand_events (s : State) (c : Instr) :
    (s.withCommand c).events = s.events := rfl

@[simp] theorem State.withCommand_ports (s : State) (c : Instr) :
    (s.withCommand c).ports = s.ports := rfl

@[simp] theorem State.withCommand_pending (s : State) (c : Instr) :
    (s.withCommand c).pending = c :: s.pending := rfl

/-! ### logEvent -/

@[simp] theorem logEvent_wpu (s : State) (r : EventReport) :
    (logEvent s r).wpu = s.wpu := rfl

@[simp] theorem logEvent_sc (s : State) (r : EventReport) :
    (logEvent s r).sc = { s.sc with stopLatch := s.sc.stopLatch || s.actionOf r.code == .stop } := rfl

@[simp] theorem logEvent_rt (s : State) (r : EventReport) :
    (logEvent s r).rt = s.rt := rfl

@[simp] theorem logEvent_erc (s : State) (r : EventReport) :
    (logEvent s r).erc = s.erc := rfl

@[simp] theorem logEvent_batches (s : State) (r : EventReport) :
    (logEvent s r).batches = s.batches := rfl

@[simp] theorem logEvent_rb (s : State) (r : EventReport) :
    (logEvent s r).rb = s.rb := rfl

@[simp] theorem logEvent_ks (s : State) (r : EventReport) :
    (logEvent s r).ks = s.ks := rfl

@[simp] theorem logEvent_ld (s : State) (r : EventReport) :
    (logEvent s r).ld = s.ld := rfl

@[simp] theorem logEvent_ps (s : State) (r : EventReport) :
    (logEvent s r).ps = s.ps := rfl

@[simp] theorem logEvent_events (s : State) (r : EventReport) :
    (logEvent s r).events = ((s.events.place (s.entryOf r)).applyAction (s.actionOf r.code) r.station).applyRecovery r.code r.station := rfl

@[simp] theorem logEvent_ports (s : State) (r : EventReport) :
    (logEvent s r).ports = s.ports.map fun p => p.raise noticeEvent := rfl

@[simp] theorem logEvent_pending (s : State) (r : EventReport) :
    (logEvent s r).pending = s.pending := rfl

/-! ### recoverStation -/

@[simp] theorem recoverStation_wpu (s : State) (st : Station) :
    (recoverStation s st).wpu = s.wpu := rfl

@[simp] theorem recoverStation_sc (s : State) (st : Station) :
    (recoverStation s st).sc = s.sc := rfl

@[simp] theorem recoverStation_rt (s : State) (st : Station) :
    (recoverStation s st).rt = s.rt := rfl

@[simp] theorem recoverStation_erc (s : State) (st : Station) :
    (recoverStation s st).erc = s.erc := rfl

@[simp] theorem recoverStation_batches (s : State) (st : Station) :
    (recoverStation s st).batches = s.batches := rfl

@[simp] theorem recoverStation_rb (s : State) (st : Station) :
    (recoverStation s st).rb = s.rb := rfl

@[simp] theorem recoverStation_ks (s : State) (st : Station) :
    (recoverStation s st).ks = s.ks := rfl

@[simp] theorem recoverStation_ld (s : State) (st : Station) :
    (recoverStation s st).ld = s.ld := rfl

@[simp] theorem recoverStation_ps (s : State) (st : Station) :
    (recoverStation s st).ps = s.ps := rfl

@[simp] theorem recoverStation_events (s : State) (st : Station) :
    (recoverStation s st).events = s.events.putRef st false := rfl

@[simp] theorem recoverStation_ports (s : State) (st : Station) :
    (recoverStation s st).ports = s.ports := rfl

@[simp] theorem recoverStation_pending (s : State) (st : Station) :
    (recoverStation s st).pending = s.pending := rfl

/-! ### postStoreEnd -/

@[simp] theorem postStoreEnd_wpu (s : State) (port : Port) (st : Status) :
    (postStoreEnd s port st).wpu = s.wpu := rfl

@[simp] theorem postStoreEnd_sc (s : State) (port : Port) (st : Status) :
    (postStoreEnd s port st).sc = s.sc := rfl

@[simp] theorem postStoreEnd_rt (s : State) (port : Port) (st : Status) :
    (postStoreEnd s port st).rt = s.rt := rfl

@[simp] theorem postStoreEnd_erc (s : State) (port : Port) (st : Status) :
    (postStoreEnd s port st).erc = s.erc := rfl

@[simp] theorem postStoreEnd_batches (s : State) (port : Port) (st : Status) :
    (postStoreEnd s port st).batches = s.batches := rfl

@[simp] theorem postStoreEnd_rb (s : State) (port : Port) (st : Status) :
    (postStoreEnd s port st).rb = s.rb := rfl

@[simp] theorem postStoreEnd_ks (s : State) (port : Port) (st : Status) :
    (postStoreEnd s port st).ks = s.ks := rfl

@[simp] theorem postStoreEnd_ld (s : State) (port : Port) (st : Status) :
    (postStoreEnd s port st).ld = s.ld := rfl

@[simp] theorem postStoreEnd_ps (s : State) (port : Port) (st : Status) :
    (postStoreEnd s port st).ps = s.ps := rfl

@[simp] theorem postStoreEnd_events (s : State) (port : Port) (st : Status) :
    (postStoreEnd s port st).events = s.events := rfl

@[simp] theorem postStoreEnd_ports (s : State) (port : Port) (st : Status) :
    (postStoreEnd s port st).ports = s.ports.set port (((s.ports.get port).postFinal st).raise noticeStore) := rfl

@[simp] theorem postStoreEnd_pending (s : State) (port : Port) (st : Status) :
    (postStoreEnd s port st).pending = s.pending := rfl

/-! ### One value for each port -/

@[simp] theorem PerPort.get_set_same {α : Type} (x : PerPort α) (p : Port) (v : α) : (x.set p v).get p = v := by
  cases p <;> rfl

@[simp] theorem PerPort.get_set_other {α : Type} (x : PerPort α) (p q : Port) (v : α) (h : q ≠ p) :
    (x.set p v).get q = x.get q := by
  cases p <;> cases q <;> first | rfl | exact absurd rfl h

@[simp] theorem PerPort.get_map {α : Type} (x : PerPort α) (f : α → α) (p : Port) :
    (x.map f).get p = f (x.get p) := by
  cases p <;> rfl

@[simp] theorem PerPort.set_set {α : Type} (x : PerPort α) (p : Port) (v w : α) : (x.set p v).set p w = x.set p w := by
  cases p <;> rfl

@[simp] theorem PerPort.set_get {α : Type} (x : PerPort α) (p : Port) : x.set p (x.get p) = x := by
  cases p <;> rfl

theorem PerPort.ext_get {α : Type} (x y : PerPort α) (h : ∀ p, x.get p = y.get p) : x = y := by
  cases x
  cases y
  have hp := h .portP
  have hf := h .portF
  have hq := h .portQ
  simp only [PerPort.get] at hp hf hq
  simp [hp, hf, hq]

@[simp] theorem PortState.raise_frame (p : PortState) (b : BitVec 8) : (p.raise b).frame = p.frame := rfl
@[simp] theorem PortState.raise_sdo (p : PortState) (b : BitVec 8) : (p.raise b).sdo = p.sdo := rfl
@[simp] theorem PortState.raise_slot (p : PortState) (b : BitVec 8) : (p.raise b).slot = p.slot := rfl
@[simp] theorem PortState.raise_replyLost (p : PortState) (b : BitVec 8) : (p.raise b).replyLost = p.replyLost := rfl
@[simp] theorem PortState.raise_raw (p : PortState) (b : BitVec 8) : (p.raise b).raw = p.raw ||| b := rfl
@[simp] theorem PortState.raise_enable (p : PortState) (b : BitVec 8) : (p.raise b).enable = p.enable := rfl

/-! ### What the WPU keeps of the sensors -/

@[simp] theorem Wpu.sensor_setSensor_same (w : Wpu) (x : Sensor) (v : SensorState) :
    (w.setSensor x v).sensor x = v := by
  cases x <;> rfl

@[simp] theorem Wpu.sensor_setSensor_other (w : Wpu) (x y : Sensor) (v : SensorState) (h : y ≠ x) :
    (w.setSensor x v).sensor y = w.sensor y := by
  cases x <;> cases y <;> first | rfl | exact absurd rfl h

@[simp] theorem Wpu.setSensor_pe (w : Wpu) (x : Sensor) (v : SensorState) : (w.setSensor x v).pe = w.pe := by
  cases x <;> rfl

@[simp] theorem Wpu.setSensor_le (w : Wpu) (x : Sensor) (v : SensorState) : (w.setSensor x v).le = w.le := by
  cases x <;> rfl

@[simp] theorem Wpu.setSensor_ca (w : Wpu) (x : Sensor) (v : SensorState) : (w.setSensor x v).ca = w.ca := by
  cases x <;> rfl

@[simp] theorem Wpu.setSensor_peDir (w : Wpu) (x : Sensor) (v : SensorState) : (w.setSensor x v).peDir = w.peDir := by
  cases x <;> rfl

@[simp] theorem Wpu.setSensor_leDir (w : Wpu) (x : Sensor) (v : SensorState) : (w.setSensor x v).leDir = w.leDir := by
  cases x <;> rfl

@[simp] theorem Wpu.setSensor_peIn (w : Wpu) (x : Sensor) (v : SensorState) : (w.setSensor x v).peIn = w.peIn := by
  cases x <;> rfl

@[simp] theorem Wpu.setSensor_leIn (w : Wpu) (x : Sensor) (v : SensorState) : (w.setSensor x v).leIn = w.leIn := by
  cases x <;> rfl

@[simp] theorem Wpu.setSensor_caIn (w : Wpu) (x : Sensor) (v : SensorState) : (w.setSensor x v).caIn = w.caIn := by
  cases x <;> rfl

@[simp] theorem Wpu.setSensor_spliceArm (w : Wpu) (x : Sensor) (v : SensorState) : (w.setSensor x v).spliceArm = w.spliceArm := by
  cases x <;> rfl

@[simp] theorem Wpu.setSensor_reach (w : Wpu) (x : Sensor) (v : SensorState) : (w.setSensor x v).reach = w.reach := by
  cases x <;> rfl

end Sys2Proof.Machine
end

