-- ==== Sys2Proof/Laws/Frames.lean ====
section
/-! SUPPORT. What each shared operation leaves unchanged: whole fields of the state, and its fixed part, which is all of
the WPU but the reach indication, all of the SC but the stop latch, the ports but their raw notices, and the queue of
commands. -/

namespace Sys2Proof.Machine

/-- What only a session change, an encoder, a mark sensor or a frame can alter. -/
structure FixedPart where
  wpu : Wpu
  sc : SessionControl
  ports : PerPort PortState
  pending : List Instr

/-- The fixed part of a state. -/
def State.fixedPart (s : State) : FixedPart :=
  ⟨{ s.wpu with reach := false }, { s.sc with stopLatch := false }, s.ports.map fun p => { p with raw := 0 }, s.pending⟩

/-- The part that a drain completion leaves too: the fixed part without the session. -/
def State.outerPart (s : State) : FixedPart :=
  { s.fixedPart with sc := { s.fixedPart.sc with session := .unloaded } }

theorem fixedPart_outer {s t : State} (h : s.fixedPart = t.fixedPart) : s.outerPart = t.outerPart := by
  unfold State.outerPart
  rw [h]

theorem outerPart_wpu {s t : State} (h : s.outerPart = t.outerPart) :
    s.wpu = { t.wpu with reach := s.wpu.reach } := by
  have h1 : ({ s.wpu with reach := false } : Wpu) = { t.wpu with reach := false } := congrArg FixedPart.wpu h
  simp only [Wpu.mk.injEq] at h1
  cases hs : s.wpu
  cases ht : t.wpu
  simp_all

theorem outerPart_sc {s t : State} (h : s.outerPart = t.outerPart) :
    s.sc = { t.sc with stopLatch := s.sc.stopLatch, session := s.sc.session } := by
  have h1 : ({ s.sc with stopLatch := false, session := .unloaded } : SessionControl) =
      { t.sc with stopLatch := false, session := .unloaded } := congrArg FixedPart.sc h
  simp only [SessionControl.mk.injEq] at h1
  cases hs : s.sc
  cases ht : t.sc
  simp_all

theorem outerPart_pending {s t : State} (h : s.outerPart = t.outerPart) : s.pending = t.pending :=
  congrArg FixedPart.pending h

@[simp] theorem State.enter_outerPart (s : State) (run : RunState) (r : Recipe) :
    (s.enter run r).outerPart = s.outerPart := rfl

theorem fixedPart_wpu {s t : State} (h : s.fixedPart = t.fixedPart) :
    s.wpu = { t.wpu with reach := s.wpu.reach } := by
  have h1 : ({ s.wpu with reach := false } : Wpu) = { t.wpu with reach := false } := congrArg FixedPart.wpu h
  simp only [Wpu.mk.injEq] at h1
  cases hs : s.wpu
  cases ht : t.wpu
  simp_all

theorem fixedPart_sc {s t : State} (h : s.fixedPart = t.fixedPart) :
    s.sc = { t.sc with stopLatch := s.sc.stopLatch } := by
  have h1 : ({ s.sc with stopLatch := false } : SessionControl) = { t.sc with stopLatch := false } :=
    congrArg FixedPart.sc h
  simp only [SessionControl.mk.injEq] at h1
  cases hs : s.sc
  cases ht : t.sc
  simp_all

theorem fixedPart_port {s t : State} (h : s.fixedPart = t.fixedPart) (p : Port) :
    s.ports.get p = { t.ports.get p with raw := (s.ports.get p).raw } := by
  have h1 : (s.ports.map fun p => ({ p with raw := 0 } : PortState)) = t.ports.map fun p => { p with raw := 0 } :=
    congrArg FixedPart.ports h
  have h2 := congrArg (fun x => x.get p) h1
  simp only [PerPort.get_map, PortState.mk.injEq] at h2
  cases hs : s.ports.get p
  cases ht : t.ports.get p
  simp_all

theorem fixedPart_pending {s t : State} (h : s.fixedPart = t.fixedPart) : s.pending = t.pending :=
  congrArg FixedPart.pending h

theorem fixedPart_session {s t : State} (h : s.fixedPart = t.fixedPart) : s.sc.session = t.sc.session := by
  rw [fixedPart_sc h]

theorem fixedPart_le {s t : State} (h : s.fixedPart = t.fixedPart) : s.wpu.le = t.wpu.le := by
  rw [fixedPart_wpu h]

@[simp] theorem fixedPart_mk (t : State) (rt : RepeatTracker) (e : Erc) (bs : List BatchEntry) (rb : RollBuilder)
    (ks : KnifeSequencer) (ld : LabelDispatcher) (ps : PersistentStore) (ev : LineEvents) :
    (State.mk t.wpu t.sc rt e bs rb ks ld ps ev t.ports t.pending).fixedPart = t.fixedPart := rfl

@[simp] theorem fixedPart_mk_reach (t : State) (b : Bool) (rt : RepeatTracker) (e : Erc) (bs : List BatchEntry)
    (rb : RollBuilder) (ks : KnifeSequencer) (ld : LabelDispatcher) (ps : PersistentStore) (ev : LineEvents) :
    (State.mk { t.wpu with reach := b } t.sc rt e bs rb ks ld ps ev t.ports t.pending).fixedPart = t.fixedPart := rfl

/-- Raising a notice leaves the fixed part. -/
theorem raise_fixed (x : PerPort PortState) (b : BitVec 8) :
    ((x.map fun p => p.raise b).map fun p => ({ p with raw := 0 } : PortState)) = x.map fun p => { p with raw := 0 } := rfl

@[simp] theorem State.raiseAll_fixedPart (s : State) (bit : BitVec 8) : (s.raiseAll bit).fixedPart = s.fixedPart := rfl

@[simp] theorem logEvent_fixedPart (s : State) (r : EventReport) : (logEvent s r).fixedPart = s.fixedPart := rfl

@[simp] theorem recoverStation_fixedPart (s : State) (st : Station) : (recoverStation s st).fixedPart = s.fixedPart := rfl

@[simp] theorem State.updateBatch_fixedPart (s : State) (code : Nat) (f : BatchEntry → BatchEntry) : (s.updateBatch code f).fixedPart = s.fixedPart := rfl

@[simp] theorem State.updateRoll_fixedPart (s : State) (serial : Nat) (f : Roll → Roll) : (s.updateRoll serial f).fixedPart = s.fixedPart := rfl

@[simp] theorem State.eraseRoll_fixedPart (s : State) (serial : Nat) : (s.eraseRoll serial).fixedPart = s.fixedPart := rfl

@[simp] theorem State.updateRecord_fixedPart (s : State) (seq : Nat) (f : RepeatRecord → RepeatRecord) : (s.updateRecord seq f).fixedPart = s.fixedPart := rfl

@[simp] theorem State.putEmboss_fixedPart (s : State) (p : TrackPoint) : (s.putEmboss p).fixedPart = s.fixedPart := rfl

@[simp] theorem State.putKnife_fixedPart (s : State) (p : TrackPoint) : (s.putKnife p).fixedPart = s.fixedPart := rfl

@[simp] theorem State.popOrder_fixedPart (s : State) : (s.popOrder).fixedPart = s.fixedPart := rfl

@[simp] theorem logEvent_outerPart (s : State) (r : EventReport) : (logEvent s r).outerPart = s.outerPart := rfl

@[simp] theorem freeTest_frame (s : State) (code : Nat) :
    (freeTest s code).rt = s.rt ∧ (freeTest s code).erc = s.erc ∧ (freeTest s code).rb = s.rb ∧
    (freeTest s code).ks = s.ks ∧ (freeTest s code).ld = s.ld ∧ (freeTest s code).ps = s.ps ∧
    (freeTest s code).events = s.events ∧ (freeTest s code).fixedPart = s.fixedPart := by
  refine ⟨?_, ?_, ?_, ?_, ?_, ?_, ?_, ?_⟩
  all_goals
    unfold freeTest
    try dsimp only
    repeat' split
    all_goals
      first
      | rfl
      | (simp; done)
      | (simp; rfl)
      | (simp; exact fixedPart_outer (by simp))
      | exact fixedPart_outer (by simp)

@[simp] theorem lowerQueued_frame (s : State) (v : ShadeVerdict) :
    (lowerQueued s v).rt = s.rt ∧ (lowerQueued s v).erc = s.erc ∧ (lowerQueued s v).rb = s.rb ∧
    (lowerQueued s v).ks = s.ks ∧ (lowerQueued s v).ld = s.ld ∧ (lowerQueued s v).ps = s.ps ∧
    (lowerQueued s v).events = s.events ∧ (lowerQueued s v).fixedPart = s.fixedPart := by
  refine ⟨?_, ?_, ?_, ?_, ?_, ?_, ?_, ?_⟩
  all_goals
    unfold lowerQueued
    try dsimp only
    repeat' split
    all_goals
      first
      | rfl
      | (simp; done)
      | (simp; rfl)
      | (simp; exact fixedPart_outer (by simp))
      | exact fixedPart_outer (by simp)

@[simp] theorem freeTestOf_frame (s : State) (v : ShadeVerdict) :
    (freeTestOf s v).rt = s.rt ∧ (freeTestOf s v).erc = s.erc ∧ (freeTestOf s v).rb = s.rb ∧
    (freeTestOf s v).ks = s.ks ∧ (freeTestOf s v).ld = s.ld ∧ (freeTestOf s v).ps = s.ps ∧
    (freeTestOf s v).events = s.events ∧ (freeTestOf s v).fixedPart = s.fixedPart := by
  refine ⟨?_, ?_, ?_, ?_, ?_, ?_, ?_, ?_⟩
  all_goals
    unfold freeTestOf
    try dsimp only
    repeat' split
    all_goals
      first
      | rfl
      | (simp; done)
      | (simp; rfl)
      | (simp; exact fixedPart_outer (by simp))
      | exact fixedPart_outer (by simp)

@[simp] theorem lowerRolls_frame (s : State) (code : Nat) :
    (lowerRolls s code).rt = s.rt ∧ (lowerRolls s code).erc = s.erc ∧ (lowerRolls s code).rb = s.rb ∧
    (lowerRolls s code).ks = s.ks ∧ (lowerRolls s code).ld = s.ld ∧ (lowerRolls s code).ps = s.ps ∧
    (lowerRolls s code).events = s.events ∧ (lowerRolls s code).fixedPart = s.fixedPart := by
  refine ⟨?_, ?_, ?_, ?_, ?_, ?_, ?_, ?_⟩
  all_goals
    unfold lowerRolls
    try dsimp only
    repeat' split
    all_goals
      first
      | rfl
      | (simp; done)
      | (simp; rfl)
      | (simp; exact fixedPart_outer (by simp))
      | exact fixedPart_outer (by simp)

@[simp] theorem dropRoll_frame (s : State) (roll : Roll) :
    (dropRoll s roll).rt = s.rt ∧ (dropRoll s roll).erc = s.erc ∧ (dropRoll s roll).ks = s.ks ∧
    (dropRoll s roll).ld = s.ld ∧ (dropRoll s roll).ps = s.ps ∧ (dropRoll s roll).events = s.events ∧
    (dropRoll s roll).fixedPart = s.fixedPart := by
  refine ⟨?_, ?_, ?_, ?_, ?_, ?_, ?_⟩
  all_goals
    unfold dropRoll
    try dsimp only
    repeat' split
    all_goals
      first
      | rfl
      | (simp; done)
      | (simp; rfl)
      | (simp; exact fixedPart_outer (by simp))
      | exact fixedPart_outer (by simp)

@[simp] theorem closeBatches_frame (s : State) :
    (closeBatches s).rt = s.rt ∧ (closeBatches s).erc = s.erc ∧ (closeBatches s).rb = s.rb ∧
    (closeBatches s).ks = s.ks ∧ (closeBatches s).ld = s.ld ∧ (closeBatches s).ps = s.ps ∧
    (closeBatches s).events = s.events ∧ (closeBatches s).fixedPart = s.fixedPart := by
  refine ⟨?_, ?_, ?_, ?_, ?_, ?_, ?_, ?_⟩
  all_goals
    unfold closeBatches
    try dsimp only
    repeat' split
    all_goals
      first
      | rfl
      | (simp; done)
      | (simp; rfl)
      | (simp; exact fixedPart_outer (by simp))
      | exact fixedPart_outer (by simp)

@[simp] theorem closeAndFreeBatches_frame (s : State) :
    (closeAndFreeBatches s).rt = s.rt ∧ (closeAndFreeBatches s).erc = s.erc ∧ (closeAndFreeBatches s).rb = s.rb ∧
    (closeAndFreeBatches s).ks = s.ks ∧ (closeAndFreeBatches s).ld = s.ld ∧ (closeAndFreeBatches s).ps = s.ps ∧
    (closeAndFreeBatches s).events = s.events ∧ (closeAndFreeBatches s).fixedPart = s.fixedPart := by
  refine ⟨?_, ?_, ?_, ?_, ?_, ?_, ?_, ?_⟩
  all_goals
    unfold closeAndFreeBatches
    try dsimp only
    repeat' split
    all_goals
      first
      | rfl
      | (simp; done)
      | (simp; rfl)
      | (simp; exact fixedPart_outer (by simp))
      | exact fixedPart_outer (by simp)

@[simp] theorem winBatch_frame (s : State) (r : Recipe) (seq : Nat) (x : Lab) (b : BatchEntry) :
    (winBatch s r seq x b).rt = s.rt ∧ (winBatch s r seq x b).erc = s.erc ∧ (winBatch s r seq x b).rb = s.rb ∧
    (winBatch s r seq x b).ks = s.ks ∧ (winBatch s r seq x b).ld = s.ld ∧ (winBatch s r seq x b).ps = s.ps ∧
    (winBatch s r seq x b).events = s.events ∧ (winBatch s r seq x b).fixedPart = s.fixedPart := by
  refine ⟨?_, ?_, ?_, ?_, ?_, ?_, ?_, ?_⟩
  all_goals
    unfold winBatch
    try dsimp only
    repeat' split
    all_goals
      first
      | rfl
      | (simp; done)
      | (simp; rfl)
      | (simp; exact fixedPart_outer (by simp))
      | exact fixedPart_outer (by simp)

@[simp] theorem slotClosure_frame (s : State) (r : Recipe) :
    (slotClosure s r).rt = s.rt ∧ (slotClosure s r).erc = s.erc ∧ (slotClosure s r).rb = s.rb ∧
    (slotClosure s r).ks = s.ks ∧ (slotClosure s r).ld = s.ld ∧ (slotClosure s r).ps = s.ps ∧
    (slotClosure s r).fixedPart = s.fixedPart := by
  refine ⟨?_, ?_, ?_, ?_, ?_, ?_, ?_⟩
  all_goals
    unfold slotClosure
    try dsimp only
    repeat' split
    all_goals
      first
      | rfl
      | (simp; done)
      | (simp; rfl)
      | (simp; exact fixedPart_outer (by simp))
      | exact fixedPart_outer (by simp)

@[simp] theorem createBatch_frame (s : State) (r : Recipe) (seq : Nat) (x : Lab) :
    (createBatch s r seq x).1.rt = s.rt ∧ (createBatch s r seq x).1.erc = s.erc ∧
    (createBatch s r seq x).1.rb = s.rb ∧ (createBatch s r seq x).1.ks = s.ks ∧ (createBatch s r seq x).1.ld = s.ld ∧
    (createBatch s r seq x).1.fixedPart = s.fixedPart := by
  refine ⟨?_, ?_, ?_, ?_, ?_, ?_⟩
  all_goals
    unfold createBatch
    try dsimp only
    repeat' split
    all_goals
      first
      | rfl
      | (simp; done)
      | (simp; rfl)
      | (simp; exact fixedPart_outer (by simp))
      | exact fixedPart_outer (by simp)

@[simp] theorem openBatch_frame (s : State) (r : Recipe) (seq : Nat) (x : Lab) :
    (openBatch s r seq x).1.rt = s.rt ∧ (openBatch s r seq x).1.erc = s.erc ∧ (openBatch s r seq x).1.rb = s.rb ∧
    (openBatch s r seq x).1.ks = s.ks ∧ (openBatch s r seq x).1.ld = s.ld ∧
    (openBatch s r seq x).1.fixedPart = s.fixedPart := by
  refine ⟨?_, ?_, ?_, ?_, ?_, ?_⟩
  all_goals
    unfold openBatch
    try dsimp only
    repeat' split
    all_goals
      first
      | rfl
      | (simp; done)
      | (simp; rfl)
      | (simp; exact fixedPart_outer (by simp))
      | exact fixedPart_outer (by simp)

@[simp] theorem classify_frame (s : State) (r : Recipe) (seq : Nat) (x : Lab) :
    (classify s r seq x).1.rt = s.rt ∧ (classify s r seq x).1.erc = s.erc ∧ (classify s r seq x).1.rb = s.rb ∧
    (classify s r seq x).1.ks = s.ks ∧ (classify s r seq x).1.ld = s.ld ∧
    (classify s r seq x).1.fixedPart = s.fixedPart := by
  refine ⟨?_, ?_, ?_, ?_, ?_, ?_⟩
  all_goals
    unfold classify
    try dsimp only
    repeat' split
    all_goals
      first
      | rfl
      | (simp; done)
      | (simp; rfl)
      | (simp; exact fixedPart_outer (by simp))
      | exact fixedPart_outer (by simp)

@[simp] theorem readinessTest_frame (s : State) :
    (readinessTest s).rt = s.rt ∧ (readinessTest s).erc = s.erc ∧ (readinessTest s).batches = s.batches ∧
    (readinessTest s).rb = s.rb ∧ (readinessTest s).ks = s.ks ∧ (readinessTest s).ps = s.ps ∧
    (readinessTest s).events = s.events ∧ (readinessTest s).fixedPart = s.fixedPart := by
  refine ⟨?_, ?_, ?_, ?_, ?_, ?_, ?_, ?_⟩
  all_goals
    unfold readinessTest
    try dsimp only
    repeat' split
    all_goals
      first
      | rfl
      | (simp; done)
      | (simp; rfl)
      | (simp; exact fixedPart_outer (by simp))
      | exact fixedPart_outer (by simp)

@[simp] theorem joinOrder_frame (s : State) (serial : Nat) :
    (joinOrder s serial).rt = s.rt ∧ (joinOrder s serial).erc = s.erc ∧ (joinOrder s serial).batches = s.batches ∧
    (joinOrder s serial).rb = s.rb ∧ (joinOrder s serial).ks = s.ks ∧ (joinOrder s serial).ps = s.ps ∧
    (joinOrder s serial).events = s.events ∧ (joinOrder s serial).fixedPart = s.fixedPart := by
  refine ⟨?_, ?_, ?_, ?_, ?_, ?_, ?_, ?_⟩
  all_goals
    unfold joinOrder
    try dsimp only
    repeat' split
    all_goals
      first
      | rfl
      | (simp; done)
      | (simp; rfl)
      | (simp; exact fixedPart_outer (by simp))
      | exact fixedPart_outer (by simp)

@[simp] theorem holdRoll_frame (s : State) (serial : Nat) :
    (holdRoll s serial).rt = s.rt ∧ (holdRoll s serial).erc = s.erc ∧ (holdRoll s serial).batches = s.batches ∧
    (holdRoll s serial).ks = s.ks ∧ (holdRoll s serial).ld = s.ld ∧ (holdRoll s serial).ps = s.ps ∧
    (holdRoll s serial).events = s.events ∧ (holdRoll s serial).fixedPart = s.fixedPart := by
  refine ⟨?_, ?_, ?_, ?_, ?_, ?_, ?_, ?_⟩
  all_goals
    unfold holdRoll
    try dsimp only
    repeat' split
    all_goals
      first
      | rfl
      | (simp; done)
      | (simp; rfl)
      | (simp; exact fixedPart_outer (by simp))
      | exact fixedPart_outer (by simp)

@[simp] theorem closeRoll_frame (s : State) (serial : Nat) :
    (closeRoll s serial).rt = s.rt ∧ (closeRoll s serial).erc = s.erc ∧ (closeRoll s serial).batches = s.batches ∧
    (closeRoll s serial).ks = s.ks ∧ (closeRoll s serial).ps = s.ps ∧ (closeRoll s serial).events = s.events ∧
    (closeRoll s serial).fixedPart = s.fixedPart := by
  refine ⟨?_, ?_, ?_, ?_, ?_, ?_, ?_⟩
  all_goals
    unfold closeRoll
    try dsimp only
    repeat' split
    all_goals
      first
      | rfl
      | (simp; done)
      | (simp; rfl)
      | (simp; exact fixedPart_outer (by simp))
      | exact fixedPart_outer (by simp)

@[simp] theorem removeRemnant_frame (s : State) (x : Roll) (o : CutOutcome) :
    (removeRemnant s x o).rt = s.rt ∧ (removeRemnant s x o).erc = s.erc ∧ (removeRemnant s x o).ks = s.ks ∧
    (removeRemnant s x o).ld = s.ld ∧ (removeRemnant s x o).ps = s.ps ∧
    (removeRemnant s x o).fixedPart = s.fixedPart := by
  refine ⟨?_, ?_, ?_, ?_, ?_, ?_⟩
  all_goals
    unfold removeRemnant
    try dsimp only
    repeat' split
    all_goals
      first
      | rfl
      | (simp; done)
      | (simp; rfl)
      | (simp; exact fixedPart_outer (by simp))
      | exact fixedPart_outer (by simp)

@[simp] theorem completeEnding_frame (s : State) (serial : Nat) (o : CutOutcome) :
    (completeEnding s serial o).rt = s.rt ∧ (completeEnding s serial o).erc = s.erc ∧
    (completeEnding s serial o).ks = s.ks ∧ (completeEnding s serial o).ps = s.ps ∧
    (completeEnding s serial o).fixedPart = s.fixedPart := by
  refine ⟨?_, ?_, ?_, ?_, ?_⟩
  all_goals
    unfold completeEnding
    try dsimp only
    repeat' split
    all_goals
      first
      | rfl
      | (simp; done)
      | (simp; rfl)
      | (simp; exact fixedPart_outer (by simp))
      | exact fixedPart_outer (by simp)

@[simp] theorem addHold_frame (s : State) (serial : Option Nat) (g : HoldFlags) :
    (addHold s serial g).rt = s.rt ∧ (addHold s serial g).erc = s.erc ∧ (addHold s serial g).batches = s.batches ∧
    (addHold s serial g).ks = s.ks ∧ (addHold s serial g).ld = s.ld ∧ (addHold s serial g).ps = s.ps ∧
    (addHold s serial g).events = s.events ∧ (addHold s serial g).fixedPart = s.fixedPart := by
  refine ⟨?_, ?_, ?_, ?_, ?_, ?_, ?_, ?_⟩
  all_goals
    unfold addHold
    try dsimp only
    repeat' split
    all_goals
      first
      | rfl
      | (simp; done)
      | (simp; rfl)
      | (simp; exact fixedPart_outer (by simp))
      | exact fixedPart_outer (by simp)

@[simp] theorem reachTest_frame (s : State) :
    (reachTest s).rt = s.rt ∧ (reachTest s).erc = s.erc ∧ (reachTest s).batches = s.batches ∧
    (reachTest s).rb = s.rb ∧ (reachTest s).ks = s.ks ∧ (reachTest s).ld = s.ld ∧ (reachTest s).ps = s.ps ∧
    (reachTest s).events = s.events ∧ (reachTest s).fixedPart = s.fixedPart := by
  refine ⟨?_, ?_, ?_, ?_, ?_, ?_, ?_, ?_, ?_⟩
  all_goals
    unfold reachTest
    try dsimp only
    repeat' split
    all_goals
      first
      | rfl
      | (simp; done)
      | (simp; rfl)
      | (simp; exact fixedPart_outer (by simp))
      | exact fixedPart_outer (by simp)

@[simp] theorem markLate_frame (s : State) (o : Outstanding) :
    (markLate s o).rt = s.rt ∧ (markLate s o).erc = s.erc ∧ (markLate s o).batches = s.batches ∧
    (markLate s o).ks = s.ks ∧ (markLate s o).ld = s.ld ∧ (markLate s o).ps = s.ps ∧
    (markLate s o).fixedPart = s.fixedPart := by
  refine ⟨?_, ?_, ?_, ?_, ?_, ?_, ?_⟩
  all_goals
    unfold markLate
    try dsimp only
    repeat' split
    all_goals
      first
      | rfl
      | (simp; done)
      | (simp; rfl)
      | (simp; exact fixedPart_outer (by simp))
      | exact fixedPart_outer (by simp)

@[simp] theorem fireIfDue_frame (s : State) :
    (fireIfDue s).rt = s.rt ∧ (fireIfDue s).erc = s.erc ∧ (fireIfDue s).batches = s.batches ∧
    (fireIfDue s).ld = s.ld ∧ (fireIfDue s).ps = s.ps ∧ (fireIfDue s).fixedPart = s.fixedPart := by
  refine ⟨?_, ?_, ?_, ?_, ?_, ?_⟩
  all_goals
    unfold fireIfDue
    try dsimp only
    repeat' split
    all_goals
      first
      | rfl
      | (simp; done)
      | (simp; rfl)
      | (simp; exact fixedPart_outer (by simp))
      | exact fixedPart_outer (by simp)

@[simp] theorem knifeCompare_frame (s : State) :
    (knifeCompare s).rt = s.rt ∧ (knifeCompare s).erc = s.erc ∧ (knifeCompare s).batches = s.batches ∧
    (knifeCompare s).ld = s.ld ∧ (knifeCompare s).ps = s.ps ∧ (knifeCompare s).fixedPart = s.fixedPart := by
  refine ⟨?_, ?_, ?_, ?_, ?_, ?_⟩
  all_goals
    unfold knifeCompare
    try dsimp only
    repeat' split
    all_goals
      first
      | rfl
      | (simp; done)
      | (simp; rfl)
      | (simp; exact fixedPart_outer (by simp))
      | exact fixedPart_outer (by simp)

@[simp] theorem completeRolls_frame (s : State) (k : CutKind) (o : CutOutcome) (g : HoldFlags) :
    (completeRolls s k o g).rt = s.rt ∧ (completeRolls s k o g).erc = s.erc ∧ (completeRolls s k o g).ks = s.ks ∧
    (completeRolls s k o g).ps = s.ps ∧ (completeRolls s k o g).fixedPart = s.fixedPart := by
  refine ⟨?_, ?_, ?_, ?_, ?_⟩
  all_goals
    unfold completeRolls
    try dsimp only
    repeat' split
    all_goals
      first
      | rfl
      | (simp; done)
      | (simp; rfl)
      | (simp; exact fixedPart_outer (by simp))
      | exact fixedPart_outer (by simp)

@[simp] theorem recordPositions_frame (s : State) (c : Cut) :
    (recordPositions s c).rt = s.rt ∧ (recordPositions s c).erc = s.erc ∧ (recordPositions s c).batches = s.batches ∧
    (recordPositions s c).ks = s.ks ∧ (recordPositions s c).ld = s.ld ∧ (recordPositions s c).ps = s.ps ∧
    (recordPositions s c).events = s.events ∧ (recordPositions s c).fixedPart = s.fixedPart := by
  refine ⟨?_, ?_, ?_, ?_, ?_, ?_, ?_, ?_⟩
  all_goals
    unfold recordPositions
    try dsimp only
    repeat' split
    all_goals
      first
      | rfl
      | (simp; done)
      | (simp; rfl)
      | (simp; exact fixedPart_outer (by simp))
      | exact fixedPart_outer (by simp)

@[simp] theorem refuseCut_frame (s : State) (c : Cut) :
    (refuseCut s c).rt = s.rt ∧ (refuseCut s c).erc = s.erc ∧ (refuseCut s c).ks = s.ks ∧ (refuseCut s c).ps = s.ps ∧
    (refuseCut s c).fixedPart = s.fixedPart := by
  refine ⟨?_, ?_, ?_, ?_, ?_⟩
  all_goals
    unfold refuseCut
    try dsimp only
    repeat' split
    all_goals
      first
      | rfl
      | (simp; done)
      | (simp; rfl)
      | (simp; exact fixedPart_outer (by simp))
      | exact fixedPart_outer (by simp)

@[simp] theorem placeCut_frame (s : State) (c : Cut) :
    (placeCut s c).rt = s.rt ∧ (placeCut s c).erc = s.erc ∧ (placeCut s c).batches = s.batches ∧
    (placeCut s c).ld = s.ld ∧ (placeCut s c).ps = s.ps ∧ (placeCut s c).fixedPart = s.fixedPart := by
  refine ⟨?_, ?_, ?_, ?_, ?_, ?_⟩
  all_goals
    unfold placeCut
    try dsimp only
    repeat' split
    all_goals
      first
      | rfl
      | (simp; done)
      | (simp; rfl)
      | (simp; exact fixedPart_outer (by simp))
      | exact fixedPart_outer (by simp)

@[simp] theorem queueCut_frame (s : State) (c : Cut) :
    (queueCut s c).rt = s.rt ∧ (queueCut s c).erc = s.erc ∧ (queueCut s c).ps = s.ps ∧
    (queueCut s c).fixedPart = s.fixedPart := by
  refine ⟨?_, ?_, ?_, ?_⟩
  all_goals
    unfold queueCut
    try dsimp only
    repeat' split
    all_goals
      first
      | rfl
      | (simp; done)
      | (simp; rfl)
      | (simp; exact fixedPart_outer (by simp))
      | exact fixedPart_outer (by simp)

@[simp] theorem announceErc_frame (s : State) (before : ErcMode) (seq : Nat) (e : Int) :
    (announceErc s before seq e).rt = s.rt ∧ (announceErc s before seq e).erc = s.erc ∧
    (announceErc s before seq e).batches = s.batches ∧ (announceErc s before seq e).rb = s.rb ∧
    (announceErc s before seq e).ks = s.ks ∧ (announceErc s before seq e).ld = s.ld ∧
    (announceErc s before seq e).ps = s.ps ∧ (announceErc s before seq e).fixedPart = s.fixedPart := by
  refine ⟨?_, ?_, ?_, ?_, ?_, ?_, ?_, ?_⟩
  all_goals
    unfold announceErc
    try dsimp only
    repeat' split
    all_goals
      first
      | rfl
      | (simp; done)
      | (simp; rfl)
      | (simp; exact fixedPart_outer (by simp))
      | exact fixedPart_outer (by simp)

@[simp] theorem ercTake_frame (s : State) (r : Recipe) (seq : Nat) (ca : Angle) :
    (ercTake s r seq ca).batches = s.batches ∧ (ercTake s r seq ca).rb = s.rb ∧ (ercTake s r seq ca).ks = s.ks ∧
    (ercTake s r seq ca).ld = s.ld ∧ (ercTake s r seq ca).ps = s.ps ∧
    (ercTake s r seq ca).fixedPart = s.fixedPart := by
  refine ⟨?_, ?_, ?_, ?_, ?_, ?_⟩
  all_goals
    unfold ercTake
    try dsimp only
    repeat' split
    all_goals
      first
      | rfl
      | (simp; done)
      | (simp; rfl)
      | (simp; exact fixedPart_outer (by simp))
      | exact fixedPart_outer (by simp)

@[simp] theorem setErc_frame (s : State) (c : Erc) :
    (setErc s c).rt = s.rt ∧ (setErc s c).batches = s.batches ∧ (setErc s c).rb = s.rb ∧ (setErc s c).ks = s.ks ∧
    (setErc s c).ld = s.ld ∧ (setErc s c).ps = s.ps ∧ (setErc s c).events = s.events ∧
    (setErc s c).fixedPart = s.fixedPart := by
  refine ⟨?_, ?_, ?_, ?_, ?_, ?_, ?_, ?_⟩
  all_goals
    unfold setErc
    try dsimp only
    repeat' split
    all_goals
      first
      | rfl
      | (simp; done)
      | (simp; rfl)
      | (simp; exact fixedPart_outer (by simp))
      | exact fixedPart_outer (by simp)

@[simp] theorem ercOff_frame (s : State) :
    (ercOff s).rt = s.rt ∧ (ercOff s).batches = s.batches ∧ (ercOff s).rb = s.rb ∧ (ercOff s).ks = s.ks ∧
    (ercOff s).ld = s.ld ∧ (ercOff s).ps = s.ps ∧ (ercOff s).events = s.events ∧
    (ercOff s).fixedPart = s.fixedPart := by
  refine ⟨?_, ?_, ?_, ?_, ?_, ?_, ?_, ?_⟩
  all_goals
    unfold ercOff
    try dsimp only
    repeat' split
    all_goals
      first
      | rfl
      | (simp; done)
      | (simp; rfl)
      | (simp; exact fixedPart_outer (by simp))
      | exact fixedPart_outer (by simp)

@[simp] theorem ercStart_frame (s : State) (r : Recipe) :
    (ercStart s r).rt = s.rt ∧ (ercStart s r).batches = s.batches ∧ (ercStart s r).rb = s.rb ∧
    (ercStart s r).ks = s.ks ∧ (ercStart s r).ld = s.ld ∧ (ercStart s r).ps = s.ps ∧
    (ercStart s r).events = s.events ∧ (ercStart s r).fixedPart = s.fixedPart := by
  refine ⟨?_, ?_, ?_, ?_, ?_, ?_, ?_, ?_⟩
  all_goals
    unfold ercStart
    try dsimp only
    repeat' split
    all_goals
      first
      | rfl
      | (simp; done)
      | (simp; rfl)
      | (simp; exact fixedPart_outer (by simp))
      | exact fixedPart_outer (by simp)

@[simp] theorem ercHold_frame (s : State) :
    (ercHold s).rt = s.rt ∧ (ercHold s).batches = s.batches ∧ (ercHold s).rb = s.rb ∧ (ercHold s).ks = s.ks ∧
    (ercHold s).ld = s.ld ∧ (ercHold s).ps = s.ps ∧ (ercHold s).events = s.events ∧
    (ercHold s).fixedPart = s.fixedPart := by
  refine ⟨?_, ?_, ?_, ?_, ?_, ?_, ?_, ?_⟩
  all_goals
    unfold ercHold
    try dsimp only
    repeat' split
    all_goals
      first
      | rfl
      | (simp; done)
      | (simp; rfl)
      | (simp; exact fixedPart_outer (by simp))
      | exact fixedPart_outer (by simp)

@[simp] theorem ercReacquire_frame (s : State) :
    (ercReacquire s).rt = s.rt ∧ (ercReacquire s).batches = s.batches ∧ (ercReacquire s).rb = s.rb ∧
    (ercReacquire s).ks = s.ks ∧ (ercReacquire s).ld = s.ld ∧ (ercReacquire s).ps = s.ps ∧
    (ercReacquire s).events = s.events ∧ (ercReacquire s).fixedPart = s.fixedPart := by
  refine ⟨?_, ?_, ?_, ?_, ?_, ?_, ?_, ?_⟩
  all_goals
    unfold ercReacquire
    try dsimp only
    repeat' split
    all_goals
      first
      | rfl
      | (simp; done)
      | (simp; rfl)
      | (simp; exact fixedPart_outer (by simp))
      | exact fixedPart_outer (by simp)

@[simp] theorem goWaste_frame (s : State) :
    (goWaste s).rt = s.rt ∧ (goWaste s).erc = s.erc ∧ (goWaste s).batches = s.batches ∧ (goWaste s).ks = s.ks ∧
    (goWaste s).ld = s.ld ∧ (goWaste s).ps = s.ps ∧ (goWaste s).events = s.events ∧
    (goWaste s).fixedPart = s.fixedPart := by
  refine ⟨?_, ?_, ?_, ?_, ?_, ?_, ?_, ?_⟩
  all_goals
    unfold goWaste
    try dsimp only
    repeat' split
    all_goals
      first
      | rfl
      | (simp; done)
      | (simp; rfl)
      | (simp; exact fixedPart_outer (by simp))
      | exact fixedPart_outer (by simp)

@[simp] theorem warnTableLow_frame (s : State) (roll : Roll) :
    (warnTableLow s roll).rt = s.rt ∧ (warnTableLow s roll).erc = s.erc ∧ (warnTableLow s roll).batches = s.batches ∧
    (warnTableLow s roll).rb = s.rb ∧ (warnTableLow s roll).ks = s.ks ∧ (warnTableLow s roll).ld = s.ld ∧
    (warnTableLow s roll).ps = s.ps ∧ (warnTableLow s roll).fixedPart = s.fixedPart := by
  refine ⟨?_, ?_, ?_, ?_, ?_, ?_, ?_, ?_⟩
  all_goals
    unfold warnTableLow
    try dsimp only
    repeat' split
    all_goals
      first
      | rfl
      | (simp; done)
      | (simp; rfl)
      | (simp; exact fixedPart_outer (by simp))
      | exact fixedPart_outer (by simp)

@[simp] theorem startRoll_frame (s : State) (r : Recipe) (k : RepeatRecord) (c : Word) (code : Nat) :
    (startRoll s r k c code).1.rt = s.rt ∧ (startRoll s r k c code).1.erc = s.erc ∧
    (startRoll s r k c code).1.ks = s.ks ∧ (startRoll s r k c code).1.ld = s.ld ∧
    (startRoll s r k c code).1.fixedPart = s.fixedPart := by
  refine ⟨?_, ?_, ?_, ?_, ?_⟩
  all_goals
    unfold startRoll
    try dsimp only
    repeat' split
    all_goals
      first
      | rfl
      | (simp; done)
      | (simp; rfl)
      | (simp; exact fixedPart_outer (by simp))
      | exact fixedPart_outer (by simp)

@[simp] theorem tryStart_frame (s : State) (r : Recipe) (k : RepeatRecord) (c : Word) (code : Nat) :
    (tryStart s r k c code).1.rt = s.rt ∧ (tryStart s r k c code).1.erc = s.erc ∧
    (tryStart s r k c code).1.ks = s.ks ∧ (tryStart s r k c code).1.ld = s.ld ∧
    (tryStart s r k c code).1.fixedPart = s.fixedPart := by
  refine ⟨?_, ?_, ?_, ?_, ?_⟩
  all_goals
    unfold tryStart
    try dsimp only
    repeat' split
    all_goals
      first
      | rfl
      | (simp; done)
      | (simp; rfl)
      | (simp; exact fixedPart_outer (by simp))
      | exact fixedPart_outer (by simp)

@[simp] theorem decideOwn_frame (s : State) (r : Recipe) (k : RepeatRecord) (c : Word) :
    (decideOwn s r k c).1.rt = s.rt ∧ (decideOwn s r k c).1.erc = s.erc ∧ (decideOwn s r k c).1.ks = s.ks ∧
    (decideOwn s r k c).1.ld = s.ld ∧ (decideOwn s r k c).1.fixedPart = s.fixedPart := by
  refine ⟨?_, ?_, ?_, ?_, ?_⟩
  all_goals
    unfold decideOwn
    try dsimp only
    repeat' split
    all_goals
      first
      | rfl
      | (simp; done)
      | (simp; rfl)
      | (simp; exact fixedPart_outer (by simp))
      | exact fixedPart_outer (by simp)

@[simp] theorem markEnding_frame (s : State) (serial : Nat) (cls : RollClass) :
    (markEnding s serial cls).rt = s.rt ∧ (markEnding s serial cls).erc = s.erc ∧
    (markEnding s serial cls).batches = s.batches ∧ (markEnding s serial cls).ks = s.ks ∧
    (markEnding s serial cls).ld = s.ld ∧ (markEnding s serial cls).ps = s.ps ∧
    (markEnding s serial cls).events = s.events ∧ (markEnding s serial cls).fixedPart = s.fixedPart := by
  refine ⟨?_, ?_, ?_, ?_, ?_, ?_, ?_, ?_⟩
  all_goals
    unfold markEnding
    try dsimp only
    repeat' split
    all_goals
      first
      | rfl
      | (simp; done)
      | (simp; rfl)
      | (simp; exact fixedPart_outer (by simp))
      | exact fixedPart_outer (by simp)

@[simp] theorem turnDrop_frame (s : State) (r : Recipe) (ph : Phase) (cls : RollClass) :
    (turnDrop s r ph cls).rt = s.rt ∧ (turnDrop s r ph cls).erc = s.erc ∧ (turnDrop s r ph cls).batches = s.batches ∧
    (turnDrop s r ph cls).ks = s.ks ∧ (turnDrop s r ph cls).ld = s.ld ∧ (turnDrop s r ph cls).ps = s.ps ∧
    (turnDrop s r ph cls).events = s.events ∧ (turnDrop s r ph cls).fixedPart = s.fixedPart := by
  refine ⟨?_, ?_, ?_, ?_, ?_, ?_, ?_, ?_⟩
  all_goals
    unfold turnDrop
    try dsimp only
    repeat' split
    all_goals
      first
      | rfl
      | (simp; done)
      | (simp; rfl)
      | (simp; exact fixedPart_outer (by simp))
      | exact fixedPart_outer (by simp)

@[simp] theorem queueClose_frame (s : State) (roll : Roll) (endPos : Word) (started : Option Roll) :
    (queueClose s roll endPos started).rt = s.rt ∧ (queueClose s roll endPos started).erc = s.erc ∧
    (queueClose s roll endPos started).ps = s.ps ∧ (queueClose s roll endPos started).fixedPart = s.fixedPart := by
  refine ⟨?_, ?_, ?_, ?_⟩
  all_goals
    unfold queueClose
    try dsimp only
    repeat' split
    all_goals
      first
      | rfl
      | (simp; done)
      | (simp; rfl)
      | (simp; exact fixedPart_outer (by simp))
      | exact fixedPart_outer (by simp)

@[simp] theorem closeAt_frame (s : State) (r : Recipe) (k : RepeatRecord) (c : Word) (roll : Roll) (cls : RollClass) :
    (closeAt s r k c roll cls).rt = s.rt ∧ (closeAt s r k c roll cls).erc = s.erc ∧
    (closeAt s r k c roll cls).fixedPart = s.fixedPart := by
  refine ⟨?_, ?_, ?_⟩
  all_goals
    unfold closeAt
    try dsimp only
    repeat' split
    all_goals
      first
      | rfl
      | (simp; done)
      | (simp; rfl)
      | (simp; exact fixedPart_outer (by simp))
      | exact fixedPart_outer (by simp)

@[simp] theorem decideAlone_frame (s : State) (r : Recipe) (k : RepeatRecord) (c : Word) :
    (decideAlone s r k c).rt = s.rt ∧ (decideAlone s r k c).erc = s.erc ∧
    (decideAlone s r k c).fixedPart = s.fixedPart := by
  refine ⟨?_, ?_, ?_⟩
  all_goals
    unfold decideAlone
    try dsimp only
    repeat' split
    all_goals
      first
      | rfl
      | (simp; done)
      | (simp; rfl)
      | (simp; exact fixedPart_outer (by simp))
      | exact fixedPart_outer (by simp)

@[simp] theorem trackingFault_frame (s : State) (serial : Nat) :
    (trackingFault s serial).rt = s.rt ∧ (trackingFault s serial).erc = s.erc ∧
    (trackingFault s serial).batches = s.batches ∧ (trackingFault s serial).ks = s.ks ∧
    (trackingFault s serial).ld = s.ld ∧ (trackingFault s serial).ps = s.ps ∧
    (trackingFault s serial).events = s.events ∧ (trackingFault s serial).fixedPart = s.fixedPart := by
  refine ⟨?_, ?_, ?_, ?_, ?_, ?_, ?_, ?_⟩
  all_goals
    unfold trackingFault
    try dsimp only
    repeat' split
    all_goals
      first
      | rfl
      | (simp; done)
      | (simp; rfl)
      | (simp; exact fixedPart_outer (by simp))
      | exact fixedPart_outer (by simp)

@[simp] theorem decideBuilding_frame (s : State) (r : Recipe) (k : RepeatRecord) (c : Word) (roll : Roll) :
    (decideBuilding s r k c roll).rt = s.rt ∧ (decideBuilding s r k c roll).erc = s.erc ∧
    (decideBuilding s r k c roll).fixedPart = s.fixedPart := by
  refine ⟨?_, ?_, ?_⟩
  all_goals
    unfold decideBuilding
    try dsimp only
    repeat' split
    all_goals
      first
      | rfl
      | (simp; done)
      | (simp; rfl)
      | (simp; exact fixedPart_outer (by simp))
      | exact fixedPart_outer (by simp)

@[simp] theorem builderTake_frame (s : State) (r : Recipe) (k : RepeatRecord) (c : Word) :
    (builderTake s r k c).rt = s.rt ∧ (builderTake s r k c).erc = s.erc ∧
    (builderTake s r k c).fixedPart = s.fixedPart := by
  refine ⟨?_, ?_, ?_⟩
  all_goals
    unfold builderTake
    try dsimp only
    repeat' split
    all_goals
      first
      | rfl
      | (simp; done)
      | (simp; rfl)
      | (simp; exact fixedPart_outer (by simp))
      | exact fixedPart_outer (by simp)

@[simp] theorem builderTrackLost_frame (s : State) :
    (builderTrackLost s).rt = s.rt ∧ (builderTrackLost s).erc = s.erc ∧ (builderTrackLost s).batches = s.batches ∧
    (builderTrackLost s).ks = s.ks ∧ (builderTrackLost s).ld = s.ld ∧ (builderTrackLost s).ps = s.ps ∧
    (builderTrackLost s).events = s.events ∧ (builderTrackLost s).fixedPart = s.fixedPart := by
  refine ⟨?_, ?_, ?_, ?_, ?_, ?_, ?_, ?_⟩
  all_goals
    unfold builderTrackLost
    try dsimp only
    repeat' split
    all_goals
      first
      | rfl
      | (simp; done)
      | (simp; rfl)
      | (simp; exact fixedPart_outer (by simp))
      | exact fixedPart_outer (by simp)

@[simp] theorem endSegment_frame (s : State) :
    (endSegment s).rt = s.rt ∧ (endSegment s).erc = s.erc ∧ (endSegment s).batches = s.batches ∧
    (endSegment s).ks = s.ks ∧ (endSegment s).ld = s.ld ∧ (endSegment s).ps = s.ps ∧
    (endSegment s).events = s.events ∧ (endSegment s).fixedPart = s.fixedPart := by
  refine ⟨?_, ?_, ?_, ?_, ?_, ?_, ?_, ?_⟩
  all_goals
    unfold endSegment
    try dsimp only
    repeat' split
    all_goals
      first
      | rfl
      | (simp; done)
      | (simp; rfl)
      | (simp; exact fixedPart_outer (by simp))
      | exact fixedPart_outer (by simp)

@[simp] theorem drainClose_frame (s : State) (r : Recipe) :
    (drainClose s r).1.rt = s.rt ∧ (drainClose s r).1.erc = s.erc ∧ (drainClose s r).1.ps = s.ps ∧
    (drainClose s r).1.fixedPart = s.fixedPart := by
  refine ⟨?_, ?_, ?_, ?_⟩
  all_goals
    unfold drainClose
    try dsimp only
    repeat' split
    all_goals
      first
      | rfl
      | (simp; done)
      | (simp; rfl)
      | (simp; exact fixedPart_outer (by simp))
      | exact fixedPart_outer (by simp)

@[simp] theorem flushClose_frame (s : State) (r : Recipe) :
    (flushClose s r).1.rt = s.rt ∧ (flushClose s r).1.erc = s.erc ∧ (flushClose s r).1.ks = s.ks ∧
    (flushClose s r).1.ld = s.ld ∧ (flushClose s r).1.ps = s.ps ∧ (flushClose s r).1.events = s.events ∧
    (flushClose s r).1.fixedPart = s.fixedPart := by
  refine ⟨?_, ?_, ?_, ?_, ?_, ?_, ?_⟩
  all_goals
    unfold flushClose
    try dsimp only
    repeat' split
    all_goals
      first
      | rfl
      | (simp; done)
      | (simp; rfl)
      | (simp; exact fixedPart_outer (by simp))
      | exact fixedPart_outer (by simp)

@[simp] theorem drainNow_frame (s : State) (r : Recipe) :
    (drainNow s r).rt = s.rt ∧ (drainNow s r).ps = s.ps ∧ (drainNow s r).outerPart = s.outerPart := by
  refine ⟨?_, ?_, ?_⟩
  all_goals
    unfold drainNow
    try dsimp only
    repeat' split
    all_goals
      first
      | rfl
      | (simp; done)
      | (simp; rfl)
      | (simp; exact fixedPart_outer (by simp))
      | exact fixedPart_outer (by simp)

@[simp] theorem drainTest_frame (s : State) :
    (drainTest s).rt = s.rt ∧ (drainTest s).ps = s.ps ∧ (drainTest s).outerPart = s.outerPart := by
  refine ⟨?_, ?_, ?_⟩
  all_goals
    unfold drainTest
    try dsimp only
    repeat' split
    all_goals
      first
      | rfl
      | (simp; done)
      | (simp; rfl)
      | (simp; exact fixedPart_outer (by simp))
      | exact fixedPart_outer (by simp)

@[simp] theorem overtake_frame (s : State) (k : RepeatRecord) :
    (overtake s k).1.rt = s.rt ∧ (overtake s k).1.erc = s.erc ∧ (overtake s k).1.batches = s.batches ∧
    (overtake s k).1.rb = s.rb ∧ (overtake s k).1.ks = s.ks ∧ (overtake s k).1.ld = s.ld ∧
    (overtake s k).1.ps = s.ps ∧ (overtake s k).1.fixedPart = s.fixedPart := by
  refine ⟨?_, ?_, ?_, ?_, ?_, ?_, ?_, ?_⟩
  all_goals
    unfold overtake
    try dsimp only
    repeat' split
    all_goals
      first
      | rfl
      | (simp; done)
      | (simp; rfl)
      | (simp; exact fixedPart_outer (by simp))
      | exact fixedPart_outer (by simp)

@[simp] theorem handOver_frame (s : State) (r : Recipe) (k : RepeatRecord) (c : Word) :
    (handOver s r k c).erc = s.erc ∧ (handOver s r k c).fixedPart = s.fixedPart := by
  refine ⟨?_, ?_⟩
  all_goals
    unfold handOver
    try dsimp only
    repeat' split
    all_goals
      first
      | rfl
      | (simp; done)
      | (simp; rfl)
      | (simp; exact fixedPart_outer (by simp))
      | exact fixedPart_outer (by simp)

@[simp] theorem logSpurious_frame (s : State) (st : Station) (seq m : Nat) :
    (logSpurious s st seq m).rt = s.rt ∧ (logSpurious s st seq m).erc = s.erc ∧
    (logSpurious s st seq m).batches = s.batches ∧ (logSpurious s st seq m).rb = s.rb ∧
    (logSpurious s st seq m).ks = s.ks ∧ (logSpurious s st seq m).ld = s.ld ∧ (logSpurious s st seq m).ps = s.ps ∧
    (logSpurious s st seq m).fixedPart = s.fixedPart := by
  refine ⟨?_, ?_, ?_, ?_, ?_, ?_, ?_, ?_⟩
  all_goals
    unfold logSpurious
    try dsimp only
    repeat' split
    all_goals
      first
      | rfl
      | (simp; done)
      | (simp; rfl)
      | (simp; exact fixedPart_outer (by simp))
      | exact fixedPart_outer (by simp)

@[simp] theorem logTrackLost_frame (s : State) (st : Station) (seq m : Nat) :
    (logTrackLost s st seq m).rt = s.rt ∧ (logTrackLost s st seq m).erc = s.erc ∧
    (logTrackLost s st seq m).batches = s.batches ∧ (logTrackLost s st seq m).rb = s.rb ∧
    (logTrackLost s st seq m).ks = s.ks ∧ (logTrackLost s st seq m).ld = s.ld ∧ (logTrackLost s st seq m).ps = s.ps ∧
    (logTrackLost s st seq m).fixedPart = s.fixedPart := by
  refine ⟨?_, ?_, ?_, ?_, ?_, ?_, ?_, ?_⟩
  all_goals
    unfold logTrackLost
    try dsimp only
    repeat' split
    all_goals
      first
      | rfl
      | (simp; done)
      | (simp; rfl)
      | (simp; exact fixedPart_outer (by simp))
      | exact fixedPart_outer (by simp)

@[simp] theorem logEmbossMissed_frame (s : State) (seq : Nat) (x : BitVec 16) :
    (logEmbossMissed s seq x).rt = s.rt ∧ (logEmbossMissed s seq x).erc = s.erc ∧
    (logEmbossMissed s seq x).batches = s.batches ∧ (logEmbossMissed s seq x).rb = s.rb ∧
    (logEmbossMissed s seq x).ks = s.ks ∧ (logEmbossMissed s seq x).ld = s.ld ∧ (logEmbossMissed s seq x).ps = s.ps ∧
    (logEmbossMissed s seq x).fixedPart = s.fixedPart := by
  refine ⟨?_, ?_, ?_, ?_, ?_, ?_, ?_, ?_⟩
  all_goals
    unfold logEmbossMissed
    try dsimp only
    repeat' split
    all_goals
      first
      | rfl
      | (simp; done)
      | (simp; rfl)
      | (simp; exact fixedPart_outer (by simp))
      | exact fixedPart_outer (by simp)

@[simp] theorem logRegained_frame (s : State) (st : Station) (seq : Nat) :
    (logRegained s st seq).rt = s.rt ∧ (logRegained s st seq).erc = s.erc ∧
    (logRegained s st seq).batches = s.batches ∧ (logRegained s st seq).rb = s.rb ∧
    (logRegained s st seq).ks = s.ks ∧ (logRegained s st seq).ld = s.ld ∧ (logRegained s st seq).ps = s.ps ∧
    (logRegained s st seq).fixedPart = s.fixedPart := by
  refine ⟨?_, ?_, ?_, ?_, ?_, ?_, ?_, ?_⟩
  all_goals
    unfold logRegained
    try dsimp only
    repeat' split
    all_goals
      first
      | rfl
      | (simp; done)
      | (simp; rfl)
      | (simp; exact fixedPart_outer (by simp))
      | exact fixedPart_outer (by simp)

@[simp] theorem embossSeek_frame (s : State) (r : Recipe) (k : RepeatRecord) (le : Word) (ca : Angle) :
    (embossSeek s r k le ca).batches = s.batches ∧ (embossSeek s r k le ca).rb = s.rb ∧
    (embossSeek s r k le ca).ks = s.ks ∧ (embossSeek s r k le ca).ld = s.ld ∧ (embossSeek s r k le ca).ps = s.ps ∧
    (embossSeek s r k le ca).fixedPart = s.fixedPart := by
  refine ⟨?_, ?_, ?_, ?_, ?_, ?_⟩
  all_goals
    unfold embossSeek
    try dsimp only
    repeat' split
    all_goals
      first
      | rfl
      | (simp; done)
      | (simp; rfl)
      | (simp; exact fixedPart_outer (by simp))
      | exact fixedPart_outer (by simp)

@[simp] theorem embossMatch_frame (s : State) (r : Recipe) (k : RepeatRecord) (le : Word) (ca : Angle) (m : Nat) :
    (embossMatch s r k le ca m).batches = s.batches ∧ (embossMatch s r k le ca m).rb = s.rb ∧
    (embossMatch s r k le ca m).ks = s.ks ∧ (embossMatch s r k le ca m).ld = s.ld ∧
    (embossMatch s r k le ca m).ps = s.ps ∧ (embossMatch s r k le ca m).fixedPart = s.fixedPart := by
  refine ⟨?_, ?_, ?_, ?_, ?_, ?_⟩
  all_goals
    unfold embossMatch
    try dsimp only
    repeat' split
    all_goals
      first
      | rfl
      | (simp; done)
      | (simp; rfl)
      | (simp; exact fixedPart_outer (by simp))
      | exact fixedPart_outer (by simp)

@[simp] theorem embossSkip_frame (s : State) (r : Recipe) (k n : RepeatRecord) (le : Word) (ca : Angle) :
    (embossSkip s r k n le ca).batches = s.batches ∧ (embossSkip s r k n le ca).rb = s.rb ∧
    (embossSkip s r k n le ca).ks = s.ks ∧ (embossSkip s r k n le ca).ld = s.ld ∧
    (embossSkip s r k n le ca).ps = s.ps ∧ (embossSkip s r k n le ca).fixedPart = s.fixedPart := by
  refine ⟨?_, ?_, ?_, ?_, ?_, ?_⟩
  all_goals
    unfold embossSkip
    try dsimp only
    repeat' split
    all_goals
      first
      | rfl
      | (simp; done)
      | (simp; rfl)
      | (simp; exact fixedPart_outer (by simp))
      | exact fixedPart_outer (by simp)

@[simp] theorem embossLose_frame (s : State) (k : RepeatRecord) (le : Word) (m : Nat) :
    (embossLose s k le m).batches = s.batches ∧ (embossLose s k le m).rb = s.rb ∧ (embossLose s k le m).ks = s.ks ∧
    (embossLose s k le m).ld = s.ld ∧ (embossLose s k le m).ps = s.ps ∧
    (embossLose s k le m).fixedPart = s.fixedPart := by
  refine ⟨?_, ?_, ?_, ?_, ?_, ?_⟩
  all_goals
    unfold embossLose
    try dsimp only
    repeat' split
    all_goals
      first
      | rfl
      | (simp; done)
      | (simp; rfl)
      | (simp; exact fixedPart_outer (by simp))
      | exact fixedPart_outer (by simp)

@[simp] theorem embossLost_frame (s : State) (k : RepeatRecord) (le : Word) (b : Bool) :
    (embossLost s k le b).batches = s.batches ∧ (embossLost s k le b).rb = s.rb ∧ (embossLost s k le b).ks = s.ks ∧
    (embossLost s k le b).ld = s.ld ∧ (embossLost s k le b).ps = s.ps ∧
    (embossLost s k le b).fixedPart = s.fixedPart := by
  refine ⟨?_, ?_, ?_, ?_, ?_, ?_⟩
  all_goals
    unfold embossLost
    try dsimp only
    repeat' split
    all_goals
      first
      | rfl
      | (simp; done)
      | (simp; rfl)
      | (simp; exact fixedPart_outer (by simp))
      | exact fixedPart_outer (by simp)

@[simp] theorem embossOff_frame (s : State) (r : Recipe) (k : RepeatRecord) (next : Option RepeatRecord) (le : Word) (ca : Angle) (m : Nat) :
    (embossOff s r k next le ca m).1.batches = s.batches ∧ (embossOff s r k next le ca m).1.rb = s.rb ∧
    (embossOff s r k next le ca m).1.ks = s.ks ∧ (embossOff s r k next le ca m).1.ld = s.ld ∧
    (embossOff s r k next le ca m).1.ps = s.ps ∧ (embossOff s r k next le ca m).1.fixedPart = s.fixedPart := by
  refine ⟨?_, ?_, ?_, ?_, ?_, ?_⟩
  all_goals
    unfold embossOff
    try dsimp only
    repeat' split
    all_goals
      first
      | rfl
      | (simp; done)
      | (simp; rfl)
      | (simp; exact fixedPart_outer (by simp))
      | exact fixedPart_outer (by simp)

@[simp] theorem deliverEmboss_frame (s : State) (r : Recipe) (prev : Option Capture) (le : Word) (ca : Angle) :
    (deliverEmboss s r prev le ca).1.batches = s.batches ∧ (deliverEmboss s r prev le ca).1.rb = s.rb ∧
    (deliverEmboss s r prev le ca).1.ks = s.ks ∧ (deliverEmboss s r prev le ca).1.ld = s.ld ∧
    (deliverEmboss s r prev le ca).1.ps = s.ps ∧ (deliverEmboss s r prev le ca).1.fixedPart = s.fixedPart := by
  refine ⟨?_, ?_, ?_, ?_, ?_, ?_⟩
  all_goals
    unfold deliverEmboss
    try dsimp only
    repeat' split
    all_goals
      first
      | rfl
      | (simp; done)
      | (simp; rfl)
      | (simp; exact fixedPart_outer (by simp))
      | exact fixedPart_outer (by simp)

@[simp] theorem logRegained_outerPart (s : State) (st : Station) (seq : Nat) :
    (logRegained s st seq).outerPart = s.outerPart := rfl

@[simp] theorem knifeSeek_frame (s : State) (r : Recipe) (k : RepeatRecord) (c : Word) :
    (knifeSeek s r k c).outerPart = s.outerPart := by
  unfold knifeSeek
  try dsimp only
  repeat' split
  all_goals
      first
      | rfl
      | (simp; done)
      | (simp; rfl)
      | (simp; exact fixedPart_outer (by simp))
      | exact fixedPart_outer (by simp)

@[simp] theorem knifeMatch_frame (s : State) (r : Recipe) (k : RepeatRecord) (c : Word) :
    (knifeMatch s r k c).outerPart = s.outerPart := by
  unfold knifeMatch
  try dsimp only
  repeat' split
  all_goals
      first
      | rfl
      | (simp; done)
      | (simp; rfl)
      | (simp; exact fixedPart_outer (by simp))
      | exact fixedPart_outer (by simp)

@[simp] theorem knifeSkip_frame (s : State) (r : Recipe) (k n : RepeatRecord) (c : Word) :
    (knifeSkip s r k n c).outerPart = s.outerPart := by
  unfold knifeSkip
  try dsimp only
  repeat' split
  all_goals
      first
      | rfl
      | (simp; done)
      | (simp; rfl)
      | (simp; exact fixedPart_outer (by simp))
      | exact fixedPart_outer (by simp)

@[simp] theorem knifeLose_frame (s : State) (r : Recipe) (k : RepeatRecord) (c : Word) (m : Nat) :
    (knifeLose s r k c m).outerPart = s.outerPart := by
  unfold knifeLose
  try dsimp only
  repeat' split
  all_goals
      first
      | rfl
      | (simp; done)
      | (simp; rfl)
      | (simp; exact fixedPart_outer (by simp))
      | exact fixedPart_outer (by simp)

@[simp] theorem knifeLost_frame (s : State) (r : Recipe) (k : RepeatRecord) (c : Word) (b : Bool) :
    (knifeLost s r k c b).outerPart = s.outerPart := by
  unfold knifeLost
  try dsimp only
  repeat' split
  all_goals
      first
      | rfl
      | (simp; done)
      | (simp; rfl)
      | (simp; exact fixedPart_outer (by simp))
      | exact fixedPart_outer (by simp)

@[simp] theorem knifeOff_frame (s : State) (r : Recipe) (k : RepeatRecord) (next : Option RepeatRecord) (c : Word) (m : Nat) :
    (knifeOff s r k next c m).1.outerPart = s.outerPart := by
  unfold knifeOff
  try dsimp only
  repeat' split
  all_goals
      first
      | rfl
      | (simp; done)
      | (simp; rfl)
      | (simp; exact fixedPart_outer (by simp))
      | exact fixedPart_outer (by simp)

@[simp] theorem deliverCut_frame (s : State) (r : Recipe) (prev : Option Capture) (c : Word) :
    (deliverCut s r prev c).1.outerPart = s.outerPart := by
  unfold deliverCut
  try dsimp only
  repeat' split
  all_goals
      first
      | rfl
      | (simp; done)
      | (simp; rfl)
      | (simp; exact fixedPart_outer (by simp))
      | exact fixedPart_outer (by simp)

@[simp] theorem slipCheck_frame (s : State) :
    (slipCheck s).rt = s.rt ∧ (slipCheck s).erc = s.erc ∧ (slipCheck s).batches = s.batches ∧
    (slipCheck s).rb = s.rb ∧ (slipCheck s).ks = s.ks ∧ (slipCheck s).ld = s.ld ∧ (slipCheck s).ps = s.ps ∧
    (slipCheck s).fixedPart = s.fixedPart := by
  refine ⟨?_, ?_, ?_, ?_, ?_, ?_, ?_, ?_⟩
  all_goals
    unfold slipCheck
    try dsimp only
    repeat' split
    all_goals
      first
      | rfl
      | (simp; done)
      | (simp; rfl)
      | (simp; exact fixedPart_outer (by simp))
      | exact fixedPart_outer (by simp)

@[simp] theorem flagTail_frame (s : State) :
    (flagTail s).erc = s.erc ∧ (flagTail s).batches = s.batches ∧ (flagTail s).rb = s.rb ∧ (flagTail s).ks = s.ks ∧
    (flagTail s).ld = s.ld ∧ (flagTail s).ps = s.ps ∧ (flagTail s).events = s.events ∧
    (flagTail s).fixedPart = s.fixedPart := by
  refine ⟨?_, ?_, ?_, ?_, ?_, ?_, ?_, ?_⟩
  all_goals
    unfold flagTail
    try dsimp only
    repeat' split
    all_goals
      first
      | rfl
      | (simp; done)
      | (simp; rfl)
      | (simp; exact fixedPart_outer (by simp))
      | exact fixedPart_outer (by simp)

end Sys2Proof.Machine
end

