-- ==== Sys2Proof/Laws/Requests.lean ====
section
/-! SUPPORT. What taking a request does whatever its command, what a logging does, and what READ STATUS and FETCH REPLY
leave. -/

namespace Sys2Proof.Machine

/-! ### The state in which a request is carried out -/

@[simp] theorem State.taken_frame (s : State) (port : Port) (i : Instr) :
    (s.taken port i).wpu = s.wpu ∧ (s.taken port i).rt = s.rt ∧ (s.taken port i).erc = s.erc ∧
    (s.taken port i).batches = s.batches ∧ (s.taken port i).rb = s.rb ∧ (s.taken port i).ks = s.ks ∧
    (s.taken port i).ld = s.ld ∧ (s.taken port i).ps = s.ps ∧ (s.taken port i).events = s.events ∧
    (s.taken port i).pending = s.pending ∧ (s.taken port i).sc.session = s.sc.session ∧
    (s.taken port i).sc.nextSeq = s.sc.nextSeq ∧ (s.taken port i).sc.seqSpent = s.sc.seqSpent ∧
    (s.taken port i).sc.stopLatch = s.sc.stopLatch ∧
    (s.taken port i).sc.clearArmed = s.sc.clearArmed.set port false := by
  simp [State.taken]

theorem State.taken_port (s : State) (port : Port) (i : Instr) :
    (s.taken port i).ports.get port =
      { s.ports.get port with
        frame := requestBytes i
        sdo := List.replicate (requestBytes i).length 0 } := by
  simp [State.taken]

theorem State.taken_other_port (s : State) (port q : Port) (i : Instr) (h : q ≠ port) :
    (s.taken port i).ports.get q = s.ports.get q := by
  simp [State.taken, h]

/-- Taking a request raises no notice. -/
theorem State.taken_raw (s : State) (port q : Port) (i : Instr) :
    ((s.taken port i).ports.get q).raw = (s.ports.get q).raw := by
  cases port <;> cases q <;> rfl

/-- Placing a reply raises no notice. -/
theorem State.place_raw (t : State) (port q : Port) (code : Byte) (a : Answer) :
    ((t.onPort port fun p => p.place code a).ports.get q).raw = (t.ports.get q).raw := by
  cases port <;> cases q <;> rfl

/-! ### Taking a request -/

theorem takeRequest_permitted (port : Port) (i : Instr) (s : State) (body : State → State × Answer)
    (h : permitted (commandCode i) port = true) :
    takeRequest port i s body =
      (body (s.taken port i)).1.onPort port fun p =>
        p.place (BitVec.ofNat 8 (commandCode i)) (body (s.taken port i)).2 := by
  simp [takeRequest, h]

/-- R198 step 3: a request that the catalogue does not list for its port has no effect but its reply. -/
theorem takeRequest_refused (port : Port) (i : Instr) (s : State) (body : State → State × Answer)
    (h : permitted (commandCode i) port = false) :
    takeRequest port i s body =
      (s.taken port i).onPort port fun p => p.place (BitVec.ofNat 8 (commandCode i)) (Answer.plain .notPermitted) := by
  simp [takeRequest, h]

/-- A property of the state after a request: it holds when it holds after the command's own effect, and after no effect
where the port may not send it. -/
theorem takeRequest_cases (port : Port) (i : Instr) (s : State) (body : State → State × Answer) (P : State → Prop)
    (hbody : P ((body (s.taken port i)).1.onPort port fun p =>
      p.place (BitVec.ofNat 8 (commandCode i)) (body (s.taken port i)).2))
    (hnone : P ((s.taken port i).onPort port fun p =>
      p.place (BitVec.ofNat 8 (commandCode i)) (Answer.plain .notPermitted))) :
    P (takeRequest port i s body) := by
  unfold takeRequest
  split
  · exact hbody
  · exact hnone

/-- The reply placed on the state in which a request was carried out is the request answered. -/
theorem State.taken_answered (s : State) (port : Port) (i : Instr) (a : Answer) :
    ((s.taken port i).onPort port fun p => p.place (BitVec.ofNat 8 (commandCode i)) a) =
      s.answered port i a.status a.data := by
  cases s
  cases port <;> rfl

/-- R198: a permitted request whose command changes nothing is answered. -/
theorem takeRequest_answered (port : Port) (i : Instr) (s : State) (body : State → State × Answer) (a : Answer)
    (h : permitted (commandCode i) port = true) (hb : body (s.taken port i) = (s.taken port i, a)) :
    takeRequest port i s body = s.answered port i a.status a.data := by
  rw [takeRequest_permitted port i s body h, hb, State.taken_answered]

/-- R198 step 3: a request on a port that may not send it is answered NOT_PERMITTED. -/
theorem takeRequest_notPermitted (port : Port) (i : Instr) (s : State) (body : State → State × Answer)
    (h : permitted (commandCode i) port = false) :
    takeRequest port i s body = s.answered port i .notPermitted [] := by
  rw [takeRequest_refused port i s body h, State.taken_answered]
  rfl

/-! ### Replies -/

theorem PortState.place_slot (p : PortState) (code : Byte) (a : Answer) :
    (p.place code a).slot = ⟨a.status, code, a.data, false⟩ := rfl

theorem PortState.place_replyLost (p : PortState) (code : Byte) (a : Answer) :
    (p.place code a).replyLost = (p.replyLost || !p.slot.fetched || p.slot.status == .pending) := rfl

@[simp] theorem PortState.place_keeps (p : PortState) (code : Byte) (a : Answer) :
    (p.place code a).frame = p.frame ∧ (p.place code a).sdo = p.sdo ∧ (p.place code a).raw = p.raw ∧
    (p.place code a).enable = p.enable := ⟨rfl, rfl, rfl, rfl⟩

theorem PortState.postFinal_pending (p : PortState) (st : Status) (h : p.slot.status = .pending) :
    (p.postFinal st).slot = { p.slot with status := st, data := [] } := by
  simp [PortState.postFinal, h]

theorem PortState.postFinal_other (p : PortState) (st : Status) (h : p.slot.status ≠ .pending) :
    p.postFinal st = p := by
  simp [PortState.postFinal, h]

/-! ### Loggings -/

/-- R187, R191: below 40 entries a logging adds one at the newest end. -/
theorem logEvent_entries_room (s : State) (r : EventReport) (h : s.events.entries.length < Config.eventCapacity) :
    (logEvent s r).events.entries = s.events.entries ++ [s.entryOf r] := by
  simp only [logEvent_events, LineEvents.place, if_pos h]
  unfold LineEvents.applyRecovery LineEvents.applyAction
  repeat' split
  all_goals rfl

theorem logEvent_total (s : State) (r : EventReport) :
    (logEvent s r).events.total = satAdd Config.maxWord s.events.total 1 := by
  simp only [logEvent_events, LineEvents.place]
  unfold LineEvents.applyRecovery LineEvents.applyAction
  repeat' split
  all_goals rfl

/-- R30, R190: a logging never clears the stop latch. -/
theorem logEvent_latch (s : State) (r : EventReport) (h : s.sc.stopLatch = true) :
    (logEvent s r).sc.stopLatch = true := by
  simp [h]

end Sys2Proof.Machine
end

