-- ==== Sys2Proof/Laws/Marks.lean ====
section
/-! SUPPORT. What the encoders' edges mean, what an accepted capture does, the windows of the tracking points, and a keyed
table in which one entry changes. -/

namespace Sys2Proof.Machine

/-! ### Edges -/

theorem quadSense_forward (x y : Quad) : quadSense x y = some .forward ↔ ForwardEdge x y := by
  rcases x with ⟨a, b⟩
  rcases y with ⟨c, d⟩
  cases a <;> cases b <;> cases c <;> cases d <;> simp [quadSense, ForwardEdge]

theorem quadSense_reverse (x y : Quad) : quadSense x y = some .reverse ↔ ReverseEdge x y := by
  rcases x with ⟨a, b⟩
  rcases y with ⟨c, d⟩
  cases a <;> cases b <;> cases c <;> cases d <;> simp [quadSense, ForwardEdge, ReverseEdge]

theorem quadSense_none (x y : Quad) (h : ¬ForwardEdge x y) (h' : ¬ReverseEdge x y) : quadSense x y = none := by
  rcases hq : quadSense x y with _ | d
  · rfl
  · cases d
    · exact absurd ((quadSense_forward x y).1 hq) h
    · exact absurd ((quadSense_reverse x y).1 hq) h'

/-! ### Sensors -/

@[simp] theorem Wpu.sensor_setSensor (w : Wpu) (x : Sensor) (v : SensorState) : (w.setSensor x v).sensor x = v := by
  cases x <;> rfl

@[simp] theorem Wpu.setSensor_setSensor (w : Wpu) (x : Sensor) (v u : SensorState) :
    (w.setSensor x v).setSensor x u = w.setSensor x u := by
  cases x <;> rfl

@[simp] theorem Wpu.setSensor_self (w : Wpu) (x : Sensor) : w.setSensor x (w.sensor x) = w := by
  cases x <;> rfl

/-- R9, R10: a capture that passes the tests is accepted and delivered. -/
theorem exec_markCapture_accepted (s : State) (sensor : Sensor) (run : RunState) (r : Recipe)
    (h : Accepted s sensor run r) : exec (.markCapture sensor) s = .next (acceptCapture s sensor run r) := by
  obtain ⟨h1, h2, h3⟩ := h
  simp only [exec, execMarkCapture, capture, h1]
  have : s.accepts sensor r = true := by
    simp only [State.accepts, h2, passesBlanking]
    cases hl : (s.wpu.sensor sensor).last with
    | none => rfl
    | some p => simpa using h3 p (by simp [hl])
  simp [this]

/-- R40: in a run an emboss mark goes to the emboss point. -/
theorem deliver_em (s : State) (run : RunState) (r : Recipe) (prev : Option Capture)
    (h : run = .running ∨ run = .draining) :
    deliver s .em run r prev = deliverEmboss s r prev s.wpu.le s.wpu.ca := by
  rcases h with rfl | rfl <;> rfl

/-- R41: in a run a cut mark goes to the knife point. -/
theorem deliver_cm (s : State) (run : RunState) (r : Recipe) (prev : Option Capture)
    (h : run = .running ∨ run = .draining) :
    deliver s .cm run r prev = deliverCut s r prev s.wpu.le := by
  rcases h with rfl | rfl <;> rfl

/-! ### Windows -/

theorem Window.fits_iff (w : Window) (m : Nat) : w.fits m = true ↔ w.Contains m := by
  simp [Window.fits, Window.Contains]

theorem Window.short_iff (w : Window) (m : Nat) : w.short m = true ↔ m + w.tol < w.ref := by
  simp [Window.short]

theorem Window.not_fits_long (w : Window) (m : Nat) (h : w.ref + w.tol < m) : w.fits m = false ∧ w.short m = false := by
  simp only [Window.fits, Window.short, Bool.and_eq_false_iff, decide_eq_false_iff_not]
  omega

theorem Window.not_fits_short (w : Window) (m : Nat) (h : m + w.tol < w.ref) : w.fits m = false ∧ w.short m = true := by
  simp only [Window.fits, Window.short, Bool.and_eq_false_iff, decide_eq_false_iff_not, decide_eq_true_eq]
  omega

/-! ### Tables of distinct keys -/

/-- In a table of distinct keys a change by key is a change of the one entry. -/
theorem updateBy_eq_map {α : Type} (key : α → Nat) (l : List α) (k : α) (f : α → α) (hn : (l.map key).Nodup)
    (hk : k ∈ l) : updateBy key (key k) f l = l.map fun x => if key x = key k then f k else x := by
  unfold updateBy
  apply List.map_congr_left
  intro x hx
  by_cases h : key x = key k
  · have e : x = k := List.inj_on_of_nodup_map hn hx hk h
    simp [e]
  · simp [h]

/-- A change that leaves the entry as it is. -/
theorem updateBy_same {α : Type} (key : α → Nat) (k : Nat) (f : α → α) (l : List α)
    (h : ∀ x ∈ l, key x = k → f x = x) : updateBy key k f l = l := by
  unfold updateBy
  conv_rhs => rw [← List.map_id l]
  apply List.map_congr_left
  intro x hx
  split
  · exact h x hx ‹_›
  · rfl

/-- Two changes of one entry are one. -/
theorem updateBy_updateBy {α : Type} (key : α → Nat) (k : Nat) (f g : α → α) (l : List α)
    (h : ∀ x, key (f x) = key x) : updateBy key k g (updateBy key k f l) = updateBy key k (fun x => g (f x)) l := by
  unfold updateBy
  rw [List.map_map]
  apply List.map_congr_left
  intro x _
  by_cases hx : key x = k <;> simp [hx, h]

/-- R40: the oldest AWAITING record is in the queue and AWAITING. -/
theorem awaiting_mem (s : State) (k : RepeatRecord) (rest : List RepeatRecord) (h : s.awaitingRecords = k :: rest) :
    k ∈ s.rt.queue ∧ k.emboss = .awaiting := by
  have : k ∈ s.awaitingRecords := by
    rw [h]
    simp
  simpa [State.awaitingRecords] using this

/-! ### Deliveries, mode by mode -/

/-- R44: an emboss mark in SEEKING. -/
theorem deliverEmboss_seeking (s : State) (r : Recipe) (prev : Option Capture) (le : Word) (ca : Angle)
    (k : RepeatRecord) (rest : List RepeatRecord) (h : s.awaitingRecords = k :: rest)
    (hm : s.rt.emboss.mode = .seeking) : deliverEmboss s r prev le ca = (embossSeek s r k le ca, .taken) := by
  simp only [deliverEmboss, h, hm]

/-- R45: a plausible emboss mark in SYNC. -/
theorem deliverEmboss_match (s : State) (r : Recipe) (prev : Option Capture) (le : Word) (ca : Angle)
    (k : RepeatRecord) (rest : List RepeatRecord) (h : s.awaitingRecords = k :: rest) (hm : s.rt.emboss.mode = .sync)
    (hf : (embossWindow r s.ps.setup k).fits (measured prev le) = true) :
    deliverEmboss s r prev le ca = (embossMatch s r k le ca (measured prev le), .taken) := by
  simp only [deliverEmboss, h, hm, hf, if_true]

/-- R46: a short emboss mark in SYNC. -/
theorem deliverEmboss_short (s : State) (r : Recipe) (prev : Option Capture) (le : Word) (ca : Angle)
    (k : RepeatRecord) (rest : List RepeatRecord) (h : s.awaitingRecords = k :: rest) (hm : s.rt.emboss.mode = .sync)
    (hf : measured prev le + (embossWindow r s.ps.setup k).tol < (embossWindow r s.ps.setup k).ref) :
    deliverEmboss s r prev le ca = (logSpurious s .emboss k.seq (measured prev le), .spurious) := by
  obtain ⟨h1, h2⟩ := Window.not_fits_short _ _ hf
  simp only [deliverEmboss, h, hm, h1, embossOff, h2, if_true, Bool.false_eq_true, if_false]

/-- R47: an emboss mark in SYNC that fits one skipped record. -/
theorem deliverEmboss_skip (s : State) (r : Recipe) (prev : Option Capture) (le : Word) (ca : Angle)
    (k n : RepeatRecord) (rest : List RepeatRecord) (h : s.awaitingRecords = k :: n :: rest)
    (hm : s.rt.emboss.mode = .sync)
    (hf : (embossWindow r s.ps.setup k).Skips (embossWindow r s.ps.setup n) (measured prev le)) :
    deliverEmboss s r prev le ca = (embossSkip s r k n le ca, .taken) := by
  obtain ⟨h1, h2⟩ := Window.not_fits_long _ _ hf.1
  simp only [deliverEmboss, h, hm, h1, embossOff, h2, List.head?_cons, Bool.false_eq_true, if_false]
  rw [if_pos]
  rw [Window.fits_iff]
  exact hf.2

/-- R48: a long emboss mark in SYNC that fits no skipped record. -/
theorem deliverEmboss_loses (s : State) (r : Recipe) (prev : Option Capture) (le : Word) (ca : Angle)
    (k : RepeatRecord) (rest : List RepeatRecord) (h : s.awaitingRecords = k :: rest) (hm : s.rt.emboss.mode = .sync)
    (hf : (embossWindow r s.ps.setup k).Loses (rest.head?.map fun n => embossWindow r s.ps.setup n)
      (measured prev le)) :
    deliverEmboss s r prev le ca = (embossLose s k le (measured prev le), .taken) := by
  obtain ⟨h1, h2⟩ := Window.not_fits_long _ _ hf.1
  simp only [deliverEmboss, h, hm, h1, embossOff, h2, Bool.false_eq_true, if_false]
  rcases hr : rest.head? with _ | n
  · rfl
  · dsimp only
    rw [if_neg]
    rw [Window.fits_iff]
    exact hf.2 (embossWindow r s.ps.setup n) (by rw [hr]; rfl)

/-- R48: a long emboss mark in SYNC with no further AWAITING record. -/
theorem deliverEmboss_lose (s : State) (r : Recipe) (prev : Option Capture) (le : Word) (ca : Angle)
    (k : RepeatRecord) (h : s.awaitingRecords = [k]) (hm : s.rt.emboss.mode = .sync)
    (hf : (embossWindow r s.ps.setup k).ref + (embossWindow r s.ps.setup k).tol < measured prev le) :
    deliverEmboss s r prev le ca = (embossLose s k le (measured prev le), .taken) := by
  obtain ⟨h1, h2⟩ := Window.not_fits_long _ _ hf
  simp only [deliverEmboss, h, hm, h1, embossOff, h2, List.head?_nil, Bool.false_eq_true, if_false]

/-- R49: an emboss mark in LOST. -/
theorem deliverEmboss_lost (s : State) (r : Recipe) (prev : Option Capture) (le : Word) (ca : Angle)
    (k : RepeatRecord) (rest : List RepeatRecord) (h : s.awaitingRecords = k :: rest) (hm : s.rt.emboss.mode = .lost) :
    deliverEmboss s r prev le ca =
      (embossLost s k le ((embossWindow r s.ps.setup k).fits (measured prev le)), .taken) := by
  simp only [deliverEmboss, h, hm]

/-- R44: a cut mark in SEEKING. -/
theorem deliverCut_seeking (s : State) (r : Recipe) (prev : Option Capture) (c : Word) (k : RepeatRecord)
    (rest : List RepeatRecord) (h : s.rt.queue = k :: rest) (hm : s.rt.knife.mode = .seeking) :
    deliverCut s r prev c = (knifeSeek s r k c, .taken) := by
  simp only [deliverCut, h, hm]

/-- R45: a plausible cut mark in SYNC. -/
theorem deliverCut_match (s : State) (r : Recipe) (prev : Option Capture) (c : Word) (k : RepeatRecord)
    (rest : List RepeatRecord) (h : s.rt.queue = k :: rest) (hm : s.rt.knife.mode = .sync)
    (hf : (knifeWindow r s.ps.setup k).fits (measured prev c) = true) :
    deliverCut s r prev c = (knifeMatch s r k c, .taken) := by
  simp only [deliverCut, h, hm, hf, if_true]

/-- R46: a short cut mark in SYNC. -/
theorem deliverCut_short (s : State) (r : Recipe) (prev : Option Capture) (c : Word) (k : RepeatRecord)
    (rest : List RepeatRecord) (h : s.rt.queue = k :: rest) (hm : s.rt.knife.mode = .sync)
    (hf : measured prev c + (knifeWindow r s.ps.setup k).tol < (knifeWindow r s.ps.setup k).ref) :
    deliverCut s r prev c = (logSpurious s .knife k.seq (measured prev c), .spurious) := by
  obtain ⟨h1, h2⟩ := Window.not_fits_short _ _ hf
  simp only [deliverCut, h, hm, h1, knifeOff, h2, if_true, Bool.false_eq_true, if_false]

/-- R49: a cut mark in LOST. -/
theorem deliverCut_lost (s : State) (r : Recipe) (prev : Option Capture) (c : Word) (k : RepeatRecord)
    (rest : List RepeatRecord) (h : s.rt.queue = k :: rest) (hm : s.rt.knife.mode = .lost) :
    deliverCut s r prev c = (knifeLost s r k c ((knifeWindow r s.ps.setup k).fits (measured prev c)), .taken) := by
  simp only [deliverCut, h, hm]

/-- R10: a mark that is taken. -/
theorem acceptCapture_taken (s : State) (sensor : Sensor) (run : RunState) (r : Recipe) (t : State)
    (h : deliver (s.onSensor sensor fun x => { x with last := some (s.wpu.captureOf sensor) }) sensor run r
      (s.wpu.sensor sensor).last = (t, .taken)) : acceptCapture s sensor run r = t := by
  simp only [acceptCapture, h, applyVerdict]

/-- R10, R11: a mark that is spurious. -/
theorem acceptCapture_spurious (s : State) (sensor : Sensor) (run : RunState) (r : Recipe) (t : State)
    (h : deliver (s.onSensor sensor fun x => { x with last := some (s.wpu.captureOf sensor) }) sensor run r
      (s.wpu.sensor sensor).last = (t, .spurious)) :
    acceptCapture s sensor run r =
      t.onSensor sensor fun x => { x with last := (s.wpu.sensor sensor).last }.countSpurious := by
  simp only [acceptCapture, h, applyVerdict]

/-! ### The Emboss Register Controller -/

/-- R68: what an ERC in ACQUIRE or LOCKED does with a record. -/
theorem ercTake_controlling (s : State) (r : Recipe) (seq : Nat) (ca : Angle)
    (h : s.erc.mode = .acquire ∨ s.erc.mode = .locked) :
    ercTake s r seq ca =
      announceErc (({ s with erc := (s.erc.count r (embossError r ca)).trim r (embossError r ca) }).updateRecord seq
        fun k => { k with
          embossError := some (embossError r ca)
          register := registerVerdict r (s.erc.count r (embossError r ca)).mode (embossError r ca) })
        s.erc.mode seq (embossError r ca) := by
  rcases h with h | h <;> simp [ercTake, h]

/-- R65: with the ERC OFF only the error is written. -/
theorem ercTake_off (s : State) (r : Recipe) (seq : Nat) (ca : Angle) (h : s.erc.mode = .off) :
    ercTake s r seq ca = s.updateRecord seq fun k => { k with embossError := some (embossError r ca) } := by
  simp [ercTake, h]

/-- R73: an ERC whose state did not change announces nothing. -/
theorem announceErc_same (s : State) (b : ErcMode) (n : Nat) (e : Int) (h : s.erc.mode = b) :
    announceErc s b n e = s := by
  unfold announceErc
  rw [if_pos h]

/-- R71 to R73: an ERC whose state changed at a record raises REGISTER and logs the lock or the loss. -/
theorem announceErc_changed (s : State) (b : ErcMode) (n : Nat) (e : Int) (h : s.erc.mode ≠ b) :
    announceErc s b n e = logEvent (s.raiseAll noticeRegister)
      { code := if s.erc.mode = .locked then .registerLocked else .registerLost
        station := .emboss, seq := some n, extra := extraInt e } := by
  unfold announceErc
  rw [if_neg h]

/-- R68: what the ERC does with a record is `RegisterTakes`. -/
theorem ercTake_takes (r : Recipe) (n : Nat) (ca : Angle) (u : State) :
    RegisterTakes r n (embossError r ca) u (ercTake u r n ca) := by
  refine ⟨?_, ?_⟩
  · intro h
    rw [ercTake_off _ _ _ _ h]
    rfl
  · rintro after h rfl
    rw [ercTake_controlling _ _ _ _ h]
    by_cases hc : (u.erc.count r (embossError r ca)).mode = u.erc.mode
    · rw [announceErc_same _ _ _ _ hc]
      exact ⟨rfl, rfl, fun _ => ⟨rfl, rfl, rfl⟩, fun h => absurd hc h, rfl, rfl, rfl, rfl, rfl, rfl⟩
    · rw [announceErc_changed _ _ _ _ hc]
      refine ⟨rfl, rfl, fun h => absurd h hc, fun _ => ⟨rfl, ?_⟩, rfl, rfl, rfl, rfl, rfl, rfl⟩
      intro q
      cases q <;>
        simp [PerPort.get, PerPort.map, PortState.raise, BitVec.or_assoc, State.raiseAll, logEvent] <;> rfl

@[simp] theorem Erc.trim_mode (c : Erc) (r : Recipe) (e : Int) : (c.trim r e).mode = c.mode := rfl

/-! ### Outside DRAINING -/

/-- R24: outside DRAINING the drain completion test changes nothing. -/
theorem drainTest_other (s : State) (h : ∀ r, s.sc.session ≠ .loaded .draining r) : drainTest s = s := by
  unfold drainTest
  split
  · next r hr => exact absurd hr (h r)
  all_goals rfl

/-- R145: nothing fires while a cut is outstanding, or while no reach is reported, or while no cut is queued. -/
theorem fireIfDue_none (s : State) (h : s.ks.queue = [] ∨ s.ks.outstanding.isSome = true ∨ s.wpu.reach = false) :
    fireIfDue s = s := by
  unfold fireIfDue
  split
  · next c rest h1 h2 h3 => simp [h1, h2, h3] at h
  · rfl

end Sys2Proof.Machine
end

