-- ==== Sys2Proof/Laws/Knife.lean ====
section
/-! SUPPORT. The knife and the hand-over in the words of Safety.lean: a firing, a cut that is placed, drain completion, the
end of a cut, and what one hand-over does in each of its cases. -/

namespace Sys2Proof.Machine

/-! ### Hold flags -/

theorem HoldFlags.join_offMatch (h : HoldFlags) : h.join HoldFlags.ofOffMatch = { h with offMatch := true } := by
  simp [HoldFlags.join, HoldFlags.ofOffMatch]

theorem HoldFlags.join_trackingFault (h : HoldFlags) :
    h.join HoldFlags.ofTrackingFault = { h with trackingFault := true } := by
  simp [HoldFlags.join, HoldFlags.ofTrackingFault]

theorem HoldFlags.join_cutFault (h : HoldFlags) : h.join HoldFlags.ofCutFault = { h with cutFault := true } := by
  simp [HoldFlags.join, HoldFlags.ofCutFault]

/-- R145, R146: the firing of the head. -/
theorem fireIfDue_fired (s : State) (c : Cut) (rest : List Cut) (hq : s.ks.queue = c :: rest)
    (ho : s.ks.outstanding = none) (hr : s.wpu.reach = true) : fireIfDue s = s.fired c rest := by
  unfold fireIfDue
  rw [hq, ho, hr]
  simp only [markLate, reachTest, State.outstandingOf, State.fired, Bool.false_or]
  rcases c with ⟨pos, kind, dest, raised⟩
  by_cases hl : (raised || decide ((s.ps.setup.lateTol : Int) < signedDistance pos s.wpu.le)) = true
  · simp only [hl, if_true]
    cases kind <;> cases rest <;>
      simp [addHold, CutKind.starting, CutKind.startingFirst, CutKind.ending, State.updateRoll, updateBy, Roll.addHold,
        HoldFlags.join_offMatch, logEvent, State.actionOf, State.entryOf]
    all_goals
      intro x _
      by_cases hx : x.serial = ‹Nat›
      · simp [hx]
      · simp [hx, Ne.symm hx]
  · simp only [hl]
    cases kind <;> cases rest <;> simp

/-- What a firing does not depend on: the reach indication and the queue before it. -/
theorem State.fired_congr (s : State) (b : Bool) (q rest : List Cut) (c : Cut) :
    State.fired { s with wpu := { s.wpu with reach := b }, ks := { s.ks with queue := q } } c rest = s.fired c rest := by
  unfold State.fired
  by_cases h : (c.raised || decide ((s.ps.setup.lateTol : Int) < signedDistance c.pos s.wpu.le)) = true
  · simp only [h, if_true]
    rfl
  · simp only [h]
    rfl

/-- R14, R145: after the compare, the reached head fires when no cut is outstanding. -/
theorem knifeCompare_eq (s : State) : knifeCompare s =
    match s.ks.queue with
    | [] => { s with wpu := { s.wpu with reach := false } }
    | c :: rest =>
      if (s.wpu.reach || isReached s.wpu.le c.pos) = true ∧ s.ks.outstanding = none then s.fired c rest
      else { s with wpu := { s.wpu with reach := s.wpu.reach || isReached s.wpu.le c.pos } } := by
  unfold knifeCompare
  rcases hq : s.ks.queue with _ | ⟨c, rest⟩
  · rw [fireIfDue_none _ (by simp [reachTest, hq])]
    simp [reachTest, hq]
  · by_cases hr : (s.wpu.reach || isReached s.wpu.le c.pos) = true
    · rcases ho : s.ks.outstanding with _ | o
      · rw [fireIfDue_fired _ c rest (by simp [reachTest, hq]) (by simp [reachTest, ho]) (by simp [reachTest, hq, hr])]
        simp only [hr, and_self, if_true]
        exact State.fired_congr s _ s.ks.queue rest c
      · rw [fireIfDue_none _ (by simp [reachTest, ho])]
        simp [reachTest, hq]
    · rw [fireIfDue_none _ (by simp [reachTest, hq, hr])]
      simp [reachTest, hq, hr]

@[simp] theorem recordPositions_ks (s : State) (c : Cut) : (recordPositions s c).ks = s.ks := by
  rcases c with ⟨_, _ | _ | _, _, _⟩ <;> rfl

@[simp] theorem recordPositions_wpu (s : State) (c : Cut) : (recordPositions s c).wpu = s.wpu := by
  rcases c with ⟨_, _ | _ | _, _, _⟩ <;> rfl

/-- R14, R142, R145: a cut that is placed. -/
theorem placeCut_placed (s : State) (q : Cut) (h : NoStrayReach s) :
    placeCut s q = (recordPositions s q).placed q := by
  unfold placeCut State.placed
  rw [recordPositions_ks, recordPositions_wpu]
  by_cases hq : s.ks.queue = []
  · simp only [knifeCompare_eq, hq, List.isEmpty_nil, if_true, List.nil_append, recordPositions_ks, recordPositions_wpu, h hq,
      Bool.false_or]
    split_ifs
    · rw [← State.fired_congr (recordPositions s q) s.wpu.reach [q] [] q]
      rcases q with ⟨_, _ | _ | _, _, _⟩ <;> rfl
    · rcases q with ⟨_, _ | _ | _, _, _⟩ <;> rfl
  · simp only [hq, if_false, List.isEmpty_iff]
    rcases q with ⟨_, _ | _ | _, _, _⟩ <;> rfl

theorem KnifeSequencer.behind_iff (ks : KnifeSequencer) (p : Word) : ks.Behind p ↔ ks.reference = some p := by
  unfold KnifeSequencer.Behind KnifeSequencer.reference
  rcases List.eq_nil_or_concat ks.queue with h | ⟨q, d, h⟩
  · simp [h]
  · simp [h]

theorem KnifeSequencer.raised_eq (ks : KnifeSequencer) (c q : Cut) (h : ks.Queues c q) : ks.raised c = q := by
  unfold KnifeSequencer.raised
  rcases h with ⟨_, ⟨p, hp, hd, rfl⟩ | ⟨hp, rfl⟩⟩
  · simp [(ks.behind_iff p).1 hp, hd]
  · split
    · next p hr =>
      have := hp p ((ks.behind_iff p).2 hr)
      simp [not_lt.2 this]
    · rfl

/-- R142: a cut handed over with fewer than 4 cuts queued. -/
theorem queueCut_queues (s : State) (c q : Cut) (h : s.ks.Queues c q) (hr : NoStrayReach s) :
    queueCut s c = (recordPositions s q).placed q := by
  have h4 : s.ks.queue.length < Config.knifeCapacity := h.1
  rw [queueCut, if_pos h4, s.ks.raised_eq c q h, placeCut_placed s q hr]

theorem firePos_eq (r : Recipe) (c : Word) (len : Nat) (ph : Phase) : firePos r c len ph = r.fireAt c len ph := by
  cases ph <;> simp [firePos, Recipe.fireAt, posA, dropOffset]

/-- R142: a cut that finds nothing queued and none outstanding is queued as it is. -/
theorem KnifeSequencer.queues_alone (ks : KnifeSequencer) (c : Cut) (hq : ks.queue = []) (ho : ks.outstanding = none)
    (hc : c.raised = false) : ks.Queues c c := by
  refine ⟨by simp [hq], Or.inr ⟨?_, ?_⟩⟩
  · intro p hp
    have := (ks.behind_iff p).1 hp
    simp [KnifeSequencer.reference, hq, ho] at this
  · rw [← hc]

/-- R133, R142: the END cut of the roll n is queued. -/
theorem queueCut_ends (s : State) (pos : Word) (n : Nat) (q : Cut) (h : s.ks.Queues ⟨pos, .ends n, .waste, false⟩ q)
    (hr : NoStrayReach s) :
    queueCut s (endCut pos n) = State.placed (s.updateRoll n fun x => { x with endPos := some q.pos }) q := by
  have hk : q.kind = .ends n := by
    rcases h.2 with ⟨_, _, _, rfl⟩ | ⟨_, rfl⟩ <;> rfl
  rw [endCut, queueCut_queues s _ q h hr]
  simp only [recordPositions, hk, CutKind.starting, CutKind.ending]

/-- R133, R142: the START cut of the roll n is queued. -/
theorem queueCut_starts (s : State) (pos : Word) (n : Nat) (q : Cut) (h : s.ks.Queues ⟨pos, .starts n, .roll, false⟩ q)
    (hr : NoStrayReach s) :
    queueCut s (startCut pos n) = State.placed (s.updateRoll n fun x => { x with startPos := q.pos }) q := by
  have hk : q.kind = .starts n := by
    rcases h.2 with ⟨_, _, _, rfl⟩ | ⟨_, rfl⟩ <;> rfl
  rw [startCut, queueCut_queues s _ q h hr]
  simp only [recordPositions, hk, CutKind.starting, CutKind.ending]

/-- R133, R142: the END_START cut of the rolls n and m is queued. -/
theorem queueCut_endStart (s : State) (pos : Word) (n m : Nat) (q : Cut)
    (h : s.ks.Queues ⟨pos, .endStart n m, .roll, false⟩ q) (hr : NoStrayReach s) :
    queueCut s (endStartCut pos n m) = State.placed ((s.updateRoll m fun x => { x with startPos := q.pos }).updateRoll n
      fun x => { x with endPos := some q.pos }) q := by
  have hk : q.kind = .endStart n m := by
    rcases h.2 with ⟨_, _, _, rfl⟩ | ⟨_, rfl⟩ <;> rfl
  rw [endStartCut, queueCut_queues s _ q h hr]
  simp only [recordPositions, hk, CutKind.starting, CutKind.ending]

theorem turnDrop_eq (s : State) (r : Recipe) (ph : Phase) (cls : RollClass) : turnDrop s r ph cls =
    { s with rb := { s.rb with
      nextDrop := if r.mode = .drop ∧ cls ≠ .remnant then ph.opposite else s.rb.nextDrop } } := by
  unfold turnDrop
  split_ifs <;> rfl

/-! ### Drain completion -/

/-- R105: closing the batches closes every entry and frees the spent ones among those that were active. -/
theorem closeBatches_eq (s : State) : closeBatches s =
    { s with
      batches := (s.batches.filter fun b : BatchEntry => !(b.active && b.queued == 0 && b.rolls == 0)).map
        fun b => { b with state := .closed }
      ports := s.ports.map fun q => { q with raw := q.raw ||| if s.batches.any BatchEntry.active then 0x10 else 0 } } := by
  unfold closeBatches
  split
  · next h =>
    simp only [State.raiseAll, BatchEntry.close, BatchEntry.isSpent, beq_self_eq_true, Bool.true_and, Bool.and_assoc]
    rfl
  · next h =>
    have hb : ∀ b ∈ s.batches, b.active = false := by simpa using h
    have e : (s.batches.filter fun b : BatchEntry => !(b.active && b.queued == 0 && b.rolls == 0)) = s.batches :=
      List.filter_eq_self.2 fun b h1 => by simp [hb b h1]
    have e2 : (s.batches.map fun b => { b with state := .closed }) = s.batches := by
      conv_rhs => rw [← List.map_id s.batches]
      apply List.map_congr_left
      intro b h1
      have := hb b h1
      rcases b with ⟨_, _ | _ | _, _, _, _, _, _⟩ <;> simp_all [BatchEntry.active]
    rw [Bool.not_eq_true] at h
    rw [e, e2]
    simp [PerPort.map]

theorem ercOff_eq (s : State) : ercOff s =
    { s with
      erc := s.erc.switchedOff
      ports := s.ports.map fun q => { q with raw := q.raw ||| if s.erc.mode = .off then 0 else 0x20 } } := by
  unfold ercOff setErc
  by_cases h : s.erc.mode = .off <;>
    simp [h, eq_comm (a := ErcMode.off), Erc.switchedOff, State.raiseAll, PortState.raise, noticeRegister, PerPort.map]

/-- R24: the steps of drain completion after the close of the roll. -/
theorem drainEnded_eq (u : State) (r : Recipe) (serial : Option Nat) :
    logEvent ((ercOff (closeBatches u)).enter .armed r) { code := .drainComplete, station := .line, serial := serial } =
      u.drainEnded r serial := by
  rw [closeBatches_eq, ercOff_eq]
  simp only [State.drainEnded, State.enter, PerPort.map, BitVec.or_assoc]

/-- R24, R134: drain completion with nothing queued and no cut outstanding. -/
theorem drainNow_drained (s : State) (r : Recipe) (hq : s.ks.queue = []) (ho : s.ks.outstanding = none)
    (hr : NoStrayReach s) : drainNow s r = s.drained r := by
  have none_eq : ∀ t : State, drainClose s r = (t, none) → drainNow s r = t.drainEnded r none := by
    intro t h
    rw [drainNow, h]
    exact drainEnded_eq t r none
  unfold State.drained
  split
  · next n hn =>
    split
    · next x hx =>
      have hs : x.serial = n := by
        have := List.find?_some hx
        simpa using this
      rw [drainNow, drainClose, State.buildingRoll, hn]
      simp only [hx, hs]
      rw [drainEnded_eq]
      congr 1
      rw [turnDrop_eq, queueCut_ends _ _ _ _ (KnifeSequencer.queues_alone _ _ ?_ ?_ rfl) ?_, drainPos, firePos_eq]
      · simp only [endSegment, markEnding, State.updateRoll]
        rw [updateBy_updateBy (h := ?_)]
        · rfl
        · exact fun _ => rfl
      · exact hq
      · exact ho
      · exact hr
    · next hx =>
      apply none_eq
      rw [drainClose, State.buildingRoll, hn]
      simp only [hx]
      rfl
  all_goals
    next hn =>
    apply none_eq
    rw [drainClose, State.buildingRoll, hn]
    rfl

/-- R24: the drain completion test. -/
theorem drainTest_settled (s : State) (hr : NoStrayReach s) : drainTest s = s.settled := by
  unfold drainTest State.settled
  rcases hs : s.sc.session with _ | ⟨_ | _ | _, r⟩
  · rfl
  · rfl
  · rfl
  · simp only [State.webClear, Bool.and_eq_true, List.isEmpty_iff, Option.isNone_iff_eq_none, and_assoc]
    split
    · next h => exact drainNow_drained s r h.2.1 h.2.2 hr
    · rfl

/-- R147, R148: the last steps of a completed cut. -/
theorem releaseCut_released (s : State) (hr : NoStrayReach s) :
    releaseCut s = State.released { s with ks := { s.ks with outstanding := none } } := by
  unfold releaseCut State.released
  rcases hq : s.ks.queue with _ | ⟨c, rest⟩
  · rw [fireIfDue_none _ (by simp [hq])]
    exact drainTest_settled _ hr
  · rcases hw : s.wpu.reach with _ | _
    · rw [fireIfDue_none _ (by simp [hw])]
      exact drainTest_settled _ hr
    · simp only
      have e := fireIfDue_fired { s with ks := { s.ks with outstanding := none } } c rest hq rfl hw
      rw [e]
      apply drainTest_settled
      intro h
      have h1 : rest = [] := h
      simp [State.fired, h1]

/-! ### Hand-overs -/

theorem overtake_cases (s : State) (k : RepeatRecord) :
    (k.emboss = .awaiting ∧ overtake s k = (logEmbossMissed s k.seq 1, k.missed)) ∨
    (k.emboss ≠ .awaiting ∧ overtake s k = (s, k)) := by
  unfold overtake
  split_ifs with h
  · exact Or.inl ⟨h, rfl⟩
  · exact Or.inr ⟨h, rfl⟩

/-- R54: a hand-over is the record handed over, the decision of the RB, and the test of its batch. -/
theorem handOver_eq (s : State) (r : Recipe) (k : RepeatRecord) (c : Word) :
    handOver s r k c = freeTestOf
      (match (s.handed r k c).buildingRoll with
        | some x => decideBuilding (s.handed r k c) r (overtake s k).2 c x
        | none => decideAlone (s.handed r k c) r (overtake s k).2 c) k.shade := by
  have key : ∀ (t : State) (h : HandOver), ({ lowerQueued { t with rt := { t.rt with queue := t.rt.queue.tail } } k.shade
      with rb := { (lowerQueued { t with rt := { t.rt with queue := t.rt.queue.tail } } k.shade).rb with
        lastHandOver := some h } } : State) =
      lowerQueued { t with
        rt := { t.rt with queue := t.rt.queue.tail }
        rb := { t.rb with lastHandOver := some h } } k.shade := by
    intro t h
    cases k.shade <;> rfl
  unfold handOver builderTake State.handed
  rcases overtake_cases s k with ⟨h, e⟩ | ⟨h, e⟩
  · simp only [e, h, if_true, key]
    all_goals rfl
  · simp only [e, h, if_false, key]
    all_goals rfl

theorem isGood_missed (k : RepeatRecord) : k.missed.isGood = false := by
  simp [RepeatRecord.isGood, RepeatRecord.missed]

theorem isGood_facts (k : RepeatRecord) (h : k.isGood = true) :
    k.emboss = .matched ∧ k.major = false ∧ ∃ code, k.shade = .batch code := by
  simp only [RepeatRecord.isGood, Bool.and_eq_true] at h
  obtain ⟨⟨⟨⟨⟨⟨⟨⟨_, _⟩, _⟩, h4⟩, _⟩, _⟩, h7⟩, h8⟩, _⟩ := h
  refine ⟨by simpa using h4, by simpa using h8, ?_⟩
  rcases hs : k.shade with _ | code | _ <;> simp_all

/-- What the RB sees of a record handed over. -/
theorem overtake_isGood (s : State) (k : RepeatRecord) : (overtake s k).2.isGood = k.isGood := by
  rcases overtake_cases s k with ⟨h, e⟩ | ⟨h, e⟩
  · rw [e]
    rcases hg : k.isGood with _ | _
    · exact isGood_missed k
    · have := (isGood_facts k hg).1
      simp [h] at this
  · rw [e]

theorem overtake_record (s : State) (k : RepeatRecord) :
    (overtake s k).2.shade = k.shade ∧ (overtake s k).2.knifeMissed = k.knifeMissed ∧
    (∀ r, (overtake s k).2.creditedLen r = k.creditedLen r) ∧ (overtake s k).2.seq = k.seq ∧
    (overtake s k).2.reading = k.reading ∧ (overtake s k).2.minorCount = k.minorCount := by
  rcases overtake_cases s k with ⟨h, e⟩ | ⟨h, e⟩
  · rw [e]
    exact ⟨rfl, rfl, fun _ => rfl, rfl, rfl, rfl⟩
  · rw [e]
    exact ⟨rfl, rfl, fun _ => rfl, rfl, rfl, rfl⟩

@[simp] theorem handed_rb (s : State) (r : Recipe) (k : RepeatRecord) (c : Word) :
    (s.handed r k c).rb = { s.rb with lastHandOver := some ⟨c, k.creditedLen r⟩ } := by
  unfold State.handed
  rw [(lowerQueued_frame _ _).2.2.1]

theorem handed_keeps (s : State) (r : Recipe) (k : RepeatRecord) (c : Word) :
    (s.handed r k c).ks = s.ks ∧ (s.handed r k c).ps = s.ps ∧ (s.handed r k c).wpu.reach = s.wpu.reach ∧
    (s.handed r k c).wpu.le = s.wpu.le ∧ (s.handed r k c).sc.session = s.sc.session ∧
    (s.handed r k c).rt = { s.rt with queue := s.rt.queue.tail } := by
  unfold State.handed
  rcases hs : k.shade with _ | code | _ <;> by_cases h : k.emboss = .awaiting <;>
    simp [lowerQueued, h, State.updateBatch]

/-- R123: what the RB does with a record that starts no roll, whatever its batch. -/
theorem decideOwn_bad (s : State) (r : Recipe) (k : RepeatRecord) (c : Word)
    (h : k.isGood = false ∨ k.knifeMissed = true) : decideOwn s r k c = (goWaste s, none) := by
  unfold decideOwn
  split
  · rcases h with h | h <;> simp [h]
  all_goals rfl

/-- R54, R123: outside a roll a record that is not good goes to waste. -/
theorem handOver_wasted (s : State) (r : Recipe) (k : RepeatRecord) (c : Word) (hn : s.BuildsNone)
    (h : k.isGood = false ∨ k.knifeMissed = true) : handOver s r k c = s.wasted r k c := by
  have hb : (s.handed r k c).buildingRoll = none := by
    unfold State.buildingRoll
    rw [handed_rb]
    rcases hs : s.rb.segment with _ | n | _ | _
    · rfl
    · exact absurd hs (hn n)
    all_goals rfl
  rw [handOver_eq, hb]
  simp only [decideAlone]
  rw [decideOwn_bad]
  · rfl
  · rw [overtake_isGood, (overtake_record s k).2.1]
    exact h

theorem handed_building (s : State) (r : Recipe) (k : RepeatRecord) (c : Word) (x : Roll) (h : s.Builds x) :
    (s.handed r k c).buildingRoll = some x := by
  unfold State.buildingRoll
  rw [handed_rb]
  simp only [h.1]
  rw [State.findRoll, handed_rb]
  exact h.2.1

theorem Builds.mem {s : State} {x : Roll} (h : s.Builds x) : x ∈ s.rb.rolls := List.mem_of_find?_eq_some h.2.1

/-- The one roll of its serial, changed. -/
theorem Builds.update {s t : State} {x : Roll} (h : s.Builds x) (ht : t.rb.rolls = s.rb.rolls) (f : Roll → Roll) :
    t.updateRoll x.serial f = { t with rb := { t.rb with
      rolls := s.rb.rolls.map fun y => if y.serial = x.serial then f x else y } } := by
  rw [State.updateRoll, ht, updateBy_eq_map Roll.serial s.rb.rolls x f h.2.2.2 (Builds.mem h)]

/-- R119: a fold. -/
theorem fold_grown (x : Roll) (r : Recipe) (k : RepeatRecord) : x.fold k (k.creditedLen r) = x.grown r k := by
  unfold Roll.fold Roll.grown RepeatRecord.minorCount satAdd
  rw [List.countP_eq_length_filter]
  cases k.reading <;> rfl

theorem overtake_grown (s : State) (x : Roll) (r : Recipe) (k : RepeatRecord) :
    x.fold (overtake s k).2 ((overtake s k).2.creditedLen r) = x.grown r k := by
  obtain ⟨_, _, h3, h4, h5, h6⟩ := overtake_record s k
  rw [← fold_grown]
  simp only [Roll.fold, h3, h4, h5, h6]

theorem addHold_trackingFault (x : Roll) (h : x.state = .building) : x.addHold HoldFlags.ofTrackingFault = x.faulted := by
  simp [Roll.addHold, h, Roll.faulted, HoldFlags.join_trackingFault]

/-- R118: a good record of the roll's batch is folded into a roll below L_ord. -/
theorem handOver_folded (s : State) (r : Recipe) (k : RepeatRecord) (c : Word) (x : Roll) (hx : s.Builds x)
    (hl : x.length < r.lOrd) (hk : k.knifeMissed = false) (hg : k.isGood = true) (hb : k.shade = .batch x.batch) :
    handOver s r k c = s.folded r k c (x.grown r k) := by
  obtain ⟨h1, h2, _⟩ := overtake_record s k
  rw [handOver_eq, handed_building s r k c x hx]
  simp only [decideBuilding, not_le.2 hl, if_false, h2, hk, overtake_isGood, hg, h1, hb, Bool.false_eq_true,
    beq_self_eq_true, Bool.and_self, if_true]
  rw [Builds.update hx (by rw [handed_rb])]
  simp only [overtake_grown]
  rw [State.folded, hb]
  rfl

/-- R117: a record that the knife missed is folded into a roll below L_ord, with TRACKING_FAULT. -/
theorem handOver_skipped (s : State) (r : Recipe) (k : RepeatRecord) (c : Word) (x : Roll) (hx : s.Builds x)
    (hl : x.length < r.lOrd) (hk : k.knifeMissed = true) :
    handOver s r k c = s.folded r k c (x.grown r k).faulted := by
  obtain ⟨_, h2, _⟩ := overtake_record s k
  have key : ∀ t : State, (t.updateRoll x.serial fun y => y.fold (overtake s k).2 ((overtake s k).2.creditedLen r)).updateRoll
      x.serial (fun y => y.addHold HoldFlags.ofTrackingFault) = t.updateRoll x.serial fun y =>
        (y.fold (overtake s k).2 ((overtake s k).2.creditedLen r)).addHold HoldFlags.ofTrackingFault := by
    intro t
    simp only [State.updateRoll]
    rw [updateBy_updateBy (h := ?_)]
    exact fun _ => rfl
  rw [handOver_eq, handed_building s r k c x hx]
  simp only [decideBuilding, not_le.2 hl, if_false, h2, hk, if_true, trackingFault]
  rw [key, Builds.update hx (by rw [handed_rb])]
  rw [overtake_grown, addHold_trackingFault (x.grown r k) hx.2.2.1]
  rfl

/-! ### Closes -/

/-- R116, R118, R120: the class of a roll that closes at a record of a run. -/
theorem closeClass_full (x : Roll) (r : Recipe) (h : r.lOrd ≤ x.length) : x.closeClass r = .full := by
  simp [Roll.closeClass, h]

theorem closeClass_early (x : Roll) (r : Recipe) (h : x.length < r.lOrd) : x.closeClass r = x.earlyClass r := by
  simp [Roll.closeClass, not_le.2 h, Roll.earlyClass]

/-- The roll as it closes at the record k: with TRACKING_FAULT when the knife missed the record (R117). -/
def closing (k : RepeatRecord) (x : Roll) : Roll := if k.knifeMissed then x.faulted else x

theorem decideBuilding_closes (s t : State) (r : Recipe) (k : RepeatRecord) (c : Word) (x : Roll) 
    (h : ClosesAt r k x) :
    decideBuilding t r (overtake s k).2 c x =
      closeAt (if k.knifeMissed then trackingFault t x.serial else t) r (overtake s k).2 c x (x.closeClass r) := by
  obtain ⟨h1, h2, _⟩ := overtake_record s k
  by_cases hl : r.lOrd ≤ x.length
  · simp only [decideBuilding, hl, if_true, h2, closeClass_full x r hl]
  · rcases h with h | ⟨hk, h⟩
    · exact absurd h hl
    · have hf : (k.isGood && k.shade == .batch x.batch) = false := by
        rcases h with h | h <;> simp [h]
      simp only [decideBuilding, hl, if_false, h2, hk, overtake_isGood, h1, hf, Bool.false_eq_true,
        closeClass_early x r (not_le.1 hl)]

/-- The roll that closes at a record, as the table holds it before its END cut is queued. -/
theorem markEnding_closing (s t : State) (k : RepeatRecord) (x : Roll) (cls : RollClass) (hx : s.Builds x)
    (ht : t.rb.rolls = s.rb.rolls) :
    markEnding (if k.knifeMissed then trackingFault t x.serial else t) x.serial cls =
      { t with rb := { t.rb with rolls := s.rb.rolls.map fun y => if y.serial = x.serial then
        { closing k x with cls := some cls, state := .ending } else y } } := by
  rcases hk : k.knifeMissed with _ | _
  · simp only [markEnding, closing, hk, Bool.false_eq_true, if_false]
    rw [Builds.update hx ht]
  · simp only [markEnding, closing, hk, if_true, trackingFault, State.updateRoll]
    rw [updateBy_updateBy (h := ?_), ht, updateBy_eq_map Roll.serial s.rb.rolls x _ hx.2.2.2 (Builds.mem hx),
      addHold_trackingFault x hx.2.2.1]
    intro y
    unfold Roll.addHold
    split_ifs <;> rfl

theorem closing_keeps (k : RepeatRecord) (x : Roll) (r : Recipe) :
    (closing k x).serial = x.serial ∧ (closing k x).phase = x.phase ∧ (closing k x).closeClass r = x.closeClass r ∧
    (closing k x).batch = x.batch := by
  unfold closing
  split_ifs <;> exact ⟨rfl, rfl, rfl, rfl⟩

/-- The state in which the RB decides on the record at which the roll x closed: the roll is ENDING, its end position not
yet set, and the record is waste. -/
def State.closedBare (u : State) (r : Recipe) (k : RepeatRecord) (c : Word) (x : Roll) : State :=
  { u.closed r k c x 0 with rb := { (u.closed r k c x 0).rb with
    rolls := u.rb.rolls.map fun y => if y.serial = x.serial then
      { x with cls := some (x.closeClass r), state := .ending } else y } }

/-- R133: the end position is recorded. -/
theorem closedBare_endPos (s : State) (r : Recipe) (k : RepeatRecord) (c : Word) (x : Roll) (pos : Word) :
    ((s.closedBare r k c x).updateRoll x.serial fun y => { y with endPos := some pos }) =
      s.closed r k c x pos := by
  simp only [State.closedBare, State.closed, State.updateRoll, updateBy, List.map_map]
  congr 2
  apply List.map_congr_left
  intro y _
  by_cases h : y.serial = x.serial <;> simp [h]

/-- What the close of the roll makes of the state, before its cut and the decision on the record. -/
theorem closing_state (s : State) (r : Recipe) (k : RepeatRecord) (c : Word) (x : Roll) (hx : s.Builds x) (t : State)
    (ht : t = turnDrop (markEnding (if k.knifeMissed then trackingFault (s.handed r k c) x.serial else s.handed r k c)
      x.serial (x.closeClass r)) r x.phase (x.closeClass r)) :
    (x.LeavesTrim r →
      { t with rb := { t.rb with segment := .awaitA, pendingDrop := true } } = s.closedBare r k c (closing k x)) ∧
    (¬x.LeavesTrim r → goWaste t = s.closedBare r k c (closing k x)) := by
  obtain ⟨c1, c2, c3, _⟩ := closing_keeps k x r
  subst ht
  rw [markEnding_closing s _ k x _ hx (by rw [handed_rb]), turnDrop_eq]
  constructor
  · intro h
    have h' : r.mode = .drop ∧ x.phase = .b ∧ x.closeClass r ≠ .remnant := h
    simp [State.closedBare, State.closed, c1, c2, c3, h']
  · intro h
    have h' : ¬(r.mode = .drop ∧ x.phase = .b ∧ x.closeClass r ≠ .remnant) := h
    simp only [State.closedBare, State.closed, goWaste, c1, c2, c3, h', if_false, decide_false, Bool.or_false]
    simp

/-- R116 to R121: a roll closes at a record; the record is trim, or is decided on its own. -/
theorem handOver_closes (s : State) (r : Recipe) (k : RepeatRecord) (c : Word) (x : Roll) (hx : s.Builds x)
    (h : ClosesAt r k x) :
    (x.LeavesTrim r → handOver s r k c = freeTestOf (queueCut (s.closedBare r k c (closing k x))
      (endCut (r.fireAt c (k.creditedLen r) x.phase) x.serial)) k.shade) ∧
    (¬x.LeavesTrim r → handOver s r k c = freeTestOf
      (queueClose (decideOwn (s.closedBare r k c (closing k x)) r (overtake s k).2 c).1 x
        (r.fireAt c (k.creditedLen r) x.phase)
        (decideOwn (s.closedBare r k c (closing k x)) r (overtake s k).2 c).2) k.shade) := by
  obtain ⟨h1, h2⟩ := closing_state s r k c x hx _ rfl
  obtain ⟨_, _, h3, _⟩ := overtake_record s k
  have e : handOver s r k c = freeTestOf (closeAt
      (if k.knifeMissed then trackingFault (s.handed r k c) x.serial else s.handed r k c) r (overtake s k).2 c x
      (x.closeClass r)) k.shade := by
    rw [handOver_eq, handed_building s r k c x hx]
    simp only
    rw [decideBuilding_closes s _ r k c x h]
  rw [e]
  constructor
  · intro ht
    have ht' : r.mode = .drop ∧ x.phase = .b ∧ x.closeClass r ≠ .remnant := ht
    simp only [closeAt, if_pos ht', queueClose, h1 ht, h3, firePos_eq]
  · intro ht
    have ht' : ¬(r.mode = .drop ∧ x.phase = .b ∧ x.closeClass r ≠ .remnant) := ht
    simp only [closeAt, if_neg ht', h2 ht, h3, firePos_eq]

theorem closedBare_keeps (s : State) (r : Recipe) (k : RepeatRecord) (c : Word) (x : Roll) :
    (s.closedBare r k c x).ks = s.ks ∧ (s.closedBare r k c x).ps = s.ps ∧
    (s.closedBare r k c x).wpu.reach = s.wpu.reach ∧ (s.closedBare r k c x).rt = { s.rt with queue := s.rt.queue.tail } ∧
    (s.closedBare r k c x).rb.rolls.length = s.rb.rolls.length := by
  obtain ⟨h1, h2, h3, _, _, h6⟩ := handed_keeps s r k c
  refine ⟨h1, h2, h3, h6, ?_⟩
  simp [State.closedBare]

theorem closedBare_noStray (s : State) (r : Recipe) (k : RepeatRecord) (c : Word) (x : Roll) (hr : NoStrayReach s) :
    NoStrayReach (s.closedBare r k c x) := by
  obtain ⟨h1, _, h3, _⟩ := closedBare_keeps s r k c x
  unfold NoStrayReach
  rw [h1, h3]
  exact hr

/-- R120, R121: a roll closes at a record that is trim, or that starts no roll. -/
theorem handOver_closed (s : State) (r : Recipe) (k : RepeatRecord) (c : Word) (x : Roll) (q : Cut) (hx : s.Builds x)
    (h : ClosesAt r k x) (ht : x.LeavesTrim r ∨ k.isGood = false ∨ k.knifeMissed = true) (hr : NoStrayReach s)
    (hq : s.ks.Queues ⟨r.fireAt c (k.creditedLen r) x.phase, .ends x.serial, .waste, false⟩ q) :
    handOver s r k c = freeTestOf ((s.closed r k c (closing k x) q.pos).placed q) k.shade := by
  obtain ⟨h1, h2⟩ := handOver_closes s r k c x hx h
  have c1 := (closing_keeps k x r).1
  have e : queueCut (s.closedBare r k c (closing k x)) (endCut (r.fireAt c (k.creditedLen r) x.phase) x.serial) =
      (s.closed r k c (closing k x) q.pos).placed q := by
    rw [queueCut_ends _ _ _ q (by rw [(closedBare_keeps s r k c _).1]; exact hq) (closedBare_noStray s r k c _ hr), ← c1,
      closedBare_endPos]
  by_cases hl : x.LeavesTrim r
  · rw [h1 hl, e]
  · rw [h2 hl, decideOwn_bad]
    · have g : goWaste (s.closedBare r k c (closing k x)) = s.closedBare r k c (closing k x) := by
        have hl' : ¬((closing k x).LeavesTrim r) := by
          obtain ⟨_, c2, c3, _⟩ := closing_keeps k x r
          unfold Roll.LeavesTrim
          rw [c2, c3]
          exact hl
        unfold Roll.LeavesTrim at hl'
        simp only [goWaste, State.closedBare, State.closed, if_neg hl']
      simp only [queueClose, g, e]
    · rw [overtake_isGood, (overtake_record s k).2.1]
      exact ht.resolve_left hl


/-! ### Starts -/

theorem insertBy_last {α : Type} (key : α → Nat) (x : α) (l : List α) (h : ∀ y ∈ l, key y ≤ key x) :
    insertBy key x l = l ++ [x] := by
  induction l with
  | nil => rfl
  | cons y ys ih =>
    rw [insertBy, if_neg (not_lt.2 (h y (by simp))), ih fun z hz => h z (by simp [hz])]
    rfl

theorem reserveRoll_reservedTo (ps : PersistentStore) (c : Counters) (h : ps.reserved = some c) :
    ps.reserveRoll = ps.reservedTo { c with roll := c.roll + 1 } := by
  unfold PersistentStore.reserveRoll PersistentStore.requestCommit PersistentStore.reservedTo PersistentStore.reservedNow
  rw [h]
  simp only [Option.getD_some]
  cases ps.op <;> rfl

theorem reserveBatch_reservedTo (ps : PersistentStore) (c : Counters) (h : ps.reserved = some c) :
    ps.reserveBatch = ps.reservedTo { c with batch := c.batch + 1 } := by
  unfold PersistentStore.reserveBatch PersistentStore.requestCommit PersistentStore.reservedTo PersistentStore.reservedNow
  rw [h]
  simp only [Option.getD_some]
  cases ps.op <;> rfl

theorem reservedNow_some (ps : PersistentStore) (c : Counters) (h : ps.reserved = some c) : ps.reservedNow = c := by
  rw [PersistentStore.reservedNow, h, Option.getD_some]

theorem startPhase_next (rb : RollBuilder) (r : Recipe) : rb.startPhase r = rb.nextPhase r := by
  unfold RollBuilder.startPhase RollBuilder.nextPhase
  rcases r.mode with _ | _
  · simp
  · rcases rb.pendingDrop with _ | _ <;> simp

/-- R126: the look-ahead scan. -/
theorem lookAheadScan_iff (r : Recipe) (code : Nat) (l : List RepeatRecord) (g : Nat) :
    lookAheadScan r code l g = false ↔ ∃ pre x post, l = pre ++ x :: post ∧
      g + (pre.map fun y => y.creditedLen r).sum < r.lShort ∧
      (x.knownBad = true ∨ (x.shade ≠ .pending ∧ x.shade ≠ .batch code)) := by
  induction l generalizing g with
  | nil => simp [lookAheadScan]
  | cons y ys ih =>
    rw [lookAheadScan]
    by_cases h : r.lShort ≤ g
    · simp only [h, if_true, Bool.true_eq_false, false_iff]
      rintro ⟨pre, x, post, _, hs, _⟩
      omega
    · simp only [h, if_false]
      by_cases hb : (y.knownBad || y.shade != .pending && y.shade != .batch code) = true
      · simp only [hb, if_true, true_iff]
        refine ⟨[], y, ys, rfl, by simpa using h, ?_⟩
        simpa using hb
      · simp only [hb, if_false, ih, Bool.false_eq_true]
        constructor
        · rintro ⟨pre, x, post, rfl, hs, hx⟩
          exact ⟨y :: pre, x, post, rfl, by simp; omega, hx⟩
        · rintro ⟨pre, x, post, he, hs, hx⟩
          rcases pre with _ | ⟨z, pre⟩
          · simp only [List.nil_append, List.cons.injEq] at he
            rw [he.1] at hb
            exfalso
            apply hb
            simpa using hx
          · simp only [List.cons_append, List.cons.injEq] at he
            refine ⟨pre, x, post, he.2, ?_, hx⟩
            simp only [List.map_cons, List.sum_cons] at hs
            rw [he.1]
            omega

/-- R128 to R130: a roll that starts. -/
theorem startRoll_begun (t : State) (r : Recipe) (k : RepeatRecord) (c : Word) (code : Nat) (n : Counters)
    (hn : t.ps.reserved = some n) (hs : ∀ y ∈ t.rb.rolls, y.serial ≤ n.roll) (hm : k.major = false) :
    startRoll t r k c code = (t.begun r k code n (r.fireAt c (k.creditedLen r) (t.rb.nextPhase r)),
      some (newRoll r k c (n.roll + 1) code (t.rb.nextPhase r))) := by
  have hmin : satAdd 255 0 k.minorCount = min 255 ((k.defects.filter fun d => d.severity == .minor).length + k.overflow) := by
    simp [satAdd, RepeatRecord.minorCount, hm, List.countP_eq_length_filter]
  unfold startRoll State.begun warnTableLow
  simp only [reservedNow_some _ _ hn, reserveRoll_reservedTo _ _ hn, startPhase_next]
  rw [insertBy_last Roll.serial _ _ fun y hy => Nat.le_succ_of_le (hs y hy)]
  simp only [newRoll, firePos_eq, hmin, State.updateBatch, updateBy, Config.rollTableLow]

/-- R133: the start position as queued. -/
theorem begun_startPos (t : State) (r : Recipe) (k : RepeatRecord) (code : Nat) (n : Counters) (p q : Word)
    (hs : ∀ y ∈ t.rb.rolls, y.serial ≤ n.roll) :
    ((t.begun r k code n p).updateRoll (n.roll + 1) fun x => { x with startPos := q }) = t.begun r k code n q := by
  have e : (t.rb.rolls.map fun x => if x.serial = n.roll + 1 then { x with startPos := q } else x) = t.rb.rolls := by
    conv_rhs => rw [← List.map_id t.rb.rolls]
    apply List.map_congr_left
    intro x hx
    have := hs x hx
    simp [show x.serial ≠ n.roll + 1 by omega]
  unfold State.begun
  simp only [List.length_append, List.length_cons, List.length_nil]
  split_ifs <;> simp [State.updateRoll, updateBy, e] <;> rfl

/-- A change of a roll that stood in the table before the start. -/
theorem begun_updateRoll (t : State) (r : Recipe) (k : RepeatRecord) (code : Nat) (n : Counters) (p : Word) (m : Nat)
    (f : Roll → Roll) (hm : m ≤ n.roll) :
    (t.begun r k code n p).updateRoll m f = (t.updateRoll m f).begun r k code n p := by
  have h : n.roll + 1 ≠ m := by omega
  unfold State.begun
  simp only [List.length_append, List.length_cons, List.length_nil, State.updateRoll, updateBy, List.length_map]
  split_ifs <;> simp [h] <;> rfl

theorem begun_keeps (t : State) (r : Recipe) (k : RepeatRecord) (code : Nat) (n : Counters) (p : Word) :
    (t.begun r k code n p).ks = t.ks ∧ (t.begun r k code n p).wpu = t.wpu := by
  unfold State.begun
  simp only
  split_ifs <;> exact ⟨rfl, rfl⟩

theorem overtake_good (s : State) (k : RepeatRecord) (h : k.isGood = true) : overtake s k = (s, k) := by
  have := (isGood_facts k h).1
  simp [overtake, this]

theorem lookAhead_allows (r : Recipe) (k : RepeatRecord) (code : Nat) (q l : List RepeatRecord) (hq : q = l)
    (ha : r.lookAhead = true → ¬LookAheadForbids r k code l) :
    (r.lookAhead && !lookAheadScan r code q (k.creditedLen r)) = false := by
  rcases hla : r.lookAhead with _ | _
  · rfl
  · rw [Bool.true_and, Bool.not_eq_false', hq]
    rcases hsc : lookAheadScan r code l (k.creditedLen r) with _ | _
    · exact absurd ((lookAheadScan_iff r code _ _).1 hsc) (ha hla)
    · rfl

/-- R123, R125: a record that starts a roll, decided in the state t that its hand-over from u led to. -/
theorem decideOwn_starts (u t : State) (r : Recipe) (k : RepeatRecord) (c : Word) (code : Nat) (n : Counters)
    (h : u.Starts r k code n) (hk : k.knifeMissed = false) (hp : t.ps = u.ps) (hq : t.rt.queue = u.rt.queue.tail)
    (hl : t.rb.rolls.length = u.rb.rolls.length) (hs : ∀ y ∈ t.rb.rolls, y.serial ≤ n.roll) :
    decideOwn t r k c = (t.begun r k code n (r.fireAt c (k.creditedLen r) (t.rb.nextPhase r)),
      some (newRoll r k c (n.roll + 1) code (t.rb.nextPhase r))) := by
  obtain ⟨hg, hb, h16, hla, hn, hx, _⟩ := h
  have hn' : t.ps.reserved = some n := by rw [hp, hn]
  have hscan := lookAhead_allows r k code _ _ hq hla
  have h16' : ¬Config.rollCapacity ≤ t.rb.rolls.length := by
    rw [hl]
    exact not_le.2 h16
  have hx' : ¬Config.maxWord ≤ n.roll := not_le.2 hx
  simp only [decideOwn, hb, hg, hk, Bool.not_false, Bool.and_self, if_true, tryStart, h16', if_false, hscan,
    Bool.false_eq_true, reservedNow_some _ _ hn', hx']
  exact startRoll_begun t r k c code n hn' hs (isGood_facts k hg).2.1

theorem handed_none (s : State) (r : Recipe) (k : RepeatRecord) (c : Word) (hn : s.BuildsNone) :
    (s.handed r k c).buildingRoll = none := by
  unfold State.buildingRoll
  rw [handed_rb]
  rcases hs : s.rb.segment with _ | n | _ | _
  · rfl
  · exact absurd hs (hn n)
  all_goals rfl

theorem handed_noStray (s : State) (r : Recipe) (k : RepeatRecord) (c : Word) (hr : NoStrayReach s) :
    NoStrayReach (s.handed r k c) := by
  obtain ⟨h1, _, h3, _⟩ := handed_keeps s r k c
  unfold NoStrayReach
  rw [h1, h3]
  exact hr

/-- R125, R128 to R132: outside a roll a record starts one, and its START cut is queued. -/
theorem handOver_starts (s : State) (r : Recipe) (k : RepeatRecord) (c : Word) (code : Nat) (n : Counters) (q : Cut)
    (hb : s.BuildsNone) (h : s.Starts r k code n) (hk : k.knifeMissed = false) (hr : NoStrayReach s)
    (hq : s.ks.Queues ⟨r.fireAt c (k.creditedLen r) (s.rb.nextPhase r), .starts (n.roll + 1), .roll, false⟩ q) :
    handOver s r k c = freeTestOf (((s.handed r k c).begun r k code n q.pos).placed q) k.shade := by
  obtain ⟨h1, h2, h3, _, _, h6⟩ := handed_keeps s r k c
  have hph : (s.handed r k c).rb.nextPhase r = s.rb.nextPhase r := by
    rw [handed_rb]
    rfl
  have hs : ∀ y ∈ (s.handed r k c).rb.rolls, y.serial ≤ n.roll := by
    rw [handed_rb]
    exact h.2.2.2.2.2.2
  rw [handOver_eq, handed_none s r k c hb, overtake_good s k h.1]
  simp only [decideAlone]
  rw [decideOwn_starts s _ r k c code n h hk h2 (by rw [h6]) (by rw [handed_rb]) hs]
  simp only [newRoll, firePos_eq, hph]
  rw [queueCut_starts _ _ _ q (by rw [(begun_keeps _ r k code n _).1, h1]; exact hq) ?_, begun_startPos _ _ _ _ _ _ _ hs]
  unfold NoStrayReach
  rw [(begun_keeps _ r k code n _).1, (begun_keeps _ r k code n _).2]
  exact handed_noStray s r k c hr

/-- R125, R126: a good record that starts no roll, decided in the state t that its hand-over from u led to. -/
theorem decideOwn_refused (u t : State) (r : Recipe) (k : RepeatRecord) (c : Word) (ev : Option EventReport)
    (h : u.RefusesStart r k ev) (hk : k.knifeMissed = false) (hp : t.ps = u.ps) (hq : t.rt.queue = u.rt.queue.tail)
    (hl : t.rb.rolls.length = u.rb.rolls.length) : decideOwn t r k c = ((goWaste t).logged ev, none) := by
  obtain ⟨hg, code, hs, h⟩ := h
  simp only [decideOwn, hs, hg, hk, Bool.not_false, Bool.and_self, if_true]
  rcases h with ⟨h, rfl⟩ | ⟨h, ha, hf, rfl⟩ | ⟨h, ha, ⟨n, hn, hx⟩, rfl⟩
  · have h' : Config.rollCapacity ≤ t.rb.rolls.length := by
      rw [hl]
      exact h
    simp only [tryStart, if_pos h']
    rfl
  · have h' : ¬Config.rollCapacity ≤ t.rb.rolls.length := by
      rw [hl]
      exact not_le.2 h
    have hsc : lookAheadScan r code t.rt.queue (k.creditedLen r) = false := by
      rw [hq]
      exact (lookAheadScan_iff r code _ _).2 hf
    simp only [tryStart, if_neg h', ha, hsc, Bool.not_false, Bool.and_self, if_true]
    rfl
  · have h' : ¬Config.rollCapacity ≤ t.rb.rolls.length := by
      rw [hl]
      exact not_le.2 h
    have hn' : t.ps.reserved = some n := by rw [hp, hn]
    have hx' : Config.maxWord ≤ n.roll := by
      rw [hx]
      exact le_refl _
    simp only [tryStart, if_neg h', lookAhead_allows r k code _ _ hq ha, Bool.false_eq_true, if_false,
      reservedNow_some _ _ hn', if_pos hx']
    rfl

theorem logged_keeps (t : State) (ev : Option EventReport) : (t.logged ev).ks = t.ks ∧ (t.logged ev).wpu = t.wpu := by
  cases ev <;> exact ⟨rfl, rfl⟩

/-- R125, R126, R130: outside a roll a good record that starts none goes to waste. -/
theorem handOver_refused (s : State) (r : Recipe) (k : RepeatRecord) (c : Word) (ev : Option EventReport)
    (h : s.RefusesStart r k ev) (hk : k.knifeMissed = false) (hb : s.BuildsNone) :
    handOver s r k c = freeTestOf (State.logged
      { s.handed r k c with rb := { (s.handed r k c).rb with segment := .waste } } ev) k.shade := by
  obtain ⟨h1, h2, h3, _, _, h6⟩ := handed_keeps s r k c
  rw [handOver_eq, handed_none s r k c hb, overtake_good s k h.1]
  simp only [decideAlone]
  rw [decideOwn_refused s _ r k c ev h hk h2 (by rw [h6]) (by rw [handed_rb])]
  rfl

/-! ### A start at a close -/

theorem starts_serials (s : State) (r : Recipe) (k : RepeatRecord) (c : Word) (x : Roll) (m : Nat)
    (hx : s.Builds x) (h : ∀ y ∈ s.rb.rolls, y.serial ≤ m) : ∀ y ∈ (s.closedBare r k c x).rb.rolls, y.serial ≤ m := by
  intro y hy
  simp only [State.closedBare, List.mem_map] at hy
  obtain ⟨z, hz, rfl⟩ := hy
  split
  · exact h x (Builds.mem hx)
  · exact h z hz

/-- R121, R132: a record at which a roll closes starts another at the same phase: one END_START cut. -/
theorem handOver_endStart (s : State) (r : Recipe) (k : RepeatRecord) (c : Word) (x : Roll) (code : Nat) (n : Counters)
    (q : Cut) (hx : s.Builds x) (h : ClosesAt r k x) (hl : ¬x.LeavesTrim r) (hs : s.Starts r k code n)
    (hk : k.knifeMissed = false) (hr : NoStrayReach s) (hp : (s.closed r k c x q.pos).rb.nextPhase r = x.phase)
    (hq : s.ks.Queues ⟨r.fireAt c (k.creditedLen r) x.phase, .endStart x.serial (n.roll + 1), .roll, false⟩ q) :
    handOver s r k c = freeTestOf (((s.closed r k c x q.pos).begun r k code n q.pos).placed q) k.shade := by
  obtain ⟨k1, k2, k3, k4, k5⟩ := closedBare_keeps s r k c x
  have hser := starts_serials s r k c x n.roll hx hs.2.2.2.2.2.2
  have hc : closing k x = x := by simp [closing, hk]
  have hph : (s.closedBare r k c x).rb.nextPhase r = x.phase := hp
  rw [(handOver_closes s r k c x hx h).2 hl, hc, overtake_good s k hs.1,
    decideOwn_starts s _ r k c code n hs hk k2 (by rw [k4]) k5 hser]
  simp only [queueClose, hph, newRoll, if_true]
  rw [queueCut_endStart _ _ _ _ q (by rw [(begun_keeps _ r k code n _).1, k1]; exact hq) ?_, begun_startPos _ _ _ _ _ _ _ hser,
    begun_updateRoll _ _ _ _ _ _ _ _ (hs.2.2.2.2.2.2 x (Builds.mem hx)), closedBare_endPos]
  unfold NoStrayReach
  rw [(begun_keeps _ r k code n _).1, (begun_keeps _ r k code n _).2]
  exact closedBare_noStray s r k c x hr

/-- R121, R125, R132: a record at which a roll closes starts none: the END cut alone is queued. -/
theorem handOver_closedRefused (s : State) (r : Recipe) (k : RepeatRecord) (c : Word) (x : Roll)
    (ev : Option EventReport) (q : Cut) (hx : s.Builds x) (h : ClosesAt r k x) (hl : ¬x.LeavesTrim r)
    (he : s.RefusesStart r k ev) (hk : k.knifeMissed = false) (hr : NoStrayReach s)
    (hq : s.ks.Queues ⟨r.fireAt c (k.creditedLen r) x.phase, .ends x.serial, .waste, false⟩ q) :
    handOver s r k c = freeTestOf (((s.closed r k c x q.pos).logged ev).placed q) k.shade := by
  obtain ⟨k1, k2, k3, k4, k5⟩ := closedBare_keeps s r k c x
  have hc : closing k x = x := by simp [closing, hk]
  have g : goWaste (s.closedBare r k c x) = s.closedBare r k c x := by
    unfold Roll.LeavesTrim at hl
    simp only [goWaste, State.closedBare, State.closed, if_neg hl]
  rw [(handOver_closes s r k c x hx h).2 hl, hc, overtake_good s k he.1,
    decideOwn_refused s _ r k c ev he hk k2 (by rw [k4]) k5]
  simp only [queueClose, g]
  have hns : NoStrayReach ((s.closedBare r k c x).logged ev) := by
    unfold NoStrayReach
    rw [(logged_keeps _ ev).1, (logged_keeps _ ev).2]
    exact closedBare_noStray s r k c x hr
  rw [queueCut_ends _ _ _ q (by rw [(logged_keeps _ ev).1, k1]; exact hq) hns, ← closedBare_endPos]
  cases ev <;> rfl

theorem noStray_placed (s : State) (q : Cut) : NoStrayReach (s.placed q) := by
  unfold NoStrayReach State.placed
  split_ifs
  · intro _
    rfl
  · intro h
    simp at h
  · intro h
    simp at h

/-- A change of a roll that the placing of an END cut does not see. -/
theorem placed_updateRoll (s : State) (q : Cut) (n m : Nat) (f : Roll → Roll) (hq : q.kind = .ends n) :
    (s.updateRoll m f).placed q = (s.placed q).updateRoll m f := by
  have e : ∀ (t : State) (rest : List Cut), (t.updateRoll m f).fired q rest = (t.fired q rest).updateRoll m f := by
    intro t rest
    have hp : (t.updateRoll m f).ps = t.ps := rfl
    have hw : (t.updateRoll m f).wpu = t.wpu := rfl
    unfold State.fired
    by_cases h : (q.raised || decide ((t.ps.setup.lateTol : Int) < signedDistance q.pos t.wpu.le)) = true
    · simp only [hp, hw, h, hq, CutKind.starting, if_true, reduceCtorEq, false_and, and_false, if_false, List.map_id']
      rfl
    · simp only [hp, hw, h, hq, CutKind.starting, reduceCtorEq, false_and, and_false, if_false, List.map_id']
      rfl
  unfold State.placed
  by_cases h1 : s.ks.queue = []
  · by_cases h2 : isReached s.wpu.le q.pos = true ∧ s.ks.outstanding = none
    · simp only [State.updateRoll, h1, h2, if_true, and_self]
      exact e s []
    · simp only [State.updateRoll, h1, h2, if_true, if_false]
  · simp only [State.updateRoll, h1, if_false]

/-- R121, R132: a record at which a roll closes starts another at the other phase: an END cut, then a START cut. -/
theorem handOver_endThenStart (s : State) (r : Recipe) (k : RepeatRecord) (c : Word) (x : Roll) (code : Nat)
    (n : Counters) (q p : Cut) (ph : Phase) (v : State) (hx : s.Builds x) (h : ClosesAt r k x) (hl : ¬x.LeavesTrim r)
    (hs : s.Starts r k code n) (hk : k.knifeMissed = false) (hr : NoStrayReach s)
    (hph : ph = (s.closed r k c x q.pos).rb.nextPhase r) (hp : ph ≠ x.phase)
    (hq : s.ks.Queues ⟨r.fireAt c (k.creditedLen r) x.phase, .ends x.serial, .waste, false⟩ q)
    (hv : v = State.placed ((s.closed r k c x q.pos).begun r k code n p.pos) q)
    (hq2 : v.ks.Queues ⟨r.fireAt c (k.creditedLen r) ph, .starts (n.roll + 1), .roll, false⟩ p) :
    handOver s r k c = freeTestOf (v.placed p) k.shade := by
  obtain ⟨k1, k2, k3, k4, k5⟩ := closedBare_keeps s r k c x
  have hser := starts_serials s r k c x n.roll hx hs.2.2.2.2.2.2
  have hc : closing k x = x := by simp [closing, hk]
  have hph' : (s.closedBare r k c x).rb.nextPhase r = ph := hph.symm
  have hkind : q.kind = .ends x.serial := by
    rcases hq.2 with ⟨_, _, _, rfl⟩ | ⟨_, rfl⟩ <;> rfl
  rw [(handOver_closes s r k c x hx h).2 hl, hc, overtake_good s k hs.1,
    decideOwn_starts s _ r k c code n hs hk k2 (by rw [k4]) k5 hser]
  simp only [queueClose, hph', newRoll, if_neg hp, firePos_eq]
  have hns : NoStrayReach ((s.closedBare r k c x).begun r k code n (r.fireAt c (k.creditedLen r) ph)) := by
    unfold NoStrayReach
    rw [(begun_keeps _ r k code n _).1, (begun_keeps _ r k code n _).2]
    exact closedBare_noStray s r k c x hr
  have hser' : ∀ y ∈ (s.closed r k c x q.pos).rb.rolls, y.serial ≤ n.roll := by
    intro y hy
    rw [← closedBare_endPos] at hy
    simp only [State.updateRoll, updateBy, List.mem_map] at hy
    obtain ⟨z, hz, rfl⟩ := hy
    split
    · exact hser z hz
    · exact hser z hz
  have e : v = (State.placed ((s.closed r k c x q.pos).begun r k code n (r.fireAt c (k.creditedLen r) ph)) q).updateRoll
      (n.roll + 1) fun y => { y with startPos := p.pos } := by
    rw [hv, ← placed_updateRoll _ _ _ _ _ hkind, begun_startPos _ _ _ _ _ _ _ hser']
  rw [queueCut_ends _ _ _ q (by rw [(begun_keeps _ r k code n _).1, k1]; exact hq) hns,
    begun_updateRoll _ _ _ _ _ _ _ _ (hs.2.2.2.2.2.2 x (Builds.mem hx)), closedBare_endPos,
    queueCut_starts _ _ _ p ?_ (noStray_placed _ _), ← e]
  have : v.ks = (State.placed ((s.closed r k c x q.pos).begun r k code n (r.fireAt c (k.creditedLen r) ph)) q).ks := by
    rw [e]
    rfl
  rw [← this]
  exact hq2

/-! ### Completions and refusals -/

theorem findBy_nodup {α : Type} (key : α → Nat) (l : List α) (x : α) (hn : (l.map key).Nodup) (hx : x ∈ l) :
    findBy key (key x) l = some x := by
  rcases h : findBy key (key x) l with _ | y
  · unfold findBy at h
    have := List.find?_eq_none.1 h x hx
    simp at this
  · obtain ⟨h1, h2⟩ := findBy_mem key _ _ _ h
    rw [List.inj_on_of_nodup_map hn h1 hx h2]

/-- The roll x of a table, replaced by z under the same serial. -/
def replaced (l : List Roll) (n : Nat) (z : Roll) : List Roll := l.map fun y => if y.serial = n then z else y

theorem replaced_serials (l : List Roll) (n : Nat) (z : Roll) (hz : z.serial = n) :
    (replaced l n z).map Roll.serial = l.map Roll.serial := by
  unfold replaced
  rw [List.map_map]
  apply List.map_congr_left
  intro y _
  by_cases h : y.serial = n <;> simp [h, hz]

theorem find_replaced (t : State) (l : List Roll) (n : Nat) (x z : Roll) (ht : t.rb.rolls = replaced l n z)
    (hx : x ∈ l) (hs : x.serial = n) (hz : z.serial = n) (hn : (l.map Roll.serial).Nodup) : t.findRoll n = some z := by
  unfold State.findRoll
  rw [ht, ← hz]
  apply findBy_nodup
  · rw [hz, replaced_serials l n z hz]
    exact hn
  · unfold replaced
    rw [List.mem_map]
    exact ⟨x, hx, by simp [hs, hz]⟩

theorem update_replaced (l : List Roll) (n : Nat) (z : Roll) (f : Roll → Roll) (hz : z.serial = n) :
    updateBy Roll.serial n f (replaced l n z) = replaced l n (f z) := by
  unfold replaced updateBy
  rw [List.map_map]
  apply List.map_congr_left
  intro y _
  by_cases h : y.serial = n <;> simp [h, hz]

theorem erase_replaced (l : List Roll) (n : Nat) (z : Roll) (hz : z.serial = n) :
    eraseBy Roll.serial n (replaced l n z) = l.filter fun y => decide (y.serial ≠ n) := by
  induction l with
  | nil => rfl
  | cons y ys ih =>
    unfold replaced eraseBy at ih ⊢
    by_cases h : y.serial = n <;> simp_all

/-- A table with one entry as it stands. -/
theorem replaced_self (l : List Roll) (x : Roll) (hx : x ∈ l) (hn : (l.map Roll.serial).Nodup) :
    replaced l x.serial x = l := by
  unfold replaced
  conv_rhs => rw [← List.map_id l]
  apply List.map_congr_left
  intro y hy
  by_cases h : y.serial = x.serial
  · simp [List.inj_on_of_nodup_map hn hx hy h.symm]
  · simp [h]

theorem addHold_none (s : State) (n : Option Nat) : addHold s n ⟨false, false, false⟩ = s := by
  have e : ∀ x : Roll, x.addHold ⟨false, false, false⟩ = x := by
    intro x
    unfold Roll.addHold HoldFlags.join
    split <;> simp
  rcases n with _ | n
  · rfl
  · simp only [addHold, State.updateRoll, e]
    rw [updateBy_same Roll.serial n (fun x => x) _ fun _ _ _ => rfl]

/-- R143 step 2: the ENDING roll z, held in the table l in place of the roll x, is completed. -/
theorem completeEnding_eq (t : State) (l : List Roll) (n : Nat) (x z : Roll) (o : CutOutcome)
    (ht : t.rb.rolls = replaced l n z) (hx : x ∈ l) (hs : x.serial = n) (hz : z.serial = n)
    (hn : (l.map Roll.serial).Nodup) (he : z.state = .ending) :
    completeEnding t n o =
      if z.cls = some .remnant then removeRemnant t z o
      else if z.hold.any then
        { t with rb := { t.rb with rolls := replaced l n { z with state := .held } } }.raiseAll noticeHeld
      else joinOrder { t with rb := { t.rb with rolls := replaced l n { z with state := .closed } } } n := by
  rw [completeEnding, find_replaced t l n x z ht hx hs hz hn]
  simp only [he, if_true]
  split_ifs
  · rfl
  · simp only [holdRoll, State.updateRoll, ht, update_replaced l n z _ hz]
  · simp only [closeRoll, State.updateRoll, ht, update_replaced l n z _ hz]

/-- R143 step 2: a REMNANT leaves the table. -/
theorem removeRemnant_facts (t : State) (l : List Roll) (n : Nat) (z : Roll) (o : CutOutcome)
    (ht : t.rb.rolls = replaced l n z) (hz : z.serial = n) :
    (removeRemnant t z o).rb = { t.rb with rolls := l.filter fun y => decide (y.serial ≠ n) } ∧
    (removeRemnant t z o).events =
      (logEvent t ⟨.remnantCut, .knife, some z.lastSeq, some n, some z.batch, o.extra⟩).events ∧
    (removeRemnant t z o).batches = (freeTestOf { t with batches := t.batches.map fun b =>
      if b.code = z.batch then { b with rolls := b.rolls - 1 } else b } (.batch z.batch)).batches := by
  have hf : ∀ u : State, (freeTest u z.batch).rb = u.rb := fun u => (freeTest_frame u z.batch).2.2.1
  have hd : (dropRoll t z).rb = { t.rb with rolls := l.filter fun y => decide (y.serial ≠ n) } := by
    rw [dropRoll, hf, (lowerRolls_frame _ _).2.2.1, hz]
    simp only [State.eraseRoll, ht, erase_replaced l n z hz]
  refine ⟨hd, ?_, ?_⟩
  · have e1 := dropRoll_frame t z
    have e2 : (dropRoll t z).wpu.le = t.wpu.le := fixedPart_le e1.2.2.2.2.2.2
    simp only [removeRemnant, logEvent, State.entryOf, State.actionOf, e1, e2, hz]
  · simp only [removeRemnant, logEvent, dropRoll, freeTestOf, freeTest]
    have e : ∀ (u v : State), u.batches = v.batches →
        (match u.findBatch z.batch with
          | some b => if b.isSpent = true then
            { u with batches := eraseBy BatchEntry.code z.batch u.batches }.raiseAll noticeBatch else u
          | none => u).batches =
        (match v.findBatch z.batch with
          | some b => if b.isSpent = true then
            { v with batches := eraseBy BatchEntry.code z.batch v.batches }.raiseAll noticeBatch else v
          | none => v).batches := by
      intro u v h
      simp only [State.findBatch, h]
      repeat' split
      all_goals simp [State.raiseAll, h]
    apply e
    rfl

/-! ### Cut marks -/

theorem noStray_of {s t : State} (h : NoStrayReach s) (hk : t.ks.queue = s.ks.queue) (hw : t.wpu.reach = s.wpu.reach) :
    NoStrayReach t := by
  unfold NoStrayReach
  rw [hk, hw]
  exact h

theorem freeTestOf_reach (s : State) (v : ShadeVerdict) : (freeTestOf s v).wpu = s.wpu := by
  unfold freeTestOf freeTest
  repeat' split
  all_goals rfl

theorem noStray_freeTestOf {s : State} (v : ShadeVerdict) (h : NoStrayReach s) : NoStrayReach (freeTestOf s v) :=
  noStray_of h (by rw [(freeTestOf_frame s v).2.2.2.1]) (by rw [freeTestOf_reach])

theorem noStray_wasted {s : State} (r : Recipe) (k : RepeatRecord) (c : Word) (h : NoStrayReach s) :
    NoStrayReach (s.wasted r k c) := noStray_freeTestOf _ (handed_noStray s r k c h)

theorem noStray_folded {s : State} (r : Recipe) (k : RepeatRecord) (c : Word) (x : Roll) (h : NoStrayReach s) :
    NoStrayReach (s.folded r k c x) := noStray_freeTestOf _ (handed_noStray s r k c h)

theorem run_of {s : State} {sensor : Sensor} {r : Recipe}
    (h : Accepted s sensor .running r ∨ Accepted s sensor .draining r) :
    ∃ run, (run = .running ∨ run = .draining) ∧ Accepted s sensor run r := by
  rcases h with h | h
  · exact ⟨_, Or.inl rfl, h⟩
  · exact ⟨_, Or.inr rfl, h⟩

/-- R9, R10: a cut mark in a run that the Repeat Tracker takes. -/
theorem exec_cut_taken (s t : State) (r : Recipe) (h : Accepted s .cm .running r ∨ Accepted s .cm .draining r)
    (hd : deliverCut (s.atKnife s.rt.knife) r s.wpu.cm.last s.wpu.le = (t, .taken)) :
    exec (.markCapture .cm) s = .next t := by
  obtain ⟨run, hrun, h⟩ := run_of h
  rw [exec_markCapture_accepted s .cm run r h, acceptCapture_taken s .cm run r t]
  rw [deliver_cm _ _ _ _ hrun]
  exact hd

/-- R44, R45: a cut mark matched to the head of the queue. -/
theorem exec_cut_matched (s t : State) (r : Recipe) (k : RepeatRecord) (h : MatchedAtKnife s r k)
    (ht : handOver (s.atKnife ⟨.sync, s.rt.knife.regain⟩) r k s.wpu.le = t) (hr : NoStrayReach t) :
    exec (.markCapture .cm) s = .next t.settled := by
  obtain ⟨ha, hq, _, _, hm⟩ := h
  obtain ⟨rest, hq⟩ : ∃ rest, s.rt.queue = k :: rest := by
    rcases he : s.rt.queue with _ | ⟨a, b⟩
    · simp [he] at hq
    · exact ⟨b, by simp_all⟩
  rw [← drainTest_settled t hr, ← ht]
  apply exec_cut_taken s _ r ha
  rcases hm with hm | ⟨hm, p, hp, hw⟩
  · rw [deliverCut_seeking (s.atKnife s.rt.knife) r _ _ k rest hq hm]
    rfl
  · have e : s.rt.knife = ⟨.sync, s.rt.knife.regain⟩ := by rw [← hm]
    rw [deliverCut_match (s.atKnife s.rt.knife) r _ _ k rest hq hm, ← e]
    · rfl
    · rw [Window.fits_iff, hp]
      exact hw

/-- R47, R55: a cut mark that fits one skipped record. -/
theorem exec_cut_skips (s t : State) (r : Recipe) (k n : RepeatRecord) (rest : List RepeatRecord) (p : Capture)
    (h : Accepted s .cm .running r ∨ Accepted s .cm .draining r) (hq : s.rt.queue = k :: n :: rest)
    (hm : s.rt.knife.mode = .sync) (hp : s.wpu.cm.last = some p)
    (hw : Window.Skips ⟨k.creditedLen r, s.ps.setup.cTol⟩ ⟨n.creditedLen r, s.ps.setup.cTol⟩ (s.wpu.le - p.pos).toNat)
    (ht : handOver (handOver ((logEvent s ⟨.knifeMissed, .knife, some k.seq, none, none, 0⟩).atKnife s.rt.knife) r
      { k with knifeMissed := true } (s.wpu.le - BitVec.ofNat 32 (n.creditedLen r))) r n s.wpu.le = t)
    (hr : NoStrayReach t) : exec (.markCapture .cm) s = .next t.settled := by
  rw [← drainTest_settled t hr, ← ht]
  apply exec_cut_taken s _ r h
  have hmeas : measured s.wpu.cm.last s.wpu.le = (s.wpu.le - p.pos).toNat := by rw [hp]; rfl
  obtain ⟨f1, f2⟩ := Window.not_fits_long (knifeWindow r s.ps.setup k) _ hw.1
  have f3 : ((knifeWindow r s.ps.setup k).join (knifeWindow r s.ps.setup n)).fits (s.wpu.le - p.pos).toNat = true :=
    (Window.fits_iff _ _).2 hw.2
  have hq' : (s.atKnife s.rt.knife).rt.queue = k :: n :: rest := hq
  have hm' : (s.atKnife s.rt.knife).rt.knife.mode = .sync := hm
  have hs' : (s.atKnife s.rt.knife).ps.setup = s.ps.setup := rfl
  simp only [deliverCut, hq', hm', hs', hmeas, f1, knifeOff, f2, f3, Bool.false_eq_true, if_false, if_true, List.head?_cons]
  rfl

/-- R48, R51: a cut mark that puts the knife point into LOST. -/
theorem exec_cut_loses (s t : State) (r : Recipe) (k : RepeatRecord) (rest : List RepeatRecord) (p : Capture) (m : Nat)
    (h : Accepted s .cm .running r ∨ Accepted s .cm .draining r) (hq : s.rt.queue = k :: rest)
    (hm : s.rt.knife.mode = .sync) (hp : s.wpu.cm.last = some p) (hm2 : m = (s.wpu.le - p.pos).toNat)
    (hw : Window.Loses ⟨k.creditedLen r, s.ps.setup.cTol⟩ (rest.head?.map fun n => ⟨n.creditedLen r, s.ps.setup.cTol⟩) m)
    (ht : handOver (builderTrackLost ((logEvent s ⟨.trackLost, .knife, some k.seq, none, none, extraNat m⟩).atKnife
      ⟨.lost, 0⟩)) r { k with untrackedAtKnife := true } s.wpu.le = t)
    (hr : NoStrayReach t) : exec (.markCapture .cm) s = .next t.settled := by
  rw [← drainTest_settled t hr, ← ht]
  apply exec_cut_taken s _ r h
  have hmeas : measured s.wpu.cm.last s.wpu.le = m := by rw [hp, hm2]; rfl
  obtain ⟨f1, f2⟩ := Window.not_fits_long (knifeWindow r s.ps.setup k) _ hw.1
  have hq' : (s.atKnife s.rt.knife).rt.queue = k :: rest := hq
  have hm' : (s.atKnife s.rt.knife).rt.knife.mode = .sync := hm
  have hs' : (s.atKnife s.rt.knife).ps.setup = s.ps.setup := rfl
  simp only [deliverCut, hq', hm', hs', hmeas, f1, knifeOff, f2, Bool.false_eq_true, if_false]
  rcases rest with _ | ⟨n, rest⟩
  · rfl
  · have f3 : ((knifeWindow r s.ps.setup k).join (knifeWindow r s.ps.setup n)).fits m = false := by
      rw [Bool.eq_false_iff]
      intro hf
      exact hw.2 _ rfl ((Window.fits_iff _ _).1 hf)
    simp only [List.head?_cons, f3, Bool.false_eq_true, if_false]
    rfl

theorem afterLost_follows (p q : TrackPoint) (b : Bool) (h : p.Follows q (b = true)) :
    p.afterLost b = (q, q.mode == .sync) := by
  unfold TrackPoint.afterLost
  rcases h with ⟨h, rfl⟩ | ⟨h, h2, rfl⟩ | ⟨h, h2, rfl⟩
  · simp [h]
  · simp [h, show ¬3 ≤ p.regain + 1 by omega]
  · simp [h, show 3 ≤ p.regain + 1 by omega]

/-- R49: a cut mark in LOST. -/
theorem exec_cut_lost (s t : State) (r : Recipe) (k : RepeatRecord) (rest : List RepeatRecord) (p : Capture)
    (q : TrackPoint) (h : Accepted s .cm .running r ∨ Accepted s .cm .draining r) (hq : s.rt.queue = k :: rest)
    (hm : s.rt.knife.mode = .lost) (hp : s.wpu.cm.last = some p)
    (hf : s.rt.knife.Follows q (Window.Contains ⟨k.creditedLen r, s.ps.setup.cTol⟩ (s.wpu.le - p.pos).toNat))
    (ht : handOver (s.atKnife q) r { k with untrackedAtKnife := true } s.wpu.le = t) (hr : NoStrayReach t) :
    exec (.markCapture .cm) s = .next (if q.mode = .sync then
      logEvent t.settled ⟨.trackRegained, .knife, some k.seq, none, none, 0⟩ else t.settled) := by
  rw [← drainTest_settled t hr, ← ht]
  apply exec_cut_taken s _ r h
  rw [deliverCut_lost (s.atKnife s.rt.knife) r _ _ k rest hq hm, hp]
  have e := afterLost_follows s.rt.knife q ((knifeWindow r s.ps.setup k).fits (measured (some p) s.wpu.le)) (by
    rw [Window.fits_iff]
    exact hf)
  have e' : (s.atKnife s.rt.knife).rt.knife.afterLost ((knifeWindow r (s.atKnife s.rt.knife).ps.setup k).fits
      (measured (some p) s.wpu.le)) = (q, q.mode == .sync) := e
  simp only [knifeLost, e', beq_iff_eq]
  split_ifs <;> rfl

/-! ### A roll that stays BUILDING -/

theorem builds_frame {s t : State} {x : Roll} (h : s.Builds x) (hr : t.rb.rolls = s.rb.rolls)
    (hs : t.rb.segment = s.rb.segment) : t.Builds x := by
  refine ⟨by rw [hs]; exact h.1, ?_, h.2.2.1, by rw [hr]; exact h.2.2.2⟩
  unfold State.findRoll
  rw [hr]
  exact h.2.1

theorem builds_replaced {s t : State} {x y : Roll} (h : s.Builds x) (hy : y.serial = x.serial)
    (hb : y.state = .building) (hr : t.rb.rolls = replaced s.rb.rolls x.serial y)
    (hs : t.rb.segment = s.rb.segment) : t.Builds y := by
  refine ⟨by rw [hs, hy]; exact h.1, ?_, hb, ?_⟩
  · rw [hy]
    exact find_replaced t _ _ x y hr (Builds.mem h) rfl hy h.2.2.2
  · rw [hr, replaced_serials _ _ _ hy]
    exact h.2.2.2

/-- R118: after a fold the roll grown is the BUILDING one. -/
theorem folded_builds {u : State} {x y : Roll} (r : Recipe) (k : RepeatRecord) (c : Word) (h : u.Builds x)
    (hy : y.serial = x.serial) (hb : y.state = .building) : (u.folded r k c y).Builds y := by
  have e : (u.folded r k c y).rb =
      { (u.handed r k c).rb with rolls := replaced u.rb.rolls x.serial y } := by
    unfold State.folded
    rw [(freeTestOf_frame _ _).2.2.1, hy]
    rfl
  apply builds_replaced h hy hb
  · rw [e]
  · rw [e, handed_rb]

theorem untracked_bad (k : RepeatRecord) : ({ k with untrackedAtKnife := true } : RepeatRecord).isGood = false := by
  simp [RepeatRecord.isGood]

theorem handed_rb_put (u : State) (rb : RollBuilder) (r : Recipe) (k : RepeatRecord) (c : Word) :
    State.handed { u with rb := rb } r { k with untrackedAtKnife := true } c =
      { u.handed r k c with rb := { rb with lastHandOver := some ⟨c, k.creditedLen r⟩ } } := by
  unfold State.handed
  by_cases h : k.emboss = .awaiting
  · simp only [h, if_true]
    cases k.shade <;> rfl
  · simp only [h, if_false]
    cases k.shade <;> rfl

/-- R24: with a cut queued the drain does not complete. -/
theorem settled_queue (t : State) (h : t.ks.queue ≠ []) : t.settled = t := by
  unfold State.settled
  split
  · rw [if_neg fun e => h e.2.1]
  all_goals rfl

end Sys2Proof.Machine
end

