-- ==== Sys2Proof/Laws/Labels.lean ====
section
/-! SUPPORT. The readiness test and the completion of an ENDING roll: what they leave, and when the head is ready. -/

namespace Sys2Proof.Machine

theorem readinessTest_wpu (s : State) : (readinessTest s).wpu = s.wpu := by
  unfold readinessTest
  split <;> rfl

theorem joinOrder_wpu (s : State) (n : Nat) : (joinOrder s n).wpu = s.wpu := by
  simp only [joinOrder]
  split
  · exact readinessTest_wpu _
  · rfl

/-- R155: a roll joins the label order at its tail. -/
theorem joinOrder_ld (s : State) (n : Nat) :
    (joinOrder s n).ld.order = s.ld.order ++ [n] ∧ (joinOrder s n).ld.outstanding = s.ld.outstanding := by
  simp only [joinOrder, readinessTest]
  split
  · split <;> exact ⟨rfl, rfl⟩
  · exact ⟨rfl, rfl⟩

theorem readinessTest_headReady (s : State) :
    (readinessTest s).ld.headReady = (s.ld.headReady || s.headIsReady) := by
  unfold readinessTest
  rcases h : s.ld.headReady with _ | _ <;> rcases h' : s.headIsReady with _ | _ <;> simp [h, State.raiseAll]

theorem PortState.gaining_zero (p : PortState) : p.gaining 0 = p := by simp [PortState.gaining]

/-- R158: LABEL is raised exactly when a head becomes ready. -/
theorem readinessTest_ports (s : State) (q : Port) : (readinessTest s).ports.get q = (s.ports.get q).gaining
    (if (readinessTest s).ld.headReady = s.ld.headReady then 0 else noticeLabel) := by
  unfold readinessTest
  rcases h : s.ld.headReady with _ | _ <;> rcases h' : s.headIsReady with _ | _
  · exact (PortState.gaining_zero _).symm.trans (by simp [h])
  · simp only [Bool.not_false, Bool.and_self, if_true, State.raiseAll, PerPort.get_map]
    rfl
  all_goals exact (PortState.gaining_zero _).symm.trans (by simp [h])

theorem joinOrder_ports (s : State) (n : Nat) (q : Port) : (joinOrder s n).ports.get q = (s.ports.get q).gaining
    (if (joinOrder s n).ld.headReady = s.ld.headReady then 0 else noticeLabel) := by
  simp only [joinOrder]
  split
  · exact readinessTest_ports _ q
  · exact (PortState.gaining_zero _).symm.trans (by simp)

theorem persisted_iff (x : Roll) (m : Option Counters) :
    x.persisted m = true ↔ ∃ c, m = some c ∧ x.batch ≤ c.batch ∧ x.serial ≤ c.roll := by
  cases m <;> simp [Roll.persisted]

/-- R157: a roll that joins an empty order is ready when its codes are persisted. -/
theorem joinOrder_headReady (v : State) (n : Nat) (z : Roll) (h : v.findRoll n = some z) :
    (joinOrder v n).ld.headReady = true ↔ v.ld.headReady = true ∨
      v.ld.order = [] ∧ ∃ m, v.ps.mirror = some m ∧ z.batch ≤ m.batch ∧ z.serial ≤ m.roll := by
  rw [← persisted_iff]
  by_cases ho : v.ld.order = []
  · simp only [joinOrder, ho, List.isEmpty_nil, if_true, readinessTest_headReady, Bool.or_eq_true, true_and]
    have : State.headIsReady { v with ld := { v.ld with order := [] ++ [n] } } = z.persisted v.ps.mirror := by
      have : State.labelHead { v with ld := { v.ld with order := [] ++ [n] } } = some z := h
      unfold State.headIsReady
      rw [this]
    rw [this]
  · simp [joinOrder, ho]

theorem freeTest_wpu (s : State) (n : Nat) : (freeTest s n).wpu = s.wpu := freeTestOf_reach s (.batch n)

theorem completeEnding_wpu (s : State) (n : Nat) (o : CutOutcome) : (completeEnding s n o).wpu = s.wpu := by
  unfold completeEnding
  repeat' split
  · show (dropRoll s _).wpu = _
    rw [dropRoll, freeTest_wpu]
    rfl
  · rfl
  · rw [closeRoll, joinOrder_wpu]
    rfl
  · rfl
  · rfl

end Sys2Proof.Machine
end

