-- ==== Sys2Proof/Laws/Batches.lean ====
section
/-! SUPPORT. The Batch Table: what a freeing test leaves and raises, and the table after all its records have left (FLUSH
RUN, CLEAR LINE), in the words of Safety.lean. -/

namespace Sys2Proof.Machine

theorem isSpent_iff (b : BatchEntry) : b.isSpent = true ↔ b.state = .closed ∧ b.queued = 0 ∧ b.rolls = 0 := by
  simp [BatchEntry.isSpent, and_assoc]

/-- R104: the table after a freeing test. -/
theorem freeTest_batches (s : State) (code : Nat) : (freeTest s code).batches = freeSpent code s.batches := by
  unfold freeTest freeSpent State.findBatch findBy
  generalize (s.batches.find? fun b => decide (b.code = code)) = o
  rcases o with _ | b
  · rfl
  · simp only [← isSpent_iff]
    split <;> rfl

/-- R104: BATCH is raised exactly when the entry is freed. -/
theorem freeTest_ports (s : State) (code : Nat) (q : Port) :
    (freeTest s code).ports.get q = (s.ports.get q).gaining
      (if (freeTest s code).batches.length < s.batches.length then noticeBatch else 0) := by
  unfold freeTest
  rcases hf : s.findBatch code with _ | b
  · simp only [lt_irrefl, if_false, PortState.gaining_zero]
  · by_cases hb : b.isSpent = true
    · obtain ⟨h1, h2⟩ := findBy_mem BatchEntry.code _ _ _ hf
      have : (eraseBy BatchEntry.code code s.batches).length < s.batches.length := by
        apply List.length_filter_lt_length_iff_exists.2
        exact ⟨b, h1, by simp [h2]⟩
      simp only [hb, if_true, State.raiseAll, this, PerPort.get_map]
      rfl
    · simp only [hb, Bool.false_eq_true, if_false, lt_irrefl, PortState.gaining_zero]

/-- R102: the table after a roll has left, and the notice. -/
theorem dropRoll_batches (s : State) (x : Roll) : (dropRoll s x).batches = freeSpent x.batch
    (s.batches.map fun b => if b.code = x.batch then { b with rolls := b.rolls - 1 } else b) := by
  rw [dropRoll, freeTest_batches]
  rfl

theorem dropRoll_ports (s : State) (x : Roll) (q : Port) :
    (dropRoll s x).ports.get q = (s.ports.get q).gaining
      (if (dropRoll s x).batches.length < s.batches.length then noticeBatch else 0) := by
  have e : (lowerRolls (s.eraseRoll x.serial) x.batch).batches.length = s.batches.length := List.length_map _
  rw [← e]
  exact freeTest_ports _ _ q

/-! ### A table in which nothing is spent -/

/-- A change of the entries of one code, in a table of distinct codes in which nothing was spent. -/
theorem freeSpent_changed (code : Nat) (g : BatchEntry → BatchEntry) (l : List BatchEntry)
    (hn : (l.map BatchEntry.code).Nodup) (hs : ∀ b ∈ l, b.isSpent = false) (hg : ∀ b, b.code ≠ code → g b = b)
    (hc : ∀ b, (g b).code = b.code) : freeSpent code (l.map g) = (l.map g).filter fun b => !b.isSpent := by
  have hrest : ∀ y ∈ l.map g, y.code ≠ code → y.isSpent = false := by
    intro y hy hyc
    obtain ⟨z, hz, rfl⟩ := List.mem_map.1 hy
    rw [hc] at hyc
    rw [hg z hyc]
    exact hs z hz
  have hn' : ((l.map g).map BatchEntry.code).Nodup := by
    rw [List.map_map]
    exact (List.map_congr_left (fun b _ => hc b) : l.map (BatchEntry.code ∘ g) = l.map BatchEntry.code) ▸ hn
  unfold freeSpent
  generalize hf : ((l.map g).find? fun b => decide (b.code = code)) = o
  rcases o with _ | b
  · have hall : ∀ y ∈ l.map g, y.code ≠ code := fun y hy => by simpa using List.find?_eq_none.1 hf y hy
    exact (List.filter_eq_self.2 fun y hy => by simp [hrest y hy (hall y hy)]).symm
  · have hb := List.mem_of_find?_eq_some hf
    have hbc : b.code = code := by simpa using List.find?_some hf
    have hone : ∀ y ∈ l.map g, y.code = code → y = b := fun y hy hyc =>
      List.inj_on_of_nodup_map hn' hy hb (hyc.trans hbc.symm)
    simp only [← isSpent_iff]
    split
    · next h =>
      apply List.filter_congr
      intro y hy
      by_cases hyc : y.code = code
      · simp [hone y hy hyc, hbc, h]
      · simp [hyc, hrest y hy hyc]
    · next h =>
      refine (List.filter_eq_self.2 fun y hy => ?_).symm
      by_cases hyc : y.code = code
      · simp [hone y hy hyc, h]
      · simp [hrest y hy hyc]

/-- Freed before or after a change that keeps what is spent spent. -/
theorem filter_map_filter (g : BatchEntry → BatchEntry) (l : List BatchEntry) (p q : BatchEntry → Bool)
    (h : ∀ b, p b = true → q (g b) = true) :
    (((l.filter fun b => !p b).map g).filter fun b => !q b) = (l.map g).filter fun b => !q b := by
  induction l with
  | nil => rfl
  | cons b l ih =>
    rcases hb : p b with _ | _
    · simp [List.filter_cons, hb, ih]
    · simp only [List.filter_cons, hb, Bool.not_true, Bool.false_eq_true, if_false, List.map_cons, h b hb]
      exact ih

/-! ### Records that leave -/

/-- What the departure of the records `ks` does to one batch. -/
def BatchEntry.unqueued (b : BatchEntry) (ks : List RepeatRecord) : BatchEntry :=
  { b with queued := b.queued - ks.countP fun k => k.shade == .batch b.code }

@[simp] theorem BatchEntry.unqueued_code (b : BatchEntry) (ks : List RepeatRecord) : (b.unqueued ks).code = b.code := rfl

@[simp] theorem BatchEntry.unqueued_nil (b : BatchEntry) : b.unqueued [] = b := rfl

theorem BatchEntry.unqueued_cons (b : BatchEntry) (k : RepeatRecord) (ks : List RepeatRecord) :
    (b.unqueued [k]).unqueued ks = b.unqueued (k :: ks) := by
  simp only [BatchEntry.unqueued, List.countP_cons, List.countP_nil]
  congr 1
  omega

theorem isSpent_unqueued (b : BatchEntry) (ks : List RepeatRecord) (h : b.isSpent = true) :
    (b.unqueued ks).isSpent = true := by
  rw [isSpent_iff] at *
  exact ⟨h.1, by simp [BatchEntry.unqueued, h.2.1], h.2.2⟩

/-- R54 step 2, R100: one record lowers the queued count of its batch. -/
theorem lowerQueued_batches (s : State) (k : RepeatRecord) :
    (lowerQueued s k.shade).batches = s.batches.map fun b => b.unqueued [k] := by
  rcases hk : k.shade with _ | code | _
  · simp [lowerQueued, BatchEntry.unqueued, hk]
  · simp only [lowerQueued, State.updateBatch, updateBy]
    apply List.map_congr_left
    intro b _
    by_cases h : b.code = code
    · simp [BatchEntry.unqueued, hk, h]
    · simp [BatchEntry.unqueued, hk, h, Ne.symm h]
  · simp [lowerQueued, BatchEntry.unqueued, hk]

/-- R28: the counts of the batches once the Repeat Queue is emptied. -/
theorem foldl_lowerQueued (ks : List RepeatRecord) (s : State) :
    (ks.foldl (fun t k => lowerQueued t k.shade) s).batches = s.batches.map fun b => b.unqueued ks := by
  induction ks generalizing s with
  | nil => simp
  | cons k ks ih =>
    rw [List.foldl_cons, ih, lowerQueued_batches, List.map_map]
    exact List.map_congr_left fun b _ => b.unqueued_cons k ks

/-- R101: one record that leaves at FLUSH RUN. -/
theorem flushRecord_batches (s : State) (k : RepeatRecord) (hn : (s.batches.map BatchEntry.code).Nodup)
    (hs : ∀ b ∈ s.batches, b.isSpent = false) :
    (flushRecord s k).batches = (s.batches.map fun b => b.unqueued [k]).filter fun b => !b.isSpent := by
  have e : (lowerQueued { s with rt := { s.rt with queue := s.rt.queue.tail } } k.shade).batches =
      s.batches.map fun b => b.unqueued [k] := lowerQueued_batches _ k
  have none_eq : (∀ code, k.shade ≠ .batch code) →
      (s.batches.map fun b => b.unqueued [k]) = (s.batches.map fun b => b.unqueued [k]).filter fun b => !b.isSpent := by
    intro h
    refine (List.filter_eq_self.2 fun y hy => ?_).symm
    obtain ⟨z, hz, rfl⟩ := List.mem_map.1 hy
    have : z.unqueued [k] = z := by simp [BatchEntry.unqueued, h]
    rw [this, hs z hz]
    rfl
  unfold flushRecord
  rcases hk : k.shade with _ | code | _
  · rw [hk] at e
    exact e.trans (none_eq (by simp [hk]))
  · rw [hk] at e
    simp only [freeTestOf, freeTest_batches]
    rw [e]
    refine freeSpent_changed code _ _ hn hs (fun b hb => ?_) fun b => rfl
    simp [BatchEntry.unqueued, hk, Ne.symm hb]
  · rw [hk] at e
    exact e.trans (none_eq (by simp [hk]))

/-- R25 step 1: the Batch Table once every record has left at FLUSH RUN. -/
theorem foldl_flushRecord (ks : List RepeatRecord) (s : State) (hn : (s.batches.map BatchEntry.code).Nodup)
    (hs : ∀ b ∈ s.batches, b.isSpent = false) :
    (ks.foldl flushRecord s).batches = (s.batches.map fun b => b.unqueued ks).filter fun b => !b.isSpent := by
  induction ks generalizing s with
  | nil =>
    simp only [List.foldl_nil, BatchEntry.unqueued_nil, List.map_id']
    exact (List.filter_eq_self.2 fun b hb => by simp [hs b hb]).symm
  | cons k ks ih =>
    have e := flushRecord_batches s k hn hs
    rw [List.foldl_cons, ih, e, filter_map_filter _ _ _ _ fun b h => isSpent_unqueued b ks h, List.map_map]
    · congr 1
      exact List.map_congr_left fun b _ => b.unqueued_cons k ks
    · rw [e]
      refine List.Nodup.sublist (List.Sublist.map _ List.filter_sublist) ?_
      rw [List.map_map]
      exact hn
    · rw [e]
      intro b hb
      simpa using (List.mem_filter.1 hb).2

/-! ### The BATCH notice -/

/-- From s to t batches were only freed, and BATCH was raised exactly when one was. -/
def FreesFrom (s t : State) : Prop :=
  t.batches.length ≤ s.batches.length ∧ (t.batches.any BatchEntry.active = true → s.batches.any BatchEntry.active = true) ∧
  (s.batches.any BatchEntry.active = true →
    t.batches.any BatchEntry.active = true ∨ t.batches.length < s.batches.length) ∧
  ∀ q, (t.ports.get q).raw = (s.ports.get q).raw ||| if t.batches.length < s.batches.length then noticeBatch else 0

theorem FreesFrom.of_same {s t : State} (h : t.batches.length = s.batches.length)
    (ha : t.batches.any BatchEntry.active = s.batches.any BatchEntry.active)
    (hp : ∀ q, (t.ports.get q).raw = (s.ports.get q).raw) : FreesFrom s t :=
  ⟨h.le, fun h' => ha ▸ h', fun h' => .inl (ha.trans h'), fun q => by simp [h, hp]⟩

theorem FreesFrom.trans {s t u : State} (h : FreesFrom s t) (h' : FreesFrom t u) : FreesFrom s u := by
  obtain ⟨h1, h2, h3, h4⟩ := h
  obtain ⟨g1, g2, g3, g4⟩ := h'
  refine ⟨g1.trans h1, fun e => h2 (g2 e), fun e => ?_, fun q => ?_⟩
  · rcases h3 e with e | e
    · exact (g3 e).imp id fun e' => e'.trans_le h1
    · exact .inr (g1.trans_lt e)
  · rw [g4, h4, BitVec.or_assoc]
    congr 1
    by_cases e1 : t.batches.length < s.batches.length <;> by_cases e2 : u.batches.length < t.batches.length
    · simp [e1, e2, e2.trans e1]
    · simp [e1, e2, g1.trans_lt e1]
    · simp [e1, e2, e2.trans_le h1]
    · rw [if_neg e1, if_neg e2, if_neg (by omega)]
      rfl

theorem freeTest_frees (s : State) (code : Nat) : FreesFrom s (freeTest s code) := by
  refine ⟨?_, ?_, ?_, fun q => by rw [freeTest_ports]; rfl⟩ <;> rw [freeTest_batches] <;> unfold freeSpent
  · repeat' split
    · exact List.length_filter_le _ _
    all_goals exact le_rfl
  · repeat' split
    · simp only [List.any_eq_true, List.mem_filter]
      exact fun ⟨b, hb, ha⟩ => ⟨b, hb.1, ha⟩
    all_goals exact id
  · intro h
    generalize hf : (s.batches.find? fun b => decide (b.code = code)) = o
    rcases o with _ | b
    · exact .inl h
    · simp only
      split
      · refine .inr (List.length_filter_lt_length_iff_exists.2 ⟨b, List.mem_of_find?_eq_some hf, ?_⟩)
        simpa using List.find?_some hf
      · exact .inl h

theorem any_active_map (g : BatchEntry → BatchEntry) (l : List BatchEntry) (h : ∀ b, (g b).state = b.state) :
    (l.map g).any BatchEntry.active = l.any BatchEntry.active := by
  rw [List.any_map]
  congr 1
  funext b
  simp [BatchEntry.active, h]

theorem lowerQueued_frees (s : State) (v : ShadeVerdict) : FreesFrom s (lowerQueued s v) := by
  cases v with
  | batch code =>
    exact .of_same (List.length_map _) (any_active_map _ _ fun b => by split <;> rfl) fun q => rfl
  | pending | noBatch => exact .of_same rfl rfl fun q => rfl

theorem flushRecord_frees (s : State) (k : RepeatRecord) : FreesFrom s (flushRecord s k) := by
  have h := lowerQueued_frees { s with rt := { s.rt with queue := s.rt.queue.tail } } k.shade
  have h1 : FreesFrom s (lowerQueued { s with rt := { s.rt with queue := s.rt.queue.tail } } k.shade) := h
  refine h1.trans ?_
  unfold flushRecord freeTestOf
  split
  · exact freeTest_frees _ _
  all_goals exact .of_same rfl rfl fun q => rfl

/-- R25, R104: BATCH at the records that leave at FLUSH RUN. -/
theorem foldl_flushRecord_frees (ks : List RepeatRecord) (s : State) : FreesFrom s (ks.foldl flushRecord s) := by
  induction ks generalizing s with
  | nil => exact .of_same rfl rfl fun q => rfl
  | cons k ks ih => exact (flushRecord_frees s k).trans (ih _)

theorem dropRoll_frees (s : State) (x : Roll) : FreesFrom s (dropRoll s x) := by
  have h : FreesFrom s (lowerRolls (s.eraseRoll x.serial) x.batch) :=
    .of_same (List.length_map _) (any_active_map _ _ fun b => by split <;> rfl) fun q => rfl
  exact h.trans (freeTest_frees _ _)

/-- R105: BATCH at the closing of the batches after t, which only freed some of those of s. -/
theorem FreesFrom.close {s t : State} (h : FreesFrom s t) (q : Port) :
    ((closeBatches t).ports.get q).raw = (s.ports.get q).raw |||
      if s.batches.any BatchEntry.active = true ∨ (closeBatches t).batches.length < s.batches.length then noticeBatch
      else 0 := by
  obtain ⟨h1, h2, h3, h4⟩ := h
  unfold closeBatches
  by_cases ha : t.batches.any BatchEntry.active = true
  · simp only [ha, if_true, State.raiseAll, PerPort.get_map, PortState.raise, h4, h2 ha, true_or]
    split_ifs <;> simp [BitVec.or_assoc]
  · simp only [ha, Bool.false_eq_true, if_false, h4]
    congr 1
    by_cases hs : s.batches.any BatchEntry.active = true
    · simp [hs, (h3 hs).resolve_left ha]
    · simp [hs]

/-- R29, R105: BATCH at CLEAR LINE. -/
theorem closeAndFreeBatches_raw (s : State) (q : Port) : ((closeAndFreeBatches s).ports.get q).raw =
    (s.ports.get q).raw ||| if s.batches.any BatchEntry.active = true ∨
      (closeAndFreeBatches s).batches.length < s.batches.length then noticeBatch else 0 := by
  unfold closeAndFreeBatches
  by_cases h : (s.batches.any fun b : BatchEntry => b.active || b.isSpent) = true
  · simp only [h, if_true, State.raiseAll, PerPort.get_map, PortState.raise]
    rw [if_pos]
    by_cases ha : s.batches.any BatchEntry.active = true
    · exact .inl ha
    · right
      simp only [List.any_eq_true, Bool.or_eq_true, not_exists, not_and] at h ha
      obtain ⟨b, hb, h⟩ := h
      have hsp := h.resolve_left (ha b hb)
      calc ((s.batches.map BatchEntry.close).filter fun b => !b.isSpent).length
          < (s.batches.map BatchEntry.close).length :=
            List.length_filter_lt_length_iff_exists.2 ⟨b.close, List.mem_map_of_mem hb, by
              rw [isSpent_iff] at hsp
              simp [BatchEntry.isSpent, BatchEntry.close, hsp.2]⟩
        _ = s.batches.length := List.length_map _
  · simp only [h, Bool.false_eq_true, if_false, lt_irrefl, or_false]
    rw [if_neg]
    · simp
    · intro ha
      apply h
      simp only [List.any_eq_true, Bool.or_eq_true] at ha ⊢
      obtain ⟨b, hb, ha⟩ := ha
      exact ⟨b, hb, .inl ha⟩

/-! ### Rolls that leave -/

/-- R102: the rolls `lost` lower the roll counts of their batches. -/
theorem foldl_lowerRolls (lost : List Roll) (s : State) :
    (lost.foldl (fun t x => lowerRolls t x.batch) s).batches =
      s.batches.map fun b => { b with rolls := b.rolls - lost.countP fun x => x.batch == b.code } := by
  induction lost generalizing s with
  | nil => simp
  | cons x lost ih =>
    rw [List.foldl_cons, ih]
    simp only [lowerRolls, State.updateBatch, updateBy, List.map_map]
    apply List.map_congr_left
    intro b _
    by_cases h : b.code = x.batch
    · simp only [Function.comp, h, if_true, List.countP_cons, beq_self_eq_true]
      congr 1
      omega
    · simp [h, Ne.symm h]

/-! ### The end of a run -/

theorem close_isSpent (b : BatchEntry) : b.close.isSpent = (b.queued == 0 && b.rolls == 0) := by
  simp [BatchEntry.isSpent, BatchEntry.close]

theorem close_of_closed (b : BatchEntry) (h : b.active = false) : b.close = b := by
  have : b.state = .closed := by
    rcases hst : b.state <;> simp_all [BatchEntry.active]
  rw [BatchEntry.close, ← this]

/-- R28, R101: closing the batches and freeing the spent ones at CLEAR LINE. -/
theorem closeAndFreeBatches_left (s : State) : (closeAndFreeBatches s).batches =
    (s.batches.map BatchEntry.close).filter fun b => !(b.queued == 0 && b.rolls == 0) := by
  have e : ((s.batches.map BatchEntry.close).filter fun b => !b.isSpent) =
      (s.batches.map BatchEntry.close).filter fun b => !(b.queued == 0 && b.rolls == 0) := by
    refine List.filter_congr fun y hy => ?_
    obtain ⟨b, _, rfl⟩ := List.mem_map.1 hy
    rw [close_isSpent]
    rfl
  rw [← e]
  unfold closeAndFreeBatches
  split
  · rfl
  · next h =>
    have hall : ∀ b ∈ s.batches, b.active = false ∧ b.isSpent = false := by simpa using h
    have e1 : s.batches.map BatchEntry.close = s.batches := by
      conv_rhs => rw [← List.map_id s.batches]
      exact List.map_congr_left fun b hb => close_of_closed b (hall b hb).1
    rw [e1]
    exact (List.filter_eq_self.2 fun b hb => by simp [(hall b hb).2]).symm

/-- R105: closing the batches of a table in which nothing is spent. -/
theorem closeBatches_left (s : State) (hs : ∀ b ∈ s.batches, b.isSpent = false) :
    (closeBatches s).batches = (s.batches.map BatchEntry.close).filter fun b => !(b.queued == 0 && b.rolls == 0) := by
  have hcl : ∀ b ∈ s.batches, b.active = false → b.close = b ∧ (b.queued == 0 && b.rolls == 0) = false := by
    intro b hb ha
    have e := close_of_closed b ha
    exact ⟨e, by rw [← close_isSpent, e, hs b hb]⟩
  unfold closeBatches
  split
  · simp only [State.raiseAll, List.filter_map]
    refine congrArg _ (List.filter_congr fun b hb => ?_)
    have e : b.close.queued = b.queued ∧ b.close.rolls = b.rolls := ⟨rfl, rfl⟩
    rw [close_isSpent, Function.comp, e.1, e.2]
    rcases ha : b.active with _ | _
    · rw [(hcl b hb ha).2]
      rfl
    · rfl
  · next hna =>
    have hall : ∀ b ∈ s.batches, b.active = false := by simpa using hna
    have e1 : s.batches.map BatchEntry.close = s.batches := by
      conv_rhs => rw [← List.map_id s.batches]
      exact List.map_congr_left fun b hb => (hcl b hb (hall b hb)).1
    rw [e1]
    exact (List.filter_eq_self.2 fun b hb => by simp [(hcl b hb (hall b hb)).2]).symm

end Sys2Proof.Machine
end

