-- ==== Sys2Proof/Laws/HandOver.lean ====
section
/-! SUPPORT. A cut handed over and a hand-over, in the words of Safety.lean: what `State.TakesCut` and `HandsOver` say is
what the machine does. -/

namespace Sys2Proof.Machine

/-! ### A cut handed over -/

/-- R133: the rolls of a cut record its position. -/
theorem recordPositions_recorded (s : State) (c : Cut) : recordPositions s c = s.recorded c := by
  rcases c with ⟨pos, n | n | ⟨n, m⟩, d, b⟩ <;>
    simp only [recordPositions, CutKind.starting, CutKind.ending, State.updateRoll, updateBy, State.recorded, List.map_map]
  all_goals
    congr 2
    apply List.map_congr_left
    intro y _
  · by_cases h : n = y.serial <;> simp [h, eq_comm (a := y.serial)]
  · by_cases h : n = y.serial <;> simp [h, eq_comm (a := y.serial)]
  · by_cases h : n = y.serial <;> by_cases h' : m = y.serial <;>
      simp [h, h', eq_comm (a := y.serial)]

/-- R143 step 1: the rolls of a refused cut gain CUT_FAULT. -/
theorem addHold_cutFaulted (s : State) (c : Cut) :
    addHold (addHold s c.kind.starting HoldFlags.ofCutFault) c.kind.ending HoldFlags.ofCutFault = s.cutFaulted c := by
  rcases c with ⟨pos, n | n | ⟨n, m⟩, d, b⟩ <;>
    simp only [addHold, CutKind.starting, CutKind.ending, State.updateRoll, updateBy, State.cutFaulted, List.map_map]
  all_goals
    congr 2
    apply List.map_congr_left
    intro y _
    simp only [Function.comp, Roll.addHold, HoldFlags.join_cutFault]
  · by_cases h : n = y.serial <;> simp [h, eq_comm (a := y.serial)]
  · by_cases h : n = y.serial <;> simp [h, eq_comm (a := y.serial)]
  · by_cases h : n = y.serial <;> by_cases h' : m = y.serial <;>
      by_cases h2 : y.state = .building ∨ y.state = .ending <;> simp [h, h', h2, eq_comm (a := y.serial)]

/-- R143 step 2: the ending roll of a cut that failed. -/
theorem completeEnding_failed (s : State) (c : Cut) (n : Nat) (o : CutOutcome) (h : c.kind.ending = some n) :
    completeEnding (s.cutFaulted c) n o = (match (s.cutFaulted c).findRoll n with
      | some x => if x.state = .ending then (s.cutFaulted c).endFailed x o.extra else s.cutFaulted c
      | none => s.cutFaulted c) := by
  unfold completeEnding
  rcases hf : (s.cutFaulted c).findRoll n with _ | x
  · rfl
  · obtain ⟨h1, h2⟩ := findBy_mem Roll.serial _ _ _ hf
    by_cases he : x.state = .ending
    · have hany : x.hold.any = true := by
        simp only [State.cutFaulted, List.mem_map] at h1
        obtain ⟨y, _, rfl⟩ := h1
        by_cases hc : (c.kind.starting = some y.serial ∨ c.kind.ending = some y.serial) ∧
          (y.state = .building ∨ y.state = .ending)
        · simp [hc, HoldFlags.any]
        · simp only [hc, if_false] at he h2
          exact absurd ⟨.inr (h.trans (by rw [h2])), .inr he⟩ hc
      subst h2
      simp only [he, if_true, hany, State.endFailed]
      by_cases hr : x.cls = some .remnant
      · simp only [hr, if_true]
        rfl
      · simp only [hr, if_false]
        rfl
    · simp only [he, if_false]

/-- R143, R144, R148: the rolls of a cut that failed. -/
theorem completeRolls_failed (s : State) (c : Cut) (ev : EventReport) (o : CutOutcome) :
    completeRolls (logEvent s ev) c.kind o HoldFlags.ofCutFault = s.cutFailed c ev o.extra := by
  unfold completeRolls State.cutFailed
  rw [addHold_cutFaulted]
  refine congrArg (fun t : State => t.raiseAll noticeCut) ?_
  rcases hc : c.kind.ending with _ | n
  · rfl
  · exact completeEnding_failed _ c n o hc

/-- R144: a cut that finds 4 cuts queued. -/
theorem refuseCut_refused (s : State) (c : Cut) : refuseCut s c = (s.recorded c).refused c := by
  unfold refuseCut
  rw [recordPositions_recorded]
  exact completeRolls_failed _ c _ .refused

/-- R133, R142, R144: a cut that the RB hands over. -/
theorem queueCut_takes (s v : State) (c : Cut) (h : s.TakesCut c v) (hr : NoStrayReach s) : queueCut s c = v := by
  rcases h with ⟨q, hq, rfl⟩ | ⟨h4, rfl⟩
  · rw [queueCut_queues s c q hq hr, recordPositions_recorded]
  · have : ¬s.ks.queue.length < Config.knifeCapacity := not_lt.2 h4
    rw [queueCut, if_neg this, refuseCut_refused]

theorem endFailed_keeps (s : State) (x : Roll) (e : BitVec 16) :
    (s.endFailed x e).ks = s.ks ∧ (s.endFailed x e).wpu = s.wpu := by
  unfold State.endFailed
  split
  · exact ⟨(freeTestOf_frame _ _).2.2.2.1, freeTestOf_reach _ _⟩
  · exact ⟨rfl, rfl⟩

/-- What a cut that failed leaves: the cuts and the web. -/
theorem cutFailed_keeps (s : State) (c : Cut) (ev : EventReport) (e : BitVec 16) :
    (s.cutFailed c ev e).ks = s.ks ∧ (s.cutFailed c ev e).wpu = s.wpu := by
  unfold State.cutFailed
  simp only
  repeat' split
  · exact endFailed_keeps _ _ _
  all_goals exact ⟨rfl, rfl⟩

theorem refused_keeps (s : State) (c : Cut) : (s.refused c).ks = s.ks ∧ (s.refused c).wpu = s.wpu :=
  cutFailed_keeps _ _ _ _

theorem freeTestOf_ks (s : State) (v : ShadeVerdict) (k : KnifeSequencer) :
    freeTestOf { s with ks := k } v = { freeTestOf s v with ks := k } := by
  cases v <;> simp only [freeTestOf, freeTest, State.findBatch]
  repeat' split
  all_goals rfl

/-- A cut that failed asks nothing of the Knife Sequencer. -/
theorem cutFailed_ks (s : State) (c : Cut) (ev : EventReport) (e : BitVec 16) (k : KnifeSequencer) :
    State.cutFailed { s with ks := k } c ev e = { s.cutFailed c ev e with ks := k } := by
  have h : ∀ (t : State) (x : Roll), State.endFailed { t with ks := k } x e = { t.endFailed x e with ks := k } := by
    intro t x
    unfold State.endFailed
    split
    · exact congrArg (fun u : State => logEvent u _) (freeTestOf_ks { t with
          rb := { t.rb with rolls := t.rb.rolls.filter fun y => decide (y.serial ≠ x.serial) }
          batches := t.batches.map fun b => if b.code = x.batch then { b with rolls := b.rolls - 1 } else b } _ k)
    · rfl
  have h1 : (logEvent { s with ks := k } ev).cutFaulted c = { (logEvent s ev).cutFaulted c with ks := k } := rfl
  have h2 : State.findRoll { (logEvent s ev).cutFaulted c with ks := k } = ((logEvent s ev).cutFaulted c).findRoll := rfl
  unfold State.cutFailed
  rw [h1]
  simp only [h2]
  rcases c.kind.ending.bind ((logEvent s ev).cutFaulted c).findRoll with _ | x
  · rfl
  · by_cases hx : x.state = .ending
    · simp only [hx, if_true, h]
    · simp only [hx, if_false]

/-- R148: a cut that was not answered in time. -/
theorem failCut_released (s : State) (o : Outstanding) (h : NoStrayReach s) :
    failCut s o = State.released (State.cutFailed
      { s with ks := { s.ks with outstanding := none, knifeReq := false, divert := o.cut.dest } } o.cut
      ⟨.knifeTimeout, .knife, none, o.cut.kind.ending.or o.cut.kind.starting, none, extraNat o.tKnife⟩ 1) := by
  unfold failCut
  have e := completeRolls_failed (answerCut s o) o.cut
    ⟨.knifeTimeout, .knife, none, o.cut.kind.ending.or o.cut.kind.starting, none, extraNat o.tKnife⟩ .timedOut
  refine (congrArg releaseCut e).trans ?_
  obtain ⟨k1, k2⟩ := cutFailed_keeps (answerCut s o) o.cut
    ⟨.knifeTimeout, .knife, none, o.cut.kind.ending.or o.cut.kind.starting, none, extraNat o.tKnife⟩
    CutOutcome.timedOut.extra
  rw [releaseCut_released _ (noStray_of h (by rw [k1]; rfl) (by rw [k2]; rfl)), k1]
  refine congrArg State.released (.trans ?_ (cutFailed_ks s o.cut _ _ _).symm)
  rw [answerCut, cutFailed_ks]
  rfl

theorem takesCut_noStray {s v : State} {c : Cut} (h : s.TakesCut c v) (hr : NoStrayReach s) : NoStrayReach v := by
  rcases h with ⟨q, _, rfl⟩ | ⟨_, rfl⟩
  · exact noStray_placed _ _
  · exact noStray_of hr (by rw [(refused_keeps _ c).1]; rfl) (by rw [(refused_keeps _ c).2]; rfl)

/-- The end position that a roll held before its cut is handed over does not show. -/
theorem queueCut_endPos (s : State) (c : Cut) (n : Nat) (pos : Word) (h : c.kind.ending = some n) :
    queueCut (s.updateRoll n fun y => { y with endPos := some pos }) c = queueCut s c := by
  have e : ∀ (t : State) (q : Cut), q.kind = c.kind →
      (t.updateRoll n fun y => { y with endPos := some pos }).recorded q = t.recorded q := by
    intro t q hq
    simp only [State.recorded, State.updateRoll, updateBy, List.map_map, hq, h]
    congr 2
    apply List.map_congr_left
    intro y _
    by_cases hy : y.serial = n <;> simp [hy]
  have ek : (s.ks.raised c).kind = c.kind := by
    unfold KnifeSequencer.raised
    repeat' split
    all_goals rfl
  unfold queueCut placeCut
  simp only [refuseCut, recordPositions_recorded]
  rw [e s c rfl]
  have := e { s with ks := { s.ks with queue := s.ks.queue ++ [s.ks.raised c] } } (s.ks.raised c) ek
  have e2 : State.recorded { s.updateRoll n fun y => { y with endPos := some pos } with
      ks := { s.ks with queue := s.ks.queue ++ [s.ks.raised c] } } (s.ks.raised c) =
    State.recorded { s with ks := { s.ks with queue := s.ks.queue ++ [s.ks.raised c] } } (s.ks.raised c) := this
  have e3 : (s.updateRoll n fun y => { y with endPos := some pos }).ks = s.ks := rfl
  rw [e3, e2]

/-! ### Every hand-over -/

/-- R125, R128 to R132: outside a roll a record starts one, and its START cut is handed over. -/
theorem handOver_startCut (s : State) (r : Recipe) (k : RepeatRecord) (c : Word) (code : Nat) (n : Counters)
    (hb : s.BuildsNone) (h : s.Starts r k code n) (hk : k.knifeMissed = false) (pos : Word)
    (hp : pos = r.fireAt c (k.creditedLen r) (s.rb.nextPhase r)) :
    handOver s r k c = freeTestOf (queueCut ((s.handed r k c).begun r k code n pos) (startCut pos (n.roll + 1)))
      k.shade := by
  obtain ⟨h1, h2, h3, _, _, h6⟩ := handed_keeps s r k c
  have hph : (s.handed r k c).rb.nextPhase r = s.rb.nextPhase r := by
    rw [handed_rb]
    rfl
  have hs : ∀ y ∈ (s.handed r k c).rb.rolls, y.serial ≤ n.roll := by
    rw [handed_rb]
    exact h.2.2.2.2.2.2
  rw [handOver_eq, handed_none s r k c hb, overtake_good s k h.1]
  simp only [decideAlone]
  rw [decideOwn_starts s _ r k c code n h hk h2 (by rw [h6]) (by rw [handed_rb]) hs, hph, ← hp]
  simp only [newRoll, firePos_eq, ← hp]

/-- The state in which the END cut of a roll that closes is handed over, with the position computed. -/
theorem queueCut_closed (s : State) (r : Recipe) (k : RepeatRecord) (c : Word) (x : Roll) (pos : Word) (cut : Cut)
    (h : cut.kind.ending = some x.serial) : queueCut (s.closed r k c x pos) cut = queueCut (s.closedBare r k c x) cut := by
  rw [← closedBare_endPos, queueCut_endPos _ _ _ _ h]

theorem goWaste_closedBare (s : State) (r : Recipe) (k : RepeatRecord) (c : Word) (x : Roll) (h : ¬x.LeavesTrim r) :
    goWaste (s.closedBare r k c x) = s.closedBare r k c x := by
  unfold Roll.LeavesTrim at h
  simp only [goWaste, State.closedBare, State.closed, if_neg h]

/-- R120, R121: a roll closes at a record that is trim, or that starts no roll, and its END cut is handed over. -/
theorem handOver_closedCut (s : State) (r : Recipe) (k : RepeatRecord) (c : Word) (x : Roll) (hx : s.Builds x)
    (h : ClosesAt r k x) (ht : x.LeavesTrim r ∨ k.isGood = false ∨ k.knifeMissed = true) (pos : Word)
    (hp : pos = r.fireAt c (k.creditedLen r) x.phase) :
    handOver s r k c = freeTestOf (queueCut (s.closed r k c (closing k x) pos) (endCut pos x.serial)) k.shade := by
  obtain ⟨h1, h2⟩ := handOver_closes s r k c x hx h
  obtain ⟨c1, c2, c3, _⟩ := closing_keeps k x r
  rw [queueCut_closed _ _ _ _ _ _ _ (by rw [c1]; rfl), hp]
  by_cases hl : x.LeavesTrim r
  · rw [h1 hl]
  · rw [h2 hl, decideOwn_bad]
    · have hl' : ¬(closing k x).LeavesTrim r := by
        unfold Roll.LeavesTrim
        rw [c2, c3]
        exact hl
      simp only [queueClose, goWaste_closedBare _ _ _ _ _ hl']
    · rw [overtake_isGood, (overtake_record s k).2.1]
      exact ht.resolve_left hl

/-- R121, R125, R132: a roll closes at a record whose start is refused, and its END cut is handed over. -/
theorem handOver_closedRefusedCut (s : State) (r : Recipe) (k : RepeatRecord) (c : Word) (x : Roll)
    (ev : Option EventReport) (hx : s.Builds x) (h : ClosesAt r k x) (hl : ¬x.LeavesTrim r)
    (he : s.RefusesStart r k ev) (hk : k.knifeMissed = false) (pos : Word)
    (hp : pos = r.fireAt c (k.creditedLen r) x.phase) :
    handOver s r k c = freeTestOf (queueCut ((s.closed r k c x pos).logged ev) (endCut pos x.serial)) k.shade := by
  obtain ⟨_, k2, _, k4, k5⟩ := closedBare_keeps s r k c x
  have hc : closing k x = x := by simp [closing, hk]
  have e : (s.closed r k c x pos).logged ev =
      ((s.closedBare r k c x).logged ev).updateRoll x.serial fun y => { y with endPos := some pos } := by
    rw [← closedBare_endPos]
    cases ev <;> rfl
  rw [(handOver_closes s r k c x hx h).2 hl, hc, overtake_good s k he.1,
    decideOwn_refused s _ r k c ev he hk k2 (by rw [k4]) k5, e, queueCut_endPos _ _ _ _ rfl, hp]
  simp only [queueClose, goWaste_closedBare _ _ _ _ _ hl]

/-- R121, R132: a roll closes at a record that starts another: the cuts handed over. -/
theorem handOver_closedStarts (s : State) (r : Recipe) (k : RepeatRecord) (c : Word) (x : Roll) (code : Nat)
    (n : Counters) (hx : s.Builds x) (h : ClosesAt r k x) (hl : ¬x.LeavesTrim r) (hs : s.Starts r k code n)
    (hk : k.knifeMissed = false) (pos start : Word) (hp : pos = r.fireAt c (k.creditedLen r) x.phase) (ph : Phase)
    (hph : ph = (s.closed r k c x pos).rb.nextPhase r) (hst : start = r.fireAt c (k.creditedLen r) ph) (v : State)
    (hv : v = (s.closed r k c x pos).begun r k code n start) :
    (ph = x.phase → handOver s r k c = freeTestOf (queueCut v (endStartCut pos x.serial (n.roll + 1))) k.shade) ∧
    (ph ≠ x.phase → handOver s r k c = freeTestOf
      (queueCut (queueCut v (endCut pos x.serial)) (startCut start (n.roll + 1))) k.shade) := by
  obtain ⟨_, k2, _, k4, k5⟩ := closedBare_keeps s r k c x
  have hc : closing k x = x := by simp [closing, hk]
  have hph' : (s.closedBare r k c x).rb.nextPhase r = ph := hph.symm
  have e : v = ((s.closedBare r k c x).begun r k code n start).updateRoll x.serial fun y =>
      { y with endPos := some pos } := by
    rw [hv, ← closedBare_endPos, begun_updateRoll _ _ _ _ _ _ _ _ (hs.2.2.2.2.2.2 x (Builds.mem hx))]
  rw [(handOver_closes s r k c x hx h).2 hl, hc, overtake_good s k hs.1,
    decideOwn_starts s _ r k c code n hs hk k2 (by rw [k4]) k5 (starts_serials s r k c x n.roll hx hs.2.2.2.2.2.2),
    hph', ← hst, ← hp, e, queueCut_endPos _ (endCut _ _) _ _ rfl, queueCut_endPos _ (endStartCut _ _ _) _ _ rfl]
  simp only [queueClose, newRoll, firePos_eq, ← hst]
  refine ⟨fun g => ?_, fun g => ?_⟩
  · rw [if_pos g]
  · rw [if_neg g]

/-- R122: the roll that is BUILDING when the knife point enters LOST, as a hand-over that follows finds it. -/
theorem builderTrackLost_faulted {r : Recipe} {u v : State} {k : RepeatRecord} {c : Word}
    (h : HandsOver r u.trackFaulted k c v) : builderTrackLost u = u.trackFaulted := by
  have hb : u.BuildsNone ∨ ∃ x, u.trackFaulted.Builds x := by
    cases h with
    | wasted hn | refused _ _ hn | starts _ _ _ _ hn => exact .inl hn
    | folds x hx | foldsMissed x hx | closes x _ _ _ hx | closesRefused x _ _ _ hx | endStart x _ _ _ _ _ hx
    | endThenStart x _ _ _ _ _ _ _ hx => exact .inr ⟨x, hx⟩
  have none_eq : (∀ n, u.rb.segment ≠ .roll n) → u.trackFaulted = u := by
    intro h
    simp only [State.trackFaulted, h, if_false, List.map_id']
  unfold builderTrackLost State.buildingRoll
  rcases hs : u.rb.segment with _ | n | _ | _
  · exact (none_eq (by simp [hs])).symm
  · obtain ⟨x, hx⟩ := hb.resolve_left fun h => h n hs
    have e : u.trackFaulted = u.updateRoll n Roll.faulted := by
      simp [State.trackFaulted, hs, State.updateRoll, updateBy, eq_comm]
    have hm := Builds.mem hx
    rw [e] at hx hm
    obtain ⟨y, hy, rfl⟩ := List.mem_map.1 hm
    have hn : y.serial = n := by
      have h1 : Segment.roll n = .roll _ := hs.symm.trans hx.1
      split at h1 <;> exact (Segment.roll.inj h1).symm
    simp only [hn, if_true] at hx
    have hnd : (u.rb.rolls.map Roll.serial).Nodup := by
      have := hx.2.2.2
      simp only [State.updateRoll, updateBy, List.map_map] at this
      convert this using 1
      apply List.map_congr_left
      intro z _
      by_cases hz : z.serial = n <;> simp [hz, Roll.faulted]
    have hu : u.Builds y := ⟨hs.trans (by rw [hn]), findBy_nodup Roll.serial _ y hnd hy, hx.2.2.1, hnd⟩
    have hf : u.findRoll n = some y := hn ▸ hu.2.1
    simp only [hf, trackingFault]
    rw [e, ← hn, Builds.update hu rfl, Builds.update hu rfl, addHold_trackingFault y hu.2.2.1]
  · exact (none_eq (by simp [hs])).symm
  · exact (none_eq (by simp [hs])).symm

/-- A hand-over is what `HandsOver` says, and leaves no stray reach. -/
theorem handOver_handsOver {r : Recipe} {u v : State} {k : RepeatRecord} {c : Word} (h : HandsOver r u k c v)
    (hr : NoStrayReach u) : handOver u r k c = v ∧ NoStrayReach v := by
  have hb : ∀ (t : State) (code : Nat) (n : Counters) (p : Word), NoStrayReach t → NoStrayReach (t.begun r k code n p) :=
    fun t code n p ht => noStray_of ht (by rw [(begun_keeps t r k code n p).1]) (by rw [(begun_keeps t r k code n p).2])
  have hc : ∀ (x : Roll) (pos : Word), NoStrayReach (u.closed r k c x pos) := fun x pos => handed_noStray u r k c hr
  have hlog : ∀ (t : State) (ev : Option EventReport), NoStrayReach t → NoStrayReach (t.logged ev) :=
    fun t ev ht => noStray_of ht (by rw [(logged_keeps t ev).1]) (by rw [(logged_keeps t ev).2])
  cases h with
  | wasted hn hg => exact ⟨handOver_wasted u r k c hn hg, noStray_wasted r k c hr⟩
  | refused ev v hn hk he hv =>
    subst hv
    exact ⟨handOver_refused u r k c ev he hk hn, noStray_freeTestOf _ (hlog _ _ (handed_noStray u r k c hr))⟩
  | starts code n pos v hn hk hs hp ht =>
    have hr1 := hb _ code n pos (handed_noStray u r k c hr)
    rw [handOver_startCut u r k c code n hn hs hk pos hp, startCut, queueCut_takes _ _ _ ht hr1]
    exact ⟨rfl, noStray_freeTestOf _ (takesCut_noStray ht hr1)⟩
  | folds x hx hl hk hg hs => exact ⟨handOver_folded u r k c x hx hl hk hg hs, noStray_folded r k c _ hr⟩
  | foldsMissed x hx hl hk => exact ⟨handOver_skipped u r k c x hx hl hk, noStray_folded r k c _ hr⟩
  | closes x y pos v hx hcl ht hy hp hv =>
    subst hy
    rw [handOver_closedCut u r k c x hx hcl ht pos hp, endCut]
    exact ⟨by rw [← queueCut_takes _ _ _ hv (hc _ _)]; rfl, noStray_freeTestOf _ (takesCut_noStray hv (hc _ _))⟩
  | closesRefused x ev pos v hx hcl hl hk he hp hv =>
    have hr1 := hlog _ ev (hc x pos)
    rw [handOver_closedRefusedCut u r k c x ev hx hcl hl he hk pos hp, endCut, queueCut_takes _ _ _ hv hr1]
    exact ⟨rfl, noStray_freeTestOf _ (takesCut_noStray hv hr1)⟩
  | endStart x code n pos v w hx hcl hl hk hs hp hv hph hw =>
    subst hv
    have hr1 := hb _ code n pos (hc x pos)
    rw [(handOver_closedStarts u r k c x code n hx hcl hl hs hk pos pos hp _ rfl (by rw [hph]; exact hp) _ rfl).1 hph,
      endStartCut, queueCut_takes _ _ _ hw hr1]
    exact ⟨rfl, noStray_freeTestOf _ (takesCut_noStray hw hr1)⟩
  | endThenStart x code n pos start v w z hx hcl hl hk hs hp hv hph hst hw hz =>
    subst hv
    have hr1 := hb _ code n start (hc x pos)
    have hr2 := takesCut_noStray hw hr1
    rw [(handOver_closedStarts u r k c x code n hx hcl hl hs hk pos start hp _ rfl hst _ rfl).2 hph, endCut,
      queueCut_takes _ _ _ hw hr1, startCut, queueCut_takes _ _ _ hz hr2]
    exact ⟨rfl, noStray_freeTestOf _ (takesCut_noStray hz hr2)⟩

/-! ### There is always a state after -/

/-- R142, R144: every cut handed over is queued or refused. -/
theorem takesCut_total (s : State) (c : Cut) : ∃ v, s.TakesCut c v := by
  by_cases h4 : s.ks.queue.length < 4
  · refine ⟨_, .inl ⟨s.ks.raised c, ⟨h4, ?_⟩, rfl⟩⟩
    unfold KnifeSequencer.raised
    rcases hr : s.ks.reference with _ | p
    · refine .inr ⟨fun q hq => ?_, rfl⟩
      rw [KnifeSequencer.behind_iff, hr] at hq
      cases hq
    · by_cases hd : signedDistance p c.pos < 0
      · exact .inl ⟨p, (KnifeSequencer.behind_iff _ _).2 hr, hd, by simp [hd]⟩
      · refine .inr ⟨fun q hq => ?_, by simp [hd]⟩
        rw [KnifeSequencer.behind_iff, hr] at hq
        cases hq
        exact not_lt.1 hd
  · exact ⟨_, .inr ⟨not_lt.1 h4, rfl⟩⟩

/-- R125, R126: a good record starts a roll or is refused. -/
theorem starts_or_refused (u : State) (r : Recipe) (k : RepeatRecord) (n : Counters) (hg : k.isGood = true)
    (hn : u.ps.reserved = some n) (hle : n.roll ≤ 4294967295) (hs : ∀ y ∈ u.rb.rolls, y.serial ≤ n.roll) :
    (∃ code, u.Starts r k code n) ∨ ∃ ev, u.RefusesStart r k ev := by
  obtain ⟨code, hc⟩ := (isGood_facts k hg).2.2
  by_cases h16 : u.rb.rolls.length < 16
  · by_cases hl : r.lookAhead = true → ¬LookAheadForbids r k code u.rt.queue.tail
    · by_cases hx : n.roll < 4294967295
      · exact .inl ⟨code, hg, hc, h16, hl, hn, hx, hs⟩
      · exact .inr ⟨_, hg, code, hc, .inr (.inr ⟨h16, hl, ⟨n, hn, by omega⟩, rfl⟩)⟩
    · simp only [Classical.not_imp, not_not] at hl
      exact .inr ⟨_, hg, code, hc, .inr (.inl ⟨h16, hl.1, hl.2, rfl⟩)⟩
  · exact .inr ⟨_, hg, code, hc, .inl ⟨not_lt.1 h16, rfl⟩⟩

/-- A record is always handed over, where the segment names the BUILDING roll or none and the reserved roll counter is
known. -/
theorem handsOver_total (r : Recipe) (u : State) (k : RepeatRecord) (c : Word) (n : Counters)
    (hb : u.BuildsNone ∨ ∃ x, u.Builds x) (hn : u.ps.reserved = some n) (hle : n.roll ≤ 4294967295)
    (hs : ∀ y ∈ u.rb.rolls, y.serial ≤ n.roll) : ∃ v, HandsOver r u k c v := by
  by_cases hg : k.isGood = false ∨ k.knifeMissed = true
  · rcases hb with hb | ⟨x, hx⟩
    · exact ⟨_, .wasted hb hg⟩
    · by_cases hcl : ClosesAt r k x
      · obtain ⟨v, hv⟩ := takesCut_total
          (u.closed r k c (if k.knifeMissed then x.faulted else x) (r.fireAt c (k.creditedLen r) x.phase))
          ⟨r.fireAt c (k.creditedLen r) x.phase, .ends x.serial, .waste, false⟩
        exact ⟨_, .closes x _ _ v hx hcl (.inr hg) rfl rfl hv⟩
      · simp only [ClosesAt, not_or, not_and, not_le] at hcl
        rcases hk : k.knifeMissed with _ | _
        · exact absurd (hg.resolve_right (by simp [hk])) (hcl.2 hk).1
        · exact ⟨_, .foldsMissed x hx hcl.1 hk⟩
  · simp only [not_or, Bool.not_eq_false, Bool.not_eq_true] at hg
    obtain ⟨hg, hk⟩ := hg
    have hsr := starts_or_refused u r k n hg hn hle hs
    rcases hb with hb | ⟨x, hx⟩
    · rcases hsr with ⟨code, h⟩ | ⟨ev, h⟩
      · obtain ⟨v, hv⟩ := takesCut_total
          ((u.handed r k c).begun r k code n (r.fireAt c (k.creditedLen r) (u.rb.nextPhase r))) _
        exact ⟨_, .starts code n _ v hb hk h rfl hv⟩
      · exact ⟨_, .refused ev _ hb hk h rfl⟩
    · by_cases hcl : ClosesAt r k x
      · by_cases hl : x.LeavesTrim r
        · obtain ⟨v, hv⟩ := takesCut_total
            (u.closed r k c (if k.knifeMissed then x.faulted else x) (r.fireAt c (k.creditedLen r) x.phase)) _
          exact ⟨_, .closes x _ _ v hx hcl (.inl hl) rfl rfl hv⟩
        · rcases hsr with ⟨code, h⟩ | ⟨ev, h⟩
          · by_cases hp : (u.closed r k c x (r.fireAt c (k.creditedLen r) x.phase)).rb.nextPhase r = x.phase
            · obtain ⟨w, hw⟩ := takesCut_total
                ((u.closed r k c x (r.fireAt c (k.creditedLen r) x.phase)).begun r k code n
                  (r.fireAt c (k.creditedLen r) x.phase)) _
              exact ⟨_, .endStart x code n _ _ w hx hcl hl hk h rfl rfl hp hw⟩
            · obtain ⟨w, hw⟩ := takesCut_total
                ((u.closed r k c x (r.fireAt c (k.creditedLen r) x.phase)).begun r k code n (r.fireAt c (k.creditedLen r)
                  ((u.closed r k c x (r.fireAt c (k.creditedLen r) x.phase)).rb.nextPhase r))) _
              obtain ⟨z, hz⟩ := takesCut_total w _
              exact ⟨_, .endThenStart x code n _ _ _ w z hx hcl hl hk h rfl rfl hp rfl hw hz⟩
          · obtain ⟨v, hv⟩ := takesCut_total ((u.closed r k c x (r.fireAt c (k.creditedLen r) x.phase)).logged ev) _
            exact ⟨_, .closesRefused x ev _ v hx hcl hl hk h rfl hv⟩
      · simp only [ClosesAt, not_or, not_and, not_le, hg, Bool.true_eq_false, ne_eq, not_not] at hcl
        exact ⟨_, .folds x hx hcl.1 hk hg (hcl.2 hk).2⟩

end Sys2Proof.Machine
end

