-- ==== Sys2Proof/Laws/PerInstr.lean ====
section
/-! SUPPORT. The statements made of every command. CatalogueLength: a command that is a port request has a row in the
catalogue, and its argument bytes are of a length that the row lists. -/

namespace Sys2Proof.Laws

/-- Section 11.2: the argument bytes of a request are of a length that its row of the catalogue lists. -/
def CatalogueLength.Statement (i : Instr) : Prop :=
  commandCode i = 0 ∨ ∃ row ∈ catalogue, row.code = commandCode i ∧ (argumentBytes i).length ∈ row.lengths

theorem CatalogueLength.deviceReset (cause : ResetCause) (commitLanded : Bool) :
    CatalogueLength.Statement (.deviceReset cause commitLanded) := Or.inl rfl

theorem CatalogueLength.encoderCount (encoder : Encoder) (a b : Bool) :
    CatalogueLength.Statement (.encoderCount encoder a b) := Or.inl rfl

theorem CatalogueLength.caCount (a b : Bool) : CatalogueLength.Statement (.caCount a b) := Or.inl rfl

theorem CatalogueLength.caIndex : CatalogueLength.Statement .caIndex := Or.inl rfl

theorem CatalogueLength.markCapture (sensor : Sensor) : CatalogueLength.Statement (.markCapture sensor) := Or.inl rfl

theorem CatalogueLength.splice : CatalogueLength.Statement .splice := Or.inl rfl

theorem CatalogueLength.knifeAck : CatalogueLength.Statement .knifeAck := Or.inl rfl

theorem CatalogueLength.knifeTimeout : CatalogueLength.Statement .knifeTimeout := Or.inl rfl

theorem CatalogueLength.pwmPeriodEnd : CatalogueLength.Statement .pwmPeriodEnd := Or.inl rfl

theorem CatalogueLength.writeSuspend : CatalogueLength.Statement .writeSuspend := Or.inl rfl

theorem CatalogueLength.storeWriteEnd (agrees : Bool) : CatalogueLength.Statement (.storeWriteEnd agrees) := Or.inl rfl

theorem CatalogueLength.commitAttemptEnd (agrees : Bool) :
    CatalogueLength.Statement (.commitAttemptEnd agrees) := Or.inl rfl

theorem CatalogueLength.readStatus (port : Port) (clocked : List Byte) :
    CatalogueLength.Statement (.readStatus port clocked) :=
  Or.inr ⟨⟨1, allPorts, [0]⟩, by simp [catalogue], rfl, by simp [argumentBytes]⟩

theorem CatalogueLength.fetchReply (port : Port) (clocked : List Byte) :
    CatalogueLength.Statement (.fetchReply port clocked) :=
  Or.inr ⟨⟨2, allPorts, [0]⟩, by simp [catalogue], rfl, by simp [argumentBytes]⟩

theorem CatalogueLength.badFrame (port : Port) (frame : Frame) :
    CatalogueLength.Statement (.badFrame port frame) := Or.inl rfl

theorem CatalogueLength.setNotices (port : Port) (notices : Byte) :
    CatalogueLength.Statement (.setNotices port notices) :=
  Or.inr ⟨⟨3, allPorts, [1]⟩, by simp [catalogue], rfl, by simp [argumentBytes]⟩

theorem CatalogueLength.ackNotices (port : Port) (notices : Byte) :
    CatalogueLength.Statement (.ackNotices port notices) :=
  Or.inr ⟨⟨4, allPorts, [1]⟩, by simp [catalogue], rfl, by simp [argumentBytes]⟩

theorem CatalogueLength.resumeLine (port : Port) : CatalogueLength.Statement (.resumeLine port) :=
  Or.inr ⟨⟨8, allPorts, [0]⟩, by simp [catalogue], rfl, by simp [argumentBytes]⟩

theorem CatalogueLength.clearArm (port : Port) : CatalogueLength.Statement (.clearArm port) :=
  Or.inr ⟨⟨9, allPorts, [0]⟩, by simp [catalogue], rfl, by simp [argumentBytes]⟩

theorem CatalogueLength.clearLine (port : Port) : CatalogueLength.Statement (.clearLine port) :=
  Or.inr ⟨⟨10, allPorts, [0]⟩, by simp [catalogue], rfl, by simp [argumentBytes]⟩

theorem CatalogueLength.loadRecipe (port : Port) (slot : Byte) :
    CatalogueLength.Statement (.loadRecipe port slot) :=
  Or.inr ⟨⟨16, [.portP], [1]⟩, by simp [catalogue], rfl, by simp [argumentBytes]⟩

theorem CatalogueLength.startRun (port : Port) : CatalogueLength.Statement (.startRun port) :=
  Or.inr ⟨⟨17, [.portP], [0]⟩, by simp [catalogue], rfl, by simp [argumentBytes]⟩

theorem CatalogueLength.endRun (port : Port) : CatalogueLength.Statement (.endRun port) :=
  Or.inr ⟨⟨18, [.portP], [0]⟩, by simp [catalogue], rfl, by simp [argumentBytes]⟩

theorem CatalogueLength.flushRun (port : Port) : CatalogueLength.Statement (.flushRun port) :=
  Or.inr ⟨⟨19, [.portP, .portF], [0]⟩, by simp [catalogue], rfl, by simp [argumentBytes]⟩

theorem CatalogueLength.writeRecipe (port : Port) (image : RecipeImage) :
    CatalogueLength.Statement (.writeRecipe port image) :=
  Or.inr ⟨⟨24, [.portP, .portQ], [38]⟩, by simp [catalogue], rfl, by simp [argumentBytes, recipeImageBytes]⟩

theorem CatalogueLength.readRecipe (port : Port) (slot : Byte) :
    CatalogueLength.Statement (.readRecipe port slot) :=
  Or.inr ⟨⟨25, allPorts, [1]⟩, by simp [catalogue], rfl, by simp [argumentBytes]⟩

theorem CatalogueLength.writeSetup (port : Port) (args : SetupArgs) :
    CatalogueLength.Statement (.writeSetup port args) :=
  Or.inr ⟨⟨26, [.portF], [14]⟩, by simp [catalogue], rfl, by simp [argumentBytes, setupArgBytes]⟩

theorem CatalogueLength.readSetup (port : Port) : CatalogueLength.Statement (.readSetup port) :=
  Or.inr ⟨⟨27, allPorts, [0]⟩, by simp [catalogue], rfl, by simp [argumentBytes]⟩

theorem CatalogueLength.seedCounters (port : Port) (batch roll : BitVec 32) :
    CatalogueLength.Statement (.seedCounters port batch roll) :=
  Or.inr ⟨⟨28, [.portF], [8]⟩, by simp [catalogue], rfl, by simp [argumentBytes]⟩

theorem CatalogueLength.readCounters (port : Port) : CatalogueLength.Statement (.readCounters port) :=
  Or.inr ⟨⟨29, allPorts, [0]⟩, by simp [catalogue], rfl, by simp [argumentBytes]⟩

theorem CatalogueLength.reportDefect (port : Port) (seq : BitVec 32) (kind severity : Byte) (cross : BitVec 16) :
    CatalogueLength.Statement (.reportDefect port seq kind severity cross) :=
  Or.inr ⟨⟨32, [.portP, .portQ], [8]⟩, by simp [catalogue], rfl, by simp [argumentBytes]⟩

theorem CatalogueLength.shadeReport (port : Port) (seq : BitVec 32) (l a b : BitVec 16) :
    CatalogueLength.Statement (.shadeReport port seq l a b) :=
  Or.inr ⟨⟨33, [.portQ], [10]⟩, by simp [catalogue], rfl, by simp [argumentBytes]⟩

theorem CatalogueLength.readRepeat (port : Port) (seq : BitVec 32) :
    CatalogueLength.Statement (.readRepeat port seq) :=
  Or.inr ⟨⟨34, allPorts, [4]⟩, by simp [catalogue], rfl, by simp [argumentBytes]⟩

theorem CatalogueLength.readRoll (port : Port) (serial : Option (BitVec 32)) :
    CatalogueLength.Statement (.readRoll port serial) := by
  refine Or.inr ⟨⟨40, allPorts, [0, 4]⟩, by simp [catalogue], rfl, ?_⟩
  cases serial <;> simp [argumentBytes]

theorem CatalogueLength.readBatch (port : Port) (code : Option (BitVec 32)) :
    CatalogueLength.Statement (.readBatch port code) := by
  refine Or.inr ⟨⟨41, allPorts, [0, 4]⟩, by simp [catalogue], rfl, ?_⟩
  cases code <;> simp [argumentBytes]

theorem CatalogueLength.getLabel (port : Port) : CatalogueLength.Statement (.getLabel port) :=
  Or.inr ⟨⟨48, [.portQ], [0]⟩, by simp [catalogue], rfl, by simp [argumentBytes]⟩

theorem CatalogueLength.labelDone (port : Port) (serial : BitVec 32) :
    CatalogueLength.Statement (.labelDone port serial) :=
  Or.inr ⟨⟨49, [.portQ], [4]⟩, by simp [catalogue], rfl, by simp [argumentBytes]⟩

theorem CatalogueLength.rollDisposition (port : Port) (serial : BitVec 32) (decision : Byte) :
    CatalogueLength.Statement (.rollDisposition port serial decision) :=
  Or.inr ⟨⟨50, [.portQ], [5]⟩, by simp [catalogue], rfl, by simp [argumentBytes]⟩

theorem CatalogueLength.readEvents (port : Port) (start : BitVec 32) :
    CatalogueLength.Statement (.readEvents port start) :=
  Or.inr ⟨⟨56, allPorts, [4]⟩, by simp [catalogue], rfl, by simp [argumentBytes]⟩

theorem CatalogueLength.clearEvents (port : Port) : CatalogueLength.Statement (.clearEvents port) :=
  Or.inr ⟨⟨57, allPorts, [0]⟩, by simp [catalogue], rfl, by simp [argumentBytes]⟩

end Sys2Proof.Laws
end

