-- ==== Sys2Proof/Laws/Replies.lean ====
section
/-! SUPPORT. The effect of a request and its reply: logging, raising, firing, draining and opening a batch commute with the
taking of the request, so that a request whose effect is known answers that effect with the reply placed on it. -/

namespace Sys2Proof.Machine

variable (port : Port) (i : Instr)

/-- R198: a permitted request whose command has the effect t is answered on t. -/
theorem takeRequest_effect (s t : State) (body : State → State × Answer) (a : Answer)
    (h : permitted (commandCode i) port = true) (hb : body (s.taken port i) = (t.taken port i, a)) :
    takeRequest port i s body = t.answered port i a.status a.data := by
  rw [takeRequest_permitted port i s body h, hb, State.taken_answered]

/-! ### What commutes with the taking of a request -/

theorem logEvent_taken (s : State) (r : EventReport) :
    logEvent (s.taken port i) r = (logEvent s r).taken port i := by
  cases port <;> rfl

theorem raiseAll_taken (s : State) (b : Byte) : (s.taken port i).raiseAll b = (s.raiseAll b).taken port i := by
  cases port <;> rfl

theorem updateRecord_taken (s : State) (n : Nat) (f : RepeatRecord → RepeatRecord) :
    (s.taken port i).updateRecord n f = (s.updateRecord n f).taken port i := rfl

theorem drainEnded_taken (s : State) (r : Recipe) (n : Option Nat) :
    (s.taken port i).drainEnded r n = (s.drainEnded r n).taken port i := by
  unfold State.drainEnded
  rw [← logEvent_taken]
  cases port <;> rfl

theorem fired_taken (s : State) (c : Cut) (rest : List Cut) :
    (s.taken port i).fired c rest = (s.fired c rest).taken port i := by
  have hp : (s.taken port i).ps = s.ps := rfl
  have hw : (s.taken port i).wpu = s.wpu := rfl
  unfold State.fired
  by_cases h : (c.raised || decide ((s.ps.setup.lateTol : Int) < signedDistance c.pos s.wpu.le)) = true
  · simp only [hp, hw, h, if_true]
    cases port <;> rfl
  · simp only [hp, hw, h]
    cases port <;> rfl

theorem placed_taken (s : State) (q : Cut) : (s.taken port i).placed q = (s.placed q).taken port i := by
  have hk : (s.taken port i).ks = s.ks := rfl
  have hw : (s.taken port i).wpu = s.wpu := rfl
  unfold State.placed
  rw [hk, hw]
  split_ifs
  · exact fired_taken port i s q []
  · rfl
  · rfl

theorem drained_taken (s : State) (r : Recipe) : (s.taken port i).drained r = (s.drained r).taken port i := by
  have hb : (s.taken port i).rb = s.rb := rfl
  have hf : ∀ n, (s.taken port i).findRoll n = s.findRoll n := fun _ => rfl
  unfold State.drained
  simp only [hb, hf]
  split
  · split
    · rw [← drainEnded_taken, ← placed_taken]
      rfl
    · rw [← drainEnded_taken]
      rfl
  all_goals
    rw [← drainEnded_taken]
    rfl

theorem settled_taken (s : State) : (s.taken port i).settled = s.settled.taken port i := by
  unfold State.settled
  rw [show (s.taken port i).sc.session = s.sc.session from rfl, show (s.taken port i).rt = s.rt from rfl,
    show (s.taken port i).ks = s.ks from rfl]
  split
  · split_ifs
    · exact drained_taken port i s _
    · rfl
  all_goals rfl

/-! ### Readings -/

theorem updateBatch_taken (s : State) (n : Nat) (f : BatchEntry → BatchEntry) :
    (s.taken port i).updateBatch n f = (s.updateBatch n f).taken port i := rfl

theorem freeTest_taken (s : State) (n : Nat) : freeTest (s.taken port i) n = (freeTest s n).taken port i := by
  unfold freeTest
  rw [show (s.taken port i).findBatch n = s.findBatch n from rfl]
  split
  · split
    · exact raiseAll_taken port i { s with batches := eraseBy BatchEntry.code n s.batches } noticeBatch
    · rfl
  · rfl

theorem slotClosure_taken (s : State) (r : Recipe) :
    slotClosure (s.taken port i) r = (slotClosure s r).taken port i := by
  unfold slotClosure
  rw [show (s.taken port i).batches = s.batches from rfl]
  split
  · split
    · simp only [updateBatch_taken, logEvent_taken, raiseAll_taken, freeTest_taken]
    · rfl
  · rfl

theorem createBatch_taken (s : State) (r : Recipe) (n : Nat) (x : Lab) :
    createBatch (s.taken port i) r n x = ((createBatch s r n x).1.taken port i, (createBatch s r n x).2) := by
  cases port <;> rfl

theorem openBatch_taken (s : State) (r : Recipe) (n : Nat) (x : Lab) :
    openBatch (s.taken port i) r n x = ((openBatch s r n x).1.taken port i, (openBatch s r n x).2) := by
  unfold openBatch
  rw [show (s.taken port i).ps = s.ps from rfl]
  simp only [slotClosure_taken, logEvent_taken, createBatch_taken]
  rw [show ((slotClosure s r).taken port i).batches = (slotClosure s r).batches from rfl]
  split_ifs <;> rfl

theorem winBatch_taken (s : State) (r : Recipe) (n : Nat) (x : Lab) (b : BatchEntry) :
    winBatch (s.taken port i) r n x b = (winBatch s r n x b).taken port i := by
  unfold winBatch
  simp only [updateBatch_taken, raiseAll_taken]
  split_ifs <;> rfl

theorem classify_taken (s : State) (r : Recipe) (n : Nat) (x : Lab) :
    classify (s.taken port i) r n x = ((classify s r n x).1.taken port i, (classify s r n x).2) := by
  unfold classify
  rw [show (s.taken port i).batches = s.batches from rfl]
  split
  · simp only [winBatch_taken]
  · exact openBatch_taken port i s r n x

/-- R87: a reading taken on the state in which its request is carried out. -/
theorem takeReading_taken (s : State) (r : Recipe) (n : Nat) (x : Lab) :
    takeReading (s.taken port i) r n x = ((takeReading s r n x).1.taken port i, (takeReading s r n x).2) := by
  unfold takeReading
  simp only [classify_taken, updateRecord_taken]
  rfl

/-- R96: the entry of the lowest last matched seq. -/
theorem lowestSeq_of (l : List BatchEntry) (b : BatchEntry) (hb : b ∈ l)
    (h : ∀ y ∈ l, y ≠ b → b.lastSeq < y.lastSeq) : lowestSeq l = some b := by
  rcases l with _ | ⟨a, l⟩
  · simp at hb
  rw [lowestSeq]
  congr 1
  induction l generalizing a with
  | nil => simpa [eq_comm] using hb
  | cons c l ih =>
    rw [List.foldl_cons]
    by_cases hc : b = a ∨ b = c
    · have e : (if c.lastSeq < a.lastSeq then c else a) = b := by
        rcases hc with rfl | rfl
        · rcases eq_or_ne c b with rfl | hcb
          · simp
          · rw [if_neg (by have := h c (by simp) hcb; omega)]
        · rcases eq_or_ne a b with rfl | hab
          · simp
          · rw [if_pos (h a (by simp) hab)]
      rw [e]
      exact ih b (by simp) fun y hy => h y (by simp at hy ⊢; rcases hy with rfl | hy <;> simp_all)
    · rw [not_or] at hc
      apply ih
      · simp only [List.mem_cons, hc.1, hc.2, false_or] at hb
        simp [hb]
      · intro y hy
        apply h
        simp only [List.mem_cons] at hy ⊢
        rcases hy with rfl | hy
        · split_ifs <;> simp
        · simp [hy]

theorem eraseBy_updateBy {α : Type} (key : α → Nat) (k : Nat) (f : α → α) (l : List α) (h : ∀ x, key (f x) = key x) :
    eraseBy key k (updateBy key k f l) = l.filter fun x => decide (key x ≠ k) := by
  unfold eraseBy updateBy
  induction l with
  | nil => rfl
  | cons x l ih =>
    rw [List.map_cons, List.filter_cons, List.filter_cons, ih]
    by_cases hx : key x = k <;> simp [hx, h]

/-- R96, R104: slot closure as `SlotCleared` says. -/
theorem slotClosure_cleared (s u : State) (r : Recipe) (hn : (s.batches.map BatchEntry.code).Nodup)
    (h : SlotCleared s r u) : slotClosure s r = u := by
  unfold slotClosure
  rcases h with ⟨h, rfl⟩ | ⟨h, b, hb, ha, hl, v, rfl, rfl⟩
  · rw [if_neg (by omega)]
  · rw [if_pos h, lowestSeq_of _ b (by simp [hb, ha]) fun y hy => hl y (by simp at hy; exact hy.1) (by simp at hy; exact hy.2)]
    have hu : updateBy BatchEntry.code b.code BatchEntry.close s.batches =
        s.batches.map fun y => if y.code = b.code then { b with state := .closed } else y :=
      updateBy_eq_map BatchEntry.code s.batches b BatchEntry.close hn hb
    obtain ⟨w, hw⟩ : ∃ w, w = (logEvent (s.updateBatch b.code BatchEntry.close)
      ⟨.batchClosed, .quality, some b.lastSeq, none, some b.code, 0⟩).raiseAll noticeBatch := ⟨_, rfl⟩
    have hwb : w.batches = s.batches.map fun y => if y.code = b.code then { b with state := .closed } else y := by
      rw [← hu, hw]
      rfl
    have hf : w.findBatch b.code = some { b with state := .closed } := by
      apply findBy_nodup BatchEntry.code _ { b with state := .closed }
      · rw [hwb, List.map_map]
        convert hn using 1
        apply List.map_congr_left
        intro y _
        by_cases hy : y.code = b.code <;> simp [hy]
      · rw [hwb, List.mem_map]
        exact ⟨b, hb, by simp⟩
    have he : eraseBy BatchEntry.code b.code w.batches = s.batches.filter fun y => decide (y.code ≠ b.code) := by
      rw [hwb, ← hu]
      exact eraseBy_updateBy BatchEntry.code b.code BatchEntry.close s.batches fun _ => rfl
    have hx : freeTest w b.code = if b.queued = 0 ∧ b.rolls = 0 then
        { w with batches := s.batches.filter fun y => decide (y.code ≠ b.code) }.raiseAll noticeBatch else w := by
      unfold freeTest
      rw [hf, he]
      by_cases hz : b.queued = 0 ∧ b.rolls = 0
      · rw [if_pos hz]
        simp [BatchEntry.isSpent, hz]
      · rw [if_neg hz]
        rw [not_and] at hz
        simpa [BatchEntry.isSpent] using fun h1 h2 => absurd h2 (hz h1)
    show freeTest _ _ = _
    rw [show (logEvent (s.updateBatch b.code BatchEntry.close)
      ⟨.batchClosed, .quality, some b.lastSeq, none, some b.code, 0⟩).raiseAll noticeBatch = w from hw.symm, hx]
    by_cases hz : b.queued = 0 ∧ b.rolls = 0
    · rw [if_pos hz, if_pos hz, hw]
      have hr : ∀ q : PortState, (q.raise noticeBatch).raise noticeBatch = q.raise noticeBatch := fun q => by
        simp [PortState.raise, BitVec.or_assoc]
      have hp : ∀ q : PerPort PortState, (q.map fun x => x.raise noticeBatch).map (fun x => x.raise noticeBatch) =
          q.map fun x => x.raise noticeBatch := fun q => by
        simp [PerPort.map, hr]
      simp only [State.raiseAll, hp]
      rfl
    · rw [if_neg hz, if_neg hz, ← hu, hw]
      rfl

end Sys2Proof.Machine
end

