-- ==== Sys2Proof/WellFormed.lean ====
section
/-! DEFINITION. When a command's operands are such as the part can meet. Only BAD_FRAME has a check: its frame holds a
complete byte and is malformed by the frame check of R197. Every other operand stands at the width it has on a wire or
a pin, and each of its values can occur. -/

namespace Sys2Proof

/-- R197: a frame with no complete byte is ignored, so it is no BAD_FRAME step. -/
def hasCompleteByte (f : Frame) : Bool := !f.bytes.isEmpty

/-- A command the part can meet. -/
def WellFormed : Instr → Bool
  | .badFrame _ f => hasCompleteByte f && frameBad f
  | .deviceReset _ _ | .encoderCount _ _ _ | .caCount _ _ | .caIndex | .markCapture _ | .splice | .knifeAck
  | .knifeTimeout | .pwmPeriodEnd | .writeSuspend | .storeWriteEnd _ | .commitAttemptEnd _ | .readStatus _ _
  | .fetchReply _ _ | .setNotices _ _ | .ackNotices _ _ | .resumeLine _ | .clearArm _ | .clearLine _
  | .loadRecipe _ _ | .startRun _ | .endRun _ | .flushRun _ | .writeRecipe _ _ | .readRecipe _ _ | .writeSetup _ _
  | .readSetup _ | .seedCounters _ _ _ | .readCounters _ | .reportDefect _ _ _ _ _ | .shadeReport _ _ _ _ _
  | .readRepeat _ _ | .readRoll _ _ | .readBatch _ _ | .getLabel _ | .labelDone _ _ | .rollDisposition _ _ _
  | .readEvents _ _ | .clearEvents _ => true

end Sys2Proof
end

