-- ==== Sys2Proof/Tests/Slice0.lean ====
section
/-! SUPPORT. Small tests: the smoke test of WellFormed, frames written out byte by byte from section 11, worked figures of
the manual, one step of every command, and for every obligation with hypotheses a state and operands that meet them. -/

namespace Sys2Proof.Tests

open Sys2Proof Sys2Proof.Machine

/-! ### Demonstration values -/

/-- The recipe of sections 4.2.1 and 4.4.1 in its register fields. -/
def demoRecipe : Recipe where
  pattern := Vector.replicate 8 0x41
  rNom := 12000
  rTol := 120
  mode := .straight
  drop16 := 0
  phiCut := 3000
  lOrd := 200000
  lShort := 100000
  lookAhead := false
  emboss := true
  kc := .two
  cc := 25600
  aT := 1000
  db := 2
  kp := 64
  ki := 8
  sl := 16
  wLock := 40
  wCap := 200
  eTol := 60
  t := 100
  nLearn := 3
  bSlots := 2

/-- A record AWAITING its emboss mark. -/
def demoRecord (n : Nat) : RepeatRecord where
  seq := n
  printPos := 0
  printLen := some 12000
  leader := false
  irregular := false
  splice := false
  emboss := .awaiting
  embossPos := none
  embossLen := none
  stretch := none
  embossError := none
  register := .pending
  reading := none
  shade := .pending
  defects := []
  overflow := 0
  major := false
  knifeMissed := false
  untrackedAtKnife := false

/-- A record that passes the good-repeat test, of batch 3000. -/
def goodRecord (n : Nat) : RepeatRecord :=
  { demoRecord n with
    emboss := .matched
    embossPos := some 0
    embossLen := some 12000
    stretch := some 0
    embossError := some 0
    register := .inRegister
    reading := some ⟨5000, 10, -10⟩
    shade := .batch 3000 }

/-- A BUILDING roll of batch 3000. -/
def demoRoll : Roll where
  serial := 2000
  batch := 3000
  state := .building
  phase := .a
  mode := .straight
  pattern := Vector.replicate 8 0x41
  repeats := 2
  length := 24000
  cls := none
  sums := ⟨10000, 20, -20⟩
  shadeCount := 2
  minors := 0
  hold := ⟨false, false, false⟩
  firstSeq := 1
  lastSeq := 2
  startPos := 5000
  endPos := none
  accepted := false

/-- An OPEN batch. -/
def demoBatch : BatchEntry := ⟨3000, .opened, ⟨5000, 0, 0⟩, 3, 1, 1, 12⟩

/-- A part whose counters are persisted at batch 3000 and roll 2000, with the web at 50,000 and the last marks 12,000
counts back, in the given session. -/
def demo (session : Session) : State :=
  { State.reset with
    wpu := { State.reset.wpu with
      pe := 50000
      le := 50000
      ca := 1024
      pm := ⟨some ⟨38000, none⟩, 0⟩
      em := ⟨some ⟨38000, some 1024⟩, 0⟩
      cm := ⟨some ⟨38000, none⟩, 0⟩ }
    sc := { State.reset.sc with session := session, nextSeq := 4, stopLatch := false }
    ps := { State.reset.ps with
      array := { State.reset.ps.array with counters := some ⟨3000, 2000⟩ }
      reserved := some ⟨3000, 2000⟩
      mirror := some ⟨3000, 2000⟩
      validity := .valid } }

/-- The demonstration part in a run. -/
def running : State :=
  { demo (.loaded .running demoRecipe) with erc := { State.reset.erc with mode := .acquire } }

/-- In a run, with the given records and both points in SYNC. -/
def tracking (q : List RepeatRecord) : State :=
  { running with rt := ⟨q, false, ⟨.sync, 0⟩, ⟨.sync, 0⟩⟩ }

/-- In a run, with batch 3000 open, roll 2000 BUILDING and record 3 of that batch at the head. -/
def winding : State :=
  { tracking [goodRecord 3] with
    batches := [demoBatch]
    rb := { State.reset.rb with rolls := [demoRoll], segment := .roll 2000 } }

/-- The demonstration recipe in DROP mode, with half a repeat of drop. -/
def dropRecipe : Recipe := { demoRecipe with mode := .drop, drop16 := 8 }

/-- A record AWAITING, of half a repeat. -/
def shortRecord (n : Nat) : RepeatRecord := { demoRecord n with printLen := some 6000 }

/-- A record AWAITING, for which a mark 12,000 counts on is long. -/
def longRecord (n : Nat) : RepeatRecord := { demoRecord n with printLen := some 11760 }

/-- A good record of half a repeat. -/
def shortGood (n : Nat) : RepeatRecord := { goodRecord n with embossLen := some 6000 }

/-- A leader, which is not good. -/
def leader (n : Nat) : RepeatRecord := { goodRecord n with leader := true }

/-- A BUILDING roll that has reached L_ord. -/
def fullRoll : Roll := { demoRoll with length := 200000 }

/-- No cut queued or outstanding. -/
def noCuts : KnifeSequencer := ⟨[], none, false, .waste⟩

/-- A cut n counts ahead of LE. -/
def demoCut (n : Nat) : Cut := ⟨50000 + BitVec.ofNat 32 n, .ends n, .waste, false⟩

/-- Four cuts queued. -/
def fullCuts : KnifeSequencer := ⟨[demoCut 1, demoCut 2, demoCut 3, demoCut 4], none, false, .waste⟩

/-- In a run on a recipe, with the given records, rolls, segment and cuts, both points in SYNC. -/
def knifing (r : Recipe) (q : List RepeatRecord) (rolls : List Roll) (seg : Segment) (ks : KnifeSequencer) : State :=
  { tracking q with
    sc := { running.sc with session := .loaded .running r }
    rb := ⟨rolls, seg, .a, false, none⟩
    ks := ks }

/-- Outside a roll, with a good record at the head, the given reserved counters and rolls. -/
def reserving (c : Counters) (rolls : List Roll) : State :=
  { knifing demoRecipe [goodRecord 3] rolls .none noCuts with ps := { running.ps with reserved := some c } }

/-- The cut that starts roll 2000. -/
def demoStart : Outstanding := ⟨⟨50000, .starts 2000, .roll, false⟩, 0, false, 50, 100⟩

/-- The cut that ends roll 2000. -/
def demoEnd : Outstanding := ⟨⟨50000, .ends 2000, .waste, false⟩, 0, false, 50, 100⟩

/-- The demonstration part with a cut outstanding and the given rolls. -/
def cutting (o : Outstanding) (rolls : List Roll) : State :=
  { running with
    ks := ⟨[], some o, true, .waste⟩
    rb := { State.reset.rb with rolls := rolls } }

/-- The demonstration part with a cut outstanding and a reached one waiting behind it. -/
def waiting : State :=
  { cutting demoStart [demoRoll] with
    wpu := { running.wpu with reach := true }
    ks := ⟨[demoCut 0], some demoStart, true, .waste⟩ }

/-- The demonstration part with a roll CLOSED at the head of the label order. -/
def labelling : State :=
  { demo .unloaded with
    batches := [{ demoBatch with state := .closed, queued := 0 }]
    rb := { State.reset.rb with rolls := [{ demoRoll with state := .closed, cls := some .full }] }
    ld := ⟨[2000], none, true⟩ }

/-- The state that a command answers. -/
def after (i : Instr) (s : State) : State :=
  match exec i s with
  | .next t => t
  | .fault _ => s
  | .refused _ => s

/-- The reply slot of a port after a command, its status and data. -/
def reply (i : Instr) (p : Port) (s : State) : Status × List Byte :=
  (((after i s).ports.get p).slot.status, ((after i s).ports.get p).slot.data)

/-! ### WellFormed -/

theorem test_wellFormed_refuses_a_frame_without_a_byte : WellFormed (.badFrame .portP ⟨[], true⟩) = false := by decide

theorem test_wellFormed_refuses_a_good_frame : WellFormed (.badFrame .portP ⟨[9, 0], false⟩) = false := by decide

theorem test_wellFormed_takes_a_malformed_frame : WellFormed (.badFrame .portP ⟨[9, 1], false⟩) = true := by decide

/-! ### Frames of section 11, byte by byte -/

theorem test_frame_shadeReport :
    requestOfFrame .portQ [33, 10, 0x38, 0x01, 0, 0, 0x5D, 0x14, 0x39, 0x01, 0xB2, 0xFC] =
      some (.shadeReport .portQ 312 5213 313 (-846)) := by decide

theorem test_frame_writeSetup :
    requestOfFrame .portF [26, 14, 0x20, 0x4E, 0xC8, 0, 50, 0x64, 0, 3, 0, 1, 2, 3, 3, 0] =
      some (.writeSetup .portF ⟨20000, 200, 50, 100, 3, 0, 1, 2, 3, 3, 0⟩) := by decide

theorem test_frame_rollDisposition :
    requestOfFrame .portQ [50, 5, 0xD1, 0x07, 0, 0, 1] = some (.rollDisposition .portQ 2001 1) := by decide

theorem test_frame_readRoll :
    requestOfFrame .portF [40, 0] = some (.readRoll .portF none) ∧
    requestOfFrame .portF [40, 4, 0xD1, 0x07, 0, 0] = some (.readRoll .portF (some 2001)) := by decide

theorem test_image_packed_fields :
    (recipeImageOf ([0xA3] ++ List.replicate 8 0x41 ++ [0xE0, 0x2E, 0x78, 0xC0, 0xB8, 0x0B, 0x40, 0x0D, 0x03, 0xA0, 0x86,
      0x01, 0x00, 0x64, 0x00, 0xE8, 0x43, 2, 64, 8, 16, 0x28, 0xC0, 0x03, 0xC8, 0x00, 0x64, 0xA0, 3])) =
      { slot := 3, drop16 := 10, pattern := Vector.replicate 8 0x41, rNom := 12000, rTol := 120, lookAhead := true,
        emboss := true, phiCut := 3000, lOrd := 200000, lShort := 100000, cc := 25600, aT := 1000, kcCode := 1, db := 2,
        kp := 64, ki := 8, sl := 16, wLock := 40, eTol := 60, wCap := 200, t := 100, bSlots := 2, drop := true,
        nLearn := 3 } := by decide

theorem test_frame_check :
    frameBad ⟨[33], false⟩ = true ∧ frameBad ⟨[9, 0], true⟩ = true ∧ frameBad ⟨[5, 0], false⟩ = true ∧
    frameBad ⟨[40, 3, 1, 2, 3], false⟩ = true ∧ frameBad ⟨[9, 0, 0], false⟩ = true ∧
    frameBad ⟨[1, 0, 7, 7], false⟩ = false ∧ frameBad ⟨[1, 1, 7], false⟩ = true := by decide

/-! ### Worked figures -/

/-- Section 4.2.1. -/
theorem test_embossError_figures :
    embossError demoRecipe 1400 = 625 ∧ embossError demoRecipe 1024 = 38 ∧ embossError demoRecipe 996 = -6 ∧
    embossError demoRecipe 700 = -469 ∧ embossError demoRecipe 5095 = 6398 ∧ embossError demoRecipe 5096 = -6400 ∧
    embossError { demoRecipe with aT := 9000 } 1400 = 925 := by decide

/-- Section 4.4.1. -/
theorem test_trim_figures :
    ((⟨.acquire, 10, 0, 0, 0, 128, 128⟩ : Erc).trim demoRecipe 37) = ⟨.acquire, 45, 10, 0, 0, 138, 128⟩ ∧
    ((⟨.acquire, 45, 10, 0, 0, 138, 128⟩ : Erc).trim demoRecipe (-5)) = ⟨.acquire, 42, 1, 0, 0, 129, 128⟩ ∧
    ((⟨.acquire, 45, 10, 0, 0, 138, 128⟩ : Erc).trim demoRecipe 900) = ⟨.acquire, 943, 26, 0, 0, 154, 128⟩ ∧
    ((⟨.locked, 8000, 120, 0, 0, 248, 128⟩ : Erc).trim demoRecipe 3000) = ⟨.locked, 8191, 127, 0, 0, 255, 128⟩ := by
  decide

/-- Section 3.4.1. -/
theorem test_stretch_figures :
    roundDiv ((12864 - 12800) * 1000000) 12800 = 5000 ∧ roundDiv ((12831 - 12800) * 1000000) 12800 = 2422 ∧
    roundDiv ((12804 - 12800) * 1000000) 12800 = 313 ∧ roundDiv ((12796 - 12800) * 1000000) 12800 = -313 ∧
    roundDiv ((12769 - 12800) * 1000000) 12800 = -2422 := by decide

/-- Section 8.3.1. -/
theorem test_label_figures :
    ({ demoRoll with
        serial := 2001, batch := 3101, cls := some .full, repeats := 16, length := 205824
        sums := ⟨83400, 5000, -13528⟩, shadeCount := 16, minors := 3 } : Roll).label =
      [0xD1, 0x07, 0, 0, 0x1D, 0x0C, 0, 0x41, 0x41, 0x41, 0x41, 0x41, 0x41, 0x41, 0x41, 0, 0, 0x33, 0x28, 0, 16, 0,
        0x5D, 0x14, 0x39, 0x01, 0xB2, 0xFC, 3, 0] := by decide

/-- Section 10.3.1. -/
theorem test_effective_action_figures :
    effectiveAction .rollTableLow .native = .stop ∧ effectiveAction .rollTableLow .flag = .flag ∧
    effectiveAction .rollVoided .stop = .note ∧ effectiveAction .storeFail .native = .flag ∧
    effectiveAction .storeFail .stop = .stop ∧ effectiveAction .registerLost .note = .note ∧
    effectiveAction .runFlushed .native = .flag := by decide

/-! ### One step of each command -/

theorem test_deviceReset :
    (after (.deviceReset .resetInput true) { running with ps := { running.ps with
      op := .committing ⟨⟨3001, 2000⟩, 0, false⟩ } }).ps.reserved = some ⟨3001, 2000⟩ ∧
    (after (.deviceReset .resetInput true) running).events.entries.map EventEntry.extra = [1] := by decide

theorem test_encoderCount :
    (after (.encoderCount .pe true false) State.reset).wpu.pe = 1 ∧
    (after (.encoderCount .le false true) State.reset).wpu.le = 4294967295 ∧
    (after (.encoderCount .le false true) State.reset).wpu.leDir = .reverse := by decide

theorem test_encoderCount_fires :
    (after (.encoderCount .le true false) { running with
      ks := { running.ks with queue := [⟨50001, .starts 2000, .roll, false⟩] } }).ks.knifeReq = true := by decide

theorem test_caCount : (after (.caCount false true) State.reset).wpu.ca = 16383 := by decide

theorem test_caIndex :
    (after .caIndex running).wpu.ca = 0 ∧
    ((after .caIndex running).events.entries.getLast?.map EventEntry.extra) = some 1024 := by decide

theorem test_markCapture_print :
    ((after (.markCapture .pm) (tracking [goodRecord 3])).rt.queue.map RepeatRecord.seq) = [3, 4] := by decide

/-- Section 4.4.2: record 312 completes the lock run. -/
theorem test_markCapture_emboss :
    (after (.markCapture .em) { tracking [demoRecord 312] with erc := ⟨.acquire, 10, 0, 3, 0, 128, 128⟩ }).erc =
      ⟨.locked, 46, 10, 0, 0, 138, 128⟩ := by decide

theorem test_markCapture_cut : (after (.markCapture .cm) winding).rb.rolls.map Roll.length = [36000] := by decide

theorem test_splice :
    ((after .splice winding).rt.queue.map RepeatRecord.splice) = [true] ∧ (after .splice winding).wpu.spliceArm = true := by
  decide

theorem test_knifeAck :
    (after .knifeAck (cutting demoStart [demoRoll])).ks.divert = .roll ∧
    (after .knifeAck running).events.entries.map EventEntry.code = [.powerUp, .knifeLateAck] := by decide

theorem test_knifeTimeout :
    (after .knifeTimeout (cutting demoEnd [{ demoRoll with state := .ending, cls := some .full }])).rb.rolls.map Roll.state =
      [.held] := by decide

theorem test_pwmPeriodEnd :
    (after .pwmPeriodEnd { running with erc := { running.erc with pendingDuty := 138 } }).erc.appliedDuty = 138 := by
  decide

theorem test_writeSuspend :
    (after .writeSuspend { running with ps := { running.ps with
      op := .writing ⟨.portP, .setup Setup.default, false⟩ true } }).ps.op =
      .committingOver ⟨⟨3000, 2000⟩, 0, false⟩ ⟨.portP, .setup Setup.default, false⟩ := by decide

theorem test_storeWriteEnd :
    (after (.storeWriteEnd true) { running with ps := { running.ps with
      op := .writing ⟨.portF, .setup Setup.default, false⟩ false } }).ps.setupStored = true := by decide

theorem test_commitAttemptEnd :
    (after (.commitAttemptEnd false) { running with ps := { running.ps with
      op := .committing ⟨⟨3000, 2000⟩, 2, false⟩ } }).ps.commitPending = true := by decide

theorem test_readStatus : ((after (.readStatus .portP [0, 0, 0]) running).ports.p.sdo) = [0, 0, 2, 128, 16] := by decide

theorem test_fetchReply :
    ((after (.fetchReply .portP [0, 0, 0, 0, 0]) (after (.clearArm .portP) running)).ports.p.sdo) = [0, 0, 0, 0, 9, 0, 0] ∧
    ((after (.fetchReply .portP [0, 0, 0, 0, 0]) (after (.clearArm .portP) running)).ports.p.slot.fetched) = true := by
  decide

theorem test_badFrame :
    reply (.badFrame .portQ ⟨[9, 1], false⟩) .portQ running = (.badFrame, []) ∧
    (after (.badFrame .portQ ⟨[9, 0], false⟩) running) = after (.clearArm .portQ) running := by decide

theorem test_setNotices : (after (.setNotices .portF 0x21) running).ports.f.enable = 0x21 := by decide

theorem test_ackNotices :
    (after (.ackNotices .portP 0x01) { running with ports := running.ports.map fun p => { p with raw := 0x21 } }).ports.p.raw =
      0x20 := by decide

theorem test_resumeLine : (after (.resumeLine .portQ) State.reset).sc.stopLatch = false := by decide

theorem test_clearArm : (after (.clearArm .portF) running).sc.clearArmed = ⟨false, true, false⟩ := by decide

theorem test_clearLine :
    reply (.clearLine .portF) .portF running = (.notArmed, []) ∧
    (after (.clearLine .portF) (after (.clearArm .portF) winding)).rt.queue = [] ∧
    (after (.clearLine .portF) (after (.clearArm .portF) winding)).batches = [] := by decide

theorem test_loadRecipe :
    reply (.loadRecipe .portP 9) .portP (demo .unloaded) = (.outOfRange, []) ∧
    reply (.loadRecipe .portP 1) .portP (demo .unloaded) = (.emptySlot, []) := by decide

theorem test_startRun :
    (after (.startRun .portP) (demo (.loaded .armed demoRecipe))).erc.mode = .acquire ∧
    (after (.startRun .portP) (demo (.loaded .armed demoRecipe))).sc.nextSeq = 1 := by decide

theorem test_endRun :
    (after (.endRun .portP) running).sc.session = .loaded .armed demoRecipe ∧
    (after (.endRun .portP) winding).sc.session = .loaded .draining demoRecipe := by decide

theorem test_flushRun :
    (after (.flushRun .portP) { winding with sc := { winding.sc with session := .loaded .draining demoRecipe } }).rb.rolls =
      [] := by decide

/-- The image of demoRecipe for slot 3, with W_cap 30 below W_lock. -/
def demoImage : RecipeImage := { demoRecipe.image 3 with wCap := 30 }

theorem test_writeRecipe :
    reply (.writeRecipe .portP demoImage) .portP (demo .unloaded) = (.pending, []) ∧
    (after (.writeRecipe .portP demoImage) (demo .unloaded)).ps.op =
      .writing ⟨.portP, .recipe 2 { demoRecipe with wCap := 40 }, true⟩ false := by decide

theorem test_readRecipe :
    reply (.readRecipe .portF 3) .portF { demo .unloaded with ps := { (demo .unloaded).ps with
      array := (demo .unloaded).ps.array.setSlot 2 (some demoRecipe) } } =
      (.done, recipeImageBytes (demoRecipe.image 3)) := by decide

/-- Setup arguments with T_knife 0, below its range. -/
def demoSetup : SetupArgs := ⟨20000, 200, 0, 100, 3, 3, 3, 3, 3, 3, 1⟩

theorem test_writeSetup :
    reply (.writeSetup .portF demoSetup) .portF (demo .unloaded) = (.pending, []) ∧
    (after (.writeSetup .portF demoSetup) (demo .unloaded)).ps.setup.tKnife = 5 ∧
    reply (.writeSetup .portF demoSetup) .portF running = (.wrongState, []) := by decide

theorem test_readSetup :
    reply (.readSetup .portP) .portP running = (.done, [0x20, 0x4E, 200, 0, 50, 100, 0, 3, 3, 3, 3, 3, 3, 3, 0]) := by decide

theorem test_seedCounters :
    reply (.seedCounters .portF 3000 2000) .portF State.reset = (.pending, []) ∧
    reply (.seedCounters .portF 16777216 0) .portF State.reset = (.outOfRange, []) := by decide

theorem test_readCounters :
    reply (.readCounters .portP) .portP running =
      (.done, [0x0F, 0xB8, 0x0B, 0, 0xD0, 0x07, 0, 0, 0xB8, 0x0B, 0, 0xD0, 0x07, 0, 0, 1, 0]) := by decide

theorem test_reportDefect :
    reply (.reportDefect .portQ 3 4 0 65535) .portQ winding = (.outOfRange, []) ∧
    ((after (.reportDefect .portQ 3 0 1 65535) winding).rt.queue.map RepeatRecord.major) = [true] := by decide

theorem test_shadeReport :
    reply (.shadeReport .portQ 3 5000 0 100) .portQ { winding with rt := { winding.rt with queue := [demoRecord 3] } } =
      (.done, [0xB8, 0x0B, 0, 0, 1]) := by decide

theorem test_readRepeat : (reply (.readRepeat .portP 4) .portP winding).1 = .noSuchRepeat := by decide

theorem test_readRoll :
    reply (.readRoll .portP none) .portP winding = (.done, [1, 0xD0, 0x07, 0, 0, 0]) := by decide

theorem test_readBatch :
    reply (.readBatch .portP none) .portP winding = (.done, [1, 0xB8, 0x0B, 0, 1]) := by decide

theorem test_getLabel :
    (reply (.getLabel .portQ) .portQ labelling).1 = .done ∧ (after (.getLabel .portQ) labelling).ld.outstanding = some 2000 ∧
    reply (.getLabel .portQ) .portQ running = (.noLabel, []) := by decide

theorem test_labelDone :
    reply (.labelDone .portQ 2000) .portQ (after (.getLabel .portQ) labelling) =
      (.done, [0xD0, 0x07, 0, 0, 0xB8, 0x0B, 0, 13, 0, 0, 0, 0]) ∧
    (after (.labelDone .portQ 2000) (after (.getLabel .portQ) labelling)).batches = [] := by decide

/-- The labelling part with its roll HELD instead. -/
def holding : State :=
  { labelling with
    rb := { labelling.rb with rolls := [{ demoRoll with state := .held, cls := some .full, hold := ⟨true, false, true⟩ }] }
    ld := ⟨[], none, false⟩ }

theorem test_rollDisposition :
    reply (.rollDisposition .portQ 2000 0) .portQ holding = (.done, [1]) ∧
    ((after (.rollDisposition .portQ 2000 1) holding).events.entries.getLast?.map EventEntry.extra) = some 5 := by decide

theorem test_readEvents :
    (reply (.readEvents .portP 0) .portP running).2.length = 1 + 26 + 4 + 4 + 4 + 4 := by decide

theorem test_clearEvents : (after (.clearEvents .portP) running).events.entries = [] := by decide

/-! ### Witnesses: the hypotheses of each obligation can be met, clause by clause -/

theorem witness_StepTakesTheFrontCommand :
    (∃ c rest, (running.withCommand .splice).pending = c :: rest) ∧ running.pending = [] := ⟨⟨_, _, rfl⟩, rfl⟩

/-- With nothing in flight, and with a commit attempt whose end landed or did not. -/
theorem witness_DeviceResetPutsEveryBlockInItsResetState :
    (running.ps.op.series? = none) ∧ (∀ landed : Bool, ∃ arr : StoreArray,
      arr = (if landed then { running.ps.array with counters := some ⟨3001, 2000⟩ } else running.ps.array)) :=
  ⟨rfl, fun _ => ⟨_, rfl⟩⟩

theorem witness_EncoderEdges :
    ForwardEdge State.reset.wpu.peIn ⟨true, false⟩ ∧ ReverseEdge State.reset.wpu.peIn ⟨false, true⟩ ∧
    (¬ForwardEdge State.reset.wpu.peIn ⟨true, true⟩ ∧ ¬ReverseEdge State.reset.wpu.peIn ⟨true, true⟩) ∧
    ForwardEdge State.reset.wpu.caIn ⟨true, false⟩ ∧ ReverseEdge State.reset.wpu.caIn ⟨false, true⟩ ∧
    (¬ForwardEdge State.reset.wpu.caIn ⟨true, true⟩ ∧ ¬ReverseEdge State.reset.wpu.caIn ⟨true, true⟩) ∧
    ¬ForwardEdge State.reset.wpu.leIn ⟨false, false⟩ ∧ ¬ReverseEdge State.reset.wpu.leIn ⟨false, false⟩ := by
  refine ⟨?_, ?_, ⟨?_, ?_⟩, ?_, ?_, ⟨?_, ?_⟩, ?_, ?_⟩ <;>
    simp [ReverseEdge, ForwardEdge, State.reset, Wpu.afterReset]

/-- No cut queued; a head not reached; a head behind an outstanding cut; a head reached at its very position, fired on
time and, raised, fired LATE. -/
theorem witness_LineEncoderCountsAndFiresTheReachedHead :
    (ForwardEdge running.wpu.leIn ⟨true, false⟩ ∧ (50001 : Word) = running.wpu.le + 1) ∧
    (ReverseEdge running.wpu.leIn ⟨false, true⟩ ∧ (49999 : Word) = running.wpu.le - 1) ∧
    running.ks.queue = [] ∧ running.wpu.reach = false ∧ ¬isReached 50001 50002 ∧
    (cutting demoStart []).ks.outstanding.isSome = true ∧ running.ks.outstanding = none ∧ isReached 50001 50001 = true ∧
    ((running.fired (demoCut 0) []).ks.outstanding.map Outstanding.late = some false ∧
      (running.fired { demoCut 0 with raised := true } []).ks.outstanding.map Outstanding.late = some true) := by
  unfold ReverseEdge ForwardEdge
  decide

/-- Offsets 8 and 9, and the two sides of the half turn. -/
theorem witness_IndexChecksTheAngleAndZeroesIt :
    (8 : Int).natAbs ≤ 8 ∧ 8 < (9 : Int).natAbs ∧ (8191 : Angle).toNat < 8192 ∧ ¬(8192 : Angle).toNat < 8192 := by decide

theorem witness_SpliceFlagsTheNewestRecord :
    running.rt.queue = [] ∧ (tracking [goodRecord 3, demoRecord 4]).rt.queue = [goodRecord 3] ++ [demoRecord 4] ∧
    ∀ x ∈ [goodRecord 3], x.seq ≠ (demoRecord 4).seq := by decide

/-- UNLOADED; against the direction; 5,999 counts after the last capture with R_nom 12,000. -/
theorem witness_MarksThatFailATestAreCounted :
    State.reset.sc.session = .unloaded ∧
    ({ running with wpu := { running.wpu with peDir := .reverse } } : State).wpu.direction .pm = .reverse ∧
    ({ running with wpu := { running.wpu with pm := ⟨some ⟨44001, none⟩, 0⟩ } } : State).wpu.pm.last =
      some ⟨44001, none⟩ ∧
    2 * signedDistance 44001 running.wpu.pe < demoRecipe.rNom := by decide

theorem demo_distance : (demoRecipe.rNom : Int) ≤ 2 * signedDistance 38000 (50000 : Word) := by decide

/-- A demonstration mark passes the three tests, in every run state. -/
theorem accepted_demo (sensor : Sensor) (run : RunState) :
    Accepted (demo (.loaded run demoRecipe)) sensor run demoRecipe :=
  ⟨rfl, by cases sensor <;> rfl, fun p hp => by
    have e : p.pos = 38000 := by cases sensor <;> cases hp <;> rfl
    rw [e]
    cases sensor <;> exact demo_distance⟩

theorem accepted_tracking (sensor : Sensor) (q : List RepeatRecord) :
    Accepted (tracking q) sensor .running demoRecipe :=
  ⟨rfl, (accepted_demo sensor .running).2.1, (accepted_demo sensor .running).2.2⟩

theorem accepted_winding : Accepted winding .cm .running demoRecipe :=
  ⟨rfl, (accepted_demo .cm .running).2.1, (accepted_demo .cm .running).2.2⟩

theorem accepted_knifing (r : Recipe) (q : List RepeatRecord) (rolls : List Roll) (seg : Segment) (ks : KnifeSequencer)
    (h : r.rNom = 12000) : Accepted (knifing r q rolls seg ks) .cm .running r :=
  ⟨rfl, rfl, fun p hp => by
    have e : p.pos = 38000 := by cases hp; rfl
    rw [e, h]
    exact demo_distance⟩

/-- A head record of about 12,000 counts is matched at a cut mark of `knifing`. -/
theorem matched_knifing (r : Recipe) (k : RepeatRecord) (q : List RepeatRecord) (rolls : List Roll) (seg : Segment)
    (ks : KnifeSequencer) (h : r.rNom = 12000) (hm : k.knifeMissed = false)
    (hc : 11800 ≤ k.creditedLen r ∧ k.creditedLen r ≤ 12200) : MatchedAtKnife (knifing r (k :: q) rolls seg ks) r k :=
  ⟨.inl (accepted_knifing r _ rolls seg ks h), rfl, hm, fun _ => rfl, .inr ⟨rfl, ⟨38000, none⟩, rfl, by
    have e : ((knifing r (k :: q) rolls seg ks).wpu.le - 38000).toNat = 12000 := by
      show ((50000 : Word) - 38000).toNat = 12000
      decide
    rw [show ((knifing r (k :: q) rolls seg ks).wpu.le - (⟨38000, none⟩ : Capture).pos).toNat = 12000 from e]
    exact ⟨show k.creditedLen r ≤ 12000 + 200 by omega, show 12000 ≤ k.creditedLen r + 200 by omega⟩⟩⟩

theorem builds_knifing (r : Recipe) (q : List RepeatRecord) (x : Roll) (ks : KnifeSequencer) (h : x.state = .building) :
    (knifing r q [x] (.roll x.serial) ks).Builds x :=
  ⟨rfl, by simp [State.findRoll, findBy, knifing], h, by simp [knifing]⟩

/-- With no cut queued or outstanding a cut is queued as it is. -/
theorem queues_alone (c : Cut) (h : c.raised = false) : noCuts.Queues c c :=
  KnifeSequencer.queues_alone noCuts c rfl rfl h

/-- Just the blanking distance is accepted. -/
theorem witness_Accepted_at_the_blanking_distance :
    (demoRecipe.rNom : Int) ≤ 2 * signedDistance 44000 (50000 : Word) := by decide

/-- Any mark in ARMED, a print mark in DRAINING, an emboss mark with no AWAITING record, a cut mark with an empty queue,
a full queue, a spent counter. -/
theorem witness_MarksThatFindNoPlace :
    Accepted (demo (.loaded .armed demoRecipe)) .em .armed demoRecipe ∧
    Accepted (demo (.loaded .draining demoRecipe)) .pm .draining demoRecipe ∧
    (Accepted winding .em .running demoRecipe ∧ ∀ k ∈ winding.rt.queue, k.emboss ≠ .awaiting) ∧
    (Accepted (demo (.loaded .draining demoRecipe)) .cm .draining demoRecipe ∧
      (demo (.loaded .draining demoRecipe)).rt.queue = []) ∧
    (Accepted (tracking (List.replicate 512 (demoRecord 1))) .pm .running demoRecipe ∧
      512 ≤ (tracking (List.replicate 512 (demoRecord 1))).rt.queue.length) ∧
    ({ running with sc := { running.sc with seqSpent := true } } : State).rt.queue.length < 512 :=
  ⟨accepted_demo _ _, accepted_demo _ _, ⟨accepted_tracking _ [goodRecord 3], by decide⟩, ⟨accepted_demo _ _, rfl⟩,
    ⟨accepted_tracking _ _, (List.length_replicate (n := 512) (a := demoRecord 1)).ge⟩, by decide⟩

/-- The leader, which has no print length, and a later record. -/
theorem witness_PrintMarkMakesARecord :
    Accepted (tracking []) .pm .running demoRecipe ∧ (tracking []).rt.queue.length < 512 ∧
    (tracking []).sc.seqSpent = false ∧ (tracking []).rt.leaderNext = false ∧ running.rt.leaderNext = true ∧
    Accepted running .pm .running demoRecipe :=
  ⟨accepted_tracking _ _, by decide, rfl, rfl, rfl, accepted_demo .pm .running⟩

/-- At the upper bound of the window: 12,000 + 240 counts (section 3.4.1). -/
theorem witness_EmbossMarkMatchesTheOldestAwaitingRecord :
    Accepted (tracking [demoRecord 3]) .em .running demoRecipe ∧ (tracking [demoRecord 3]).rt.emboss.mode = .sync ∧
    (tracking [demoRecord 3]).wpu.em.last = some ⟨38000, some 1024⟩ ∧
    ((tracking [demoRecord 3]).rt.queue.filter fun x => x.emboss == .awaiting) = demoRecord 3 :: [] ∧
    ((tracking [demoRecord 3]).rt.queue.map RepeatRecord.seq).Nodup ∧ (demoRecord 3).printLen = some 12000 ∧
    Window.Contains ⟨12000, 12000 * (tracking []).ps.setup.sMax / 1000000⟩ 12240 ∧
    ({ tracking [demoRecord 3] with erc := State.reset.erc } : State).erc.mode = .off := by
  refine ⟨accepted_tracking _ _, rfl, rfl, by decide, by decide, rfl, ?_, rfl⟩
  unfold Window.Contains
  decide

/-- In SEEKING; plausible in SYNC; a mark that skips a record of print length 6,000. The third and the fourth record of
a lock run, the second and the third of a loss run. -/
theorem witness_RegisterControllerTakesARecord :
    Accepted running .em .running demoRecipe ∧ running.erc.mode = .acquire ∧
    ({ running with rt := { running.rt with queue := [demoRecord 3] } } : State).rt.emboss.mode = .seeking ∧
    ([demoRecord 3].filter fun x => x.emboss == .awaiting) = demoRecord 3 :: [] ∧
    ([demoRecord 3].map RepeatRecord.seq).Nodup ∧
    (embossWindow demoRecipe Setup.default (demoRecord 3)).Contains 12000 ∧
    (([shortRecord 3, shortRecord 4].filter fun x => x.emboss == .awaiting) = shortRecord 3 :: [shortRecord 4] ∧
      (embossWindow demoRecipe Setup.default (shortRecord 3)).Skips
        (embossWindow demoRecipe Setup.default (shortRecord 4)) 12000) ∧
    ((40 : Int).natAbs ≤ demoRecipe.wLock ∧ demoRecipe.wLock < (41 : Int).natAbs ∧ 2 < 3) ∧
    (200 : Int).natAbs ≤ demoRecipe.wCap ∧ demoRecipe.wCap < (-201 : Int).natAbs ∧ 1 < 2 ∧
    (⟨.locked, 0, 0, 0, 2, 128, 128⟩ : Erc).lossRun = 2 := by
  refine ⟨accepted_demo _ _, rfl, rfl, by decide, by decide, ?_, ⟨by decide, ?_⟩, by decide⟩
  · unfold Window.Contains
    decide
  · unfold Window.Skips Window.Contains
    decide

/-- One count below each window: a print length of 12,241 against 12,000 measured, and 12,201 at the knife. -/
theorem witness_ShortMarksAreSpurious :
    Accepted (tracking [{ demoRecord 3 with printLen := some 12250 }]) .em .running demoRecipe ∧
    12000 + (embossWindow demoRecipe Setup.default { demoRecord 3 with printLen := some 12250 }).tol <
      (embossWindow demoRecipe Setup.default { demoRecord 3 with printLen := some 12250 }).ref ∧
    Accepted (tracking [{ goodRecord 3 with embossLen := some 12201 }]) .cm .running demoRecipe ∧
    12000 + Setup.default.cTol < ({ goodRecord 3 with embossLen := some 12201 } : RepeatRecord).creditedLen demoRecipe :=
  ⟨accepted_tracking _ _, by decide, accepted_tracking _ _, by decide⟩

/-- The emboss point: a mark 12,000 counts on, long for a print length of 11,760 (window up to 11,995), without and with
a record after; in LOST at every outcome of the regain counter, at its boundary values 1 and 2. -/
theorem witness_EmbossPointIsLostAndRegained :
    Accepted (tracking [longRecord 3]) .em .running demoRecipe ∧
    ([longRecord 3].filter fun x => x.emboss == .awaiting) = longRecord 3 :: [] ∧
    (embossWindow demoRecipe Setup.default (longRecord 3)).Loses none 12000 ∧
    (embossWindow demoRecipe Setup.default (longRecord 3)).Loses
      (some (embossWindow demoRecipe Setup.default (longRecord 4))) 12000 ∧
    TrackPoint.Follows ⟨.lost, 2⟩ ⟨.lost, 0⟩ (Window.Contains (embossWindow demoRecipe Setup.default (longRecord 3)) 12000) ∧
    TrackPoint.Follows ⟨.lost, 1⟩ ⟨.lost, 2⟩ (Window.Contains (embossWindow demoRecipe Setup.default (demoRecord 3)) 12000) ∧
    TrackPoint.Follows ⟨.lost, 2⟩ ⟨.sync, 0⟩
      (Window.Contains (embossWindow demoRecipe Setup.default (demoRecord 3)) 12000) := by
  refine ⟨accepted_tracking _ _, by decide, ?_, ?_, ?_, ?_, ?_⟩ <;>
    simp only [Window.Loses, TrackPoint.Follows, Window.Contains] <;> decide

/-- The knife point: a long mark in SYNC with no roll, and with one whose END cut is queued; in LOST; a long mark that
skips a record. -/
theorem witness_TrackingPointsAreLostAndRegained :
    Accepted (knifing demoRecipe [longRecord 3] [] .waste noCuts) .cm .running demoRecipe ∧
    (longRecord 3).knifeMissed = false ∧ NoStrayReach (knifing demoRecipe [longRecord 3] [] .waste noCuts) ∧
    Window.Loses ⟨(longRecord 3).creditedLen demoRecipe, 200⟩ none 12000 ∧
    (knifing demoRecipe [longRecord 3] [] .waste noCuts).BuildsNone ∧
    (knifing demoRecipe [longRecord 3] [demoRoll] (.roll 2000) noCuts).Builds demoRoll ∧
    noCuts.Queues ⟨demoRecipe.fireAt 50000 12000 .a, .ends 2000, .waste, false⟩
      ⟨demoRecipe.fireAt 50000 12000 .a, .ends 2000, .waste, false⟩ ∧
    TrackPoint.Follows ⟨.lost, 1⟩ ⟨.lost, 2⟩ (Window.Contains ⟨12000, 200⟩ 12000) ∧
    TrackPoint.Follows ⟨.lost, 2⟩ ⟨.sync, 0⟩ (Window.Contains ⟨12000, 200⟩ 12000) ∧
    Window.Skips ⟨(shortRecord 3).creditedLen demoRecipe, 200⟩ ⟨(shortRecord 4).creditedLen demoRecipe, 200⟩ 12000 ∧
    (shortRecord 4).isGood = false := by
  refine ⟨accepted_knifing _ _ _ _ _ rfl, rfl, fun _ => rfl, ?_, nofun, builds_knifing _ _ _ _ rfl, queues_alone _ rfl,
    ?_, ?_, ?_, by decide⟩ <;> simp only [Window.Loses, Window.Skips, TrackPoint.Follows, Window.Contains] <;> decide

/-- A long mark that closes a roll with four cuts queued; any mark in LOST; a mark that skips a record outside a roll,
the record matched being good. -/
theorem witness_LossesAndSkipsHandOver :
    (knifing demoRecipe [longRecord 3] [demoRoll] (.roll 2000) fullCuts).trackFaulted.Builds demoRoll.faulted ∧
    (∃ v, 4 ≤ fullCuts.queue.length ∧
      HandsOver demoRecipe (knifing demoRecipe [longRecord 3] [demoRoll] (.roll 2000) fullCuts).trackFaulted
        { longRecord 3 with untrackedAtKnife := true } 50000 v) ∧
    (∃ v, HandsOver demoRecipe ((knifing demoRecipe [longRecord 3] [] .waste noCuts).atKnife ⟨.sync, 0⟩)
      { longRecord 3 with untrackedAtKnife := true } 50000 v) ∧
    (shortGood 4).isGood = true ∧
    (∃ v z, v = (knifing demoRecipe [shortGood 3, shortGood 4] [] .waste noCuts).wasted demoRecipe (shortGood 3) 44000 ∧
      HandsOver demoRecipe v (shortGood 4) 50000 z) := by
  have hb : (knifing demoRecipe [longRecord 3] [demoRoll] (.roll 2000) fullCuts).trackFaulted.Builds demoRoll.faulted :=
    ⟨rfl, by decide, rfl, by decide⟩
  obtain ⟨v, hv, h1, h2, h3⟩ : ∃ v : State,
      v = (knifing demoRecipe [shortGood 3, shortGood 4] [] .waste noCuts).wasted demoRecipe (shortGood 3) 44000 ∧
      v.rb.segment = .waste ∧ v.ps.reserved = some ⟨3000, 2000⟩ ∧ v.rb.rolls = [] := ⟨_, rfl, by decide⟩
  obtain ⟨z, hz⟩ := handsOver_total demoRecipe v (shortGood 4) 50000 ⟨3000, 2000⟩ (.inl (by simp [State.BuildsNone, h1]))
    h2 (by decide) (by simp [h3])
  exact ⟨hb, ⟨_, by decide, .closes demoRoll.faulted _ _ _ hb (.inr ⟨rfl, .inl (by decide)⟩) (.inr (.inl (by decide)))
    rfl rfl (.inr ⟨by decide, rfl⟩)⟩, ⟨_, .wasted nofun (.inl (by decide))⟩, by decide, v, z, hv, hz⟩

theorem witness_AngleOffsetIsTheNearestTarget :
    (match demoRecipe.kc with
      | .one => (16384 : Int)
      | .two => 8192
      | .four => 4096) = 8192 := rfl

/-- Errors on both sides of the deadband, and an output within its limits. -/
theorem witness_TrimLawOfOneRecord :
    ((2 : Int).natAbs : Int) ≤ demoRecipe.db ∧ ¬((3 : Int).natAbs : Int) ≤ demoRecipe.db ∧ demoRecipe.kp ≤ 255 ∧
    demoRecipe.ki ≤ 255 ∧ -127 ≤ running.erc.lastOutput ∧ running.erc.lastOutput ≤ 127 := by decide

/-- A cut mark that is matched in SEEKING and in SYNC; the leader, which is not good, outside a roll and at a BUILDING
roll of each class; a good record at a roll in phase B in DROP mode. -/
theorem witness_CutMarkSendsABadRecordToWaste :
    (MatchedAtKnife { winding with rt := { winding.rt with knife := ⟨.seeking, 0⟩ } } demoRecipe (goodRecord 3) ∧
      MatchedAtKnife (knifing demoRecipe [leader 3] [] .waste noCuts) demoRecipe (leader 3)) ∧
    (knifing demoRecipe [leader 3] [] .waste noCuts).BuildsNone ∧ (leader 3).isGood = false ∧
    (∀ n ∈ [24000, 99999, 100000, 199999, 200000],
      (knifing demoRecipe [leader 3] [{ demoRoll with length := n }] (.roll 2000) noCuts).Builds
        { demoRoll with length := n } ∧ ClosesAt demoRecipe (leader 3) { demoRoll with length := n }) ∧
    ({ demoRoll with length := 24000 } : Roll).closeClass demoRecipe = .remnant ∧
    ({ demoRoll with length := 199999 } : Roll).closeClass demoRecipe = .short ∧
    ({ demoRoll with length := 200000 } : Roll).closeClass demoRecipe = .full ∧
    ({ demoRoll with length := 200000, phase := .b } : Roll).LeavesTrim dropRecipe ∧
    ClosesAt dropRecipe (goodRecord 3) { demoRoll with length := 200000, phase := .b } := by
  refine ⟨⟨⟨.inl accepted_winding, rfl, rfl, fun _ => rfl, .inl rfl⟩,
    matched_knifing _ _ _ _ _ _ rfl rfl (by decide)⟩, nofun, by decide, ?_, by decide, by decide, by decide, ?_, ?_⟩
  · intro n hn
    refine ⟨builds_knifing _ _ _ _ rfl, .inr ⟨rfl, .inl (by decide)⟩⟩
  · unfold Roll.LeavesTrim
    decide
  · exact .inl (by decide)

/-- Three cuts queued, the new one behind the last or raised to it; an empty queue behind an outstanding cut; four
queued. -/
theorem witness_CutsJoinTheQueue :
    (⟨[demoCut 1, demoCut 2, demoCut 3], none, false, .waste⟩ : KnifeSequencer).Queues (demoCut 3) (demoCut 3) ∧
    (⟨[demoCut 1, demoCut 2, demoCut 3], none, false, .waste⟩ : KnifeSequencer).Queues (demoCut 2)
      { demoCut 2 with pos := 50003, raised := true } ∧
    (⟨[], some demoStart, true, .waste⟩ : KnifeSequencer).Queues (demoCut 1) (demoCut 1) ∧
    4 ≤ [demoCut 1, demoCut 2, demoCut 3, demoCut 4].length := by
  refine ⟨⟨by decide, .inr ⟨?_, rfl⟩⟩, ⟨by decide, .inl ⟨50003, ?_, by decide, rfl⟩⟩, ⟨by decide, .inr ⟨?_, rfl⟩⟩,
    by decide⟩
  · intro p hp
    rw [KnifeSequencer.behind_iff] at hp
    cases hp
    decide
  · exact .inl ⟨[demoCut 1, demoCut 2], demoCut 3, rfl, rfl⟩
  · intro p hp
    rw [KnifeSequencer.behind_iff] at hp
    cases hp
    decide

/-- A good record of the roll's batch; a mark that skips a record before it, the roll then below L_ord or just at it,
and a roll that has reached L_ord before. -/
theorem witness_CutMarksFoldRecordsIntoTheRoll :
    MatchedAtKnife winding demoRecipe (goodRecord 3) ∧ winding.Builds demoRoll ∧ demoRoll.length < demoRecipe.lOrd ∧
    (goodRecord 3).isGood = true ∧ (goodRecord 3).shade = .batch demoRoll.batch ∧
    Window.Skips ⟨(shortGood 3).creditedLen demoRecipe, 200⟩ ⟨(shortGood 4).creditedLen demoRecipe, 200⟩ 12000 ∧
    (demoRoll.grown demoRecipe (shortGood 3)).faulted.length < demoRecipe.lOrd ∧ (shortGood 4).isGood = true ∧
    ClosesAt demoRecipe (shortRecord 4) (demoRoll.grown demoRecipe (shortGood 3)).faulted ∧
    (shortRecord 4).isGood = false ∧
    ClosesAt demoRecipe (shortGood 4) ({ demoRoll with length := 194000 }.grown demoRecipe (shortGood 3)).faulted ∧
    demoRecipe.lOrd ≤ ({ demoRoll with length := 200000 } : Roll).length := by
  refine ⟨⟨.inl accepted_winding, rfl, rfl, fun _ => rfl, .inr ⟨rfl, _, rfl, ?_⟩⟩,
    ⟨rfl, by decide, rfl, by decide⟩, by decide, by decide, rfl, ?_, by decide, by decide, ?_, by decide, ?_, by decide⟩
  · unfold Window.Contains
    decide
  · unfold Window.Skips Window.Contains
    decide
  · exact .inr ⟨rfl, .inl (by decide)⟩
  · exact .inl (by decide)

/-- A mark that skips a record: the roll, at L_ord, closes at the record skipped and its END cut is refused with four
cuts queued; the record matched then starts a roll. -/
theorem witness_SkipsCloseAndStartRolls :
    Accepted (knifing demoRecipe [shortGood 3, shortGood 4] [fullRoll] (.roll 2000) fullCuts) .cm .running demoRecipe ∧
    NoStrayReach (knifing demoRecipe [shortGood 3, shortGood 4] [fullRoll] (.roll 2000) fullCuts) ∧
    ∃ v w, HandsOver demoRecipe (knifing demoRecipe [shortGood 3, shortGood 4] [fullRoll] (.roll 2000) fullCuts)
      { shortGood 3 with knifeMissed := true } 44000 v ∧ v.ks.queue.length = 4 ∧
      HandsOver demoRecipe v (shortGood 4) 50000 w := by
  obtain ⟨v, hv, h1, h2, h3, h4⟩ : ∃ v, HandsOver demoRecipe
      (knifing demoRecipe [shortGood 3, shortGood 4] [fullRoll] (.roll 2000) fullCuts)
      { shortGood 3 with knifeMissed := true } 44000 v ∧ v.rb.segment = .waste ∧ v.ps.reserved = some ⟨3000, 2000⟩ ∧
      v.rb.rolls.map Roll.serial = [2000] ∧ v.ks.queue.length = 4 :=
    ⟨_, .closes fullRoll _ _ _ (builds_knifing _ _ _ _ rfl) (.inl (by decide)) (.inr (.inr rfl)) rfl rfl
      (.inr ⟨by decide, rfl⟩), by decide, by decide, by decide, by decide⟩
  obtain ⟨w, hw⟩ := handsOver_total demoRecipe v (shortGood 4) 50000 ⟨3000, 2000⟩ (.inl (by simp [State.BuildsNone, h1])) h2
    (by decide) fun y hy => by
      have := List.mem_map_of_mem (f := Roll.serial) hy
      rw [h3, List.mem_singleton] at this
      exact this.le
  exact ⟨accepted_knifing _ _ _ _ _ rfl, fun _ => rfl, v, w, hv, h4, hw⟩

/-- A START cut refused with four cuts queued. -/
theorem witness_StartsWithAFullKnifeQueue :
    MatchedAtKnife (knifing demoRecipe [goodRecord 3] [] .none fullCuts) demoRecipe (goodRecord 3) ∧
    4 ≤ fullCuts.queue.length ∧ ∃ v, HandsOver demoRecipe
      ((knifing demoRecipe [goodRecord 3] [] .none fullCuts).atKnife ⟨.sync, 0⟩) (goodRecord 3) 50000 v :=
  ⟨matched_knifing _ _ _ _ _ _ rfl rfl (by decide), by decide, _, .starts 3000 ⟨3000, 2000⟩ _ _ nofun rfl
    ⟨by decide, rfl, by decide, nofun, rfl, by decide, fun _ hy => absurd hy List.not_mem_nil⟩ rfl
    (.inr ⟨by decide, rfl⟩)⟩

/-- A start with 15 rolls held and at the last serial that may still be reserved; the three refusals of a start. -/
theorem witness_CutMarkStartsARoll :
    MatchedAtKnife (knifing demoRecipe [goodRecord 3] [] .none noCuts) demoRecipe (goodRecord 3) ∧
    (knifing demoRecipe [goodRecord 3] [] .none noCuts).BuildsNone ∧
    (knifing demoRecipe [goodRecord 3] [] .none noCuts).Starts demoRecipe (goodRecord 3) 3000 ⟨3000, 2000⟩ ∧
    (reserving ⟨3000, 4294967294⟩ (List.replicate 15 demoRoll)).Starts demoRecipe (goodRecord 3) 3000
      ⟨3000, 4294967294⟩ ∧
    (reserving ⟨3000, 2000⟩ (List.replicate 16 demoRoll)).RefusesStart demoRecipe (goodRecord 3)
      (some ⟨.rollTableFull, .label, some 3, none, some 3000, 16⟩) ∧
    (knifing demoRecipe [goodRecord 3, leader 4] [] .none noCuts).RefusesStart { demoRecipe with lookAhead := true }
      (goodRecord 3) none ∧
    (reserving ⟨3000, 4294967295⟩ []).RefusesStart demoRecipe (goodRecord 3)
      (some ⟨.counterExhausted, .store, some 3, none, some 3000, 1⟩) := by
  refine ⟨matched_knifing _ _ _ _ _ _ rfl rfl (by decide), nofun,
    ⟨by decide, rfl, by decide, nofun, rfl, by decide, fun _ hy => absurd hy List.not_mem_nil⟩,
    ⟨by decide, rfl, by decide, nofun, rfl, by decide, ?_⟩,
    ⟨by decide, 3000, rfl, .inl ⟨by decide, rfl⟩⟩,
    ⟨by decide, 3000, rfl, .inr (.inl ⟨by decide, rfl, ⟨[], leader 4, [], rfl, by decide, .inl (by decide)⟩, rfl⟩)⟩,
    ⟨by decide, 3000, rfl, .inr (.inr ⟨by decide, nofun, ⟨_, rfl, rfl⟩, rfl⟩)⟩⟩
  intro y hy
  rw [List.eq_of_mem_replicate hy]
  decide

/-- Where a roll closes at the record: one END_START cut at the same phase, an END cut and a START cut in DROP mode. -/
theorem witness_CutMarkEndsARollAndStartsAnother :
    (∀ r ∈ [demoRecipe, dropRecipe],
      MatchedAtKnife (knifing r [goodRecord 3] [fullRoll] (.roll 2000) noCuts) r (goodRecord 3) ∧
      (knifing r [goodRecord 3] [fullRoll] (.roll 2000) noCuts).Builds fullRoll ∧ ClosesAt r (goodRecord 3) fullRoll ∧
      ¬fullRoll.LeavesTrim r ∧
      (knifing r [goodRecord 3] [fullRoll] (.roll 2000) noCuts).Starts r (goodRecord 3) 3000 ⟨3000, 2000⟩) ∧
    ((knifing demoRecipe [goodRecord 3] [fullRoll] (.roll 2000) noCuts).closed demoRecipe (goodRecord 3) 50000 fullRoll
      53000).rb.nextPhase demoRecipe = fullRoll.phase ∧
    ((knifing dropRecipe [goodRecord 3] [fullRoll] (.roll 2000) noCuts).closed dropRecipe (goodRecord 3) 50000 fullRoll
      53000).rb.nextPhase dropRecipe ≠ fullRoll.phase ∧
    KnifeSequencer.Queues ⟨[⟨53000, .ends 2000, .waste, false⟩], none, false, .waste⟩
      ⟨dropRecipe.fireAt 50000 12000 .b, .starts 2001, .roll, false⟩
      ⟨dropRecipe.fireAt 50000 12000 .b, .starts 2001, .roll, false⟩ := by
  refine ⟨?_, by decide, by decide, ⟨by decide, .inr ⟨?_, rfl⟩⟩⟩
  · intro r hr
    have e : r.rNom = 12000 ∧ (goodRecord 3).creditedLen r = 12000 ∧ r.lOrd = 200000 ∧ r.lookAhead = false := by
      revert r
      decide
    refine ⟨matched_knifing _ _ _ _ _ _ e.1 rfl (by rw [e.2.1]; decide), builds_knifing _ _ _ _ rfl,
      .inl (by rw [e.2.2.1]; decide), fun h => absurd h.2.1 (by decide),
      ⟨by decide, rfl, (show 1 < 16 by omega), (by rw [e.2.2.2]; nofun), rfl, by decide, ?_⟩⟩
    intro y hy
    rw [List.mem_singleton.1 hy]
    decide
  · intro p hp
    rw [KnifeSequencer.behind_iff] at hp
    cases hp
    decide

/-- With nothing waiting; with a reached head that fires once the cut is complete. -/
theorem witness_AcknowledgeCompletesAStartCut :
    running.ks.outstanding = none ∧ (cutting demoStart [demoRoll]).ks.outstanding = some demoStart ∧
    demoStart.cut.kind = .starts 2000 ∧ NoStrayReach (cutting demoStart [demoRoll]) ∧ NoStrayReach waiting ∧
    waiting.ks.outstanding = some demoStart ∧
    (after .knifeAck waiting).ks.outstanding.map Outstanding.cut = some (demoCut 0) := by
  unfold NoStrayReach
  decide

/-- A REMNANT, a FULL roll with a hold flag, and a FULL roll without. -/
theorem witness_AcknowledgeCompletesTheEndingRoll :
    ∀ x ∈ [{ demoRoll with state := .ending, cls := some .remnant },
        { demoRoll with state := .ending, cls := some .full, hold := ⟨true, false, false⟩ },
        { demoRoll with state := .ending, cls := some .full }],
      (cutting demoEnd [x]).ks.outstanding = some demoEnd ∧ demoEnd.cut.kind = .ends 2000 ∧
      (cutting demoEnd [x]).wpu.reach = false ∧ (cutting demoEnd [x]).findRoll 2000 = some x ∧ x.state = .ending ∧
      ((cutting demoEnd [x]).rb.rolls.map Roll.serial).Nodup := by decide

/-- The cut that ends roll 1999 and starts roll 2000. -/
def demoEndStart : Outstanding := ⟨⟨50000, .endStart 1999 2000, .roll, false⟩, 0, false, 50, 100⟩

/-- Roll 1999, ENDING and FULL. -/
def endingRoll : Roll := { demoRoll with serial := 1999, state := .ending, cls := some .full }

/-- The END_START cut completes roll 1999, with roll 2000 BUILDING. -/
theorem witness_AcknowledgeCompletesAnEndStartCut :
    (cutting demoEndStart [endingRoll, demoRoll]).ks.outstanding = some demoEndStart ∧
    demoEndStart.cut.kind = .endStart 1999 2000 ∧ NoStrayReach (cutting demoEndStart [endingRoll, demoRoll]) ∧
    (cutting demoEndStart [endingRoll, demoRoll]).findRoll 1999 = some endingRoll ∧
    (after .knifeAck (cutting demoEndStart [endingRoll, demoRoll])).rb.rolls.map Roll.state = [.closed, .building] := by
  unfold NoStrayReach
  decide

theorem witness_TimeoutFailsTheOutstandingCut :
    running.ks.outstanding = none ∧ (cutting demoEndStart [endingRoll, demoRoll]).ks.outstanding = some demoEndStart ∧
    demoEndStart.cut.kind = .endStart 1999 2000 ∧ NoStrayReach (cutting demoEndStart [endingRoll, demoRoll]) ∧ 1999 ≠ 2000 ∧
    (cutting demoEndStart [endingRoll, demoRoll]).findRoll 1999 = some endingRoll ∧
    (cutting demoEndStart [endingRoll, demoRoll]).findRoll 2000 = some demoRoll ∧ endingRoll.state = .ending ∧
    endingRoll.cls ≠ some .remnant ∧ demoRoll.state = .building ∧
    ((cutting demoEndStart [endingRoll, demoRoll]).rb.rolls.map Roll.serial).Nodup := by
  unfold NoStrayReach
  decide

/-- A START cut; an END cut with a FULL and with a REMNANT ending roll: KNIFE_TIMEOUT, and REMNANT_CUT with extra 1. -/
theorem witness_TimeoutFailsEveryCut :
    (∀ o ∈ [demoStart, demoEnd], NoStrayReach (cutting o [demoRoll])) ∧
    (after .knifeTimeout (cutting demoStart [demoRoll])).rb.rolls.map Roll.hold = [⟨true, false, false⟩] ∧
    (after .knifeTimeout (cutting demoEnd [{ demoRoll with state := .ending, cls := some .full }])).rb.rolls.map Roll.state =
      [.held] ∧
    (after .knifeTimeout
      (cutting demoEnd [{ demoRoll with state := .ending, cls := some .remnant }])).events.entries.map EventEntry.extra =
      [0, 50, 1] := by
  unfold NoStrayReach
  decide

/-- The store in the given operation state, with commit-pending as given. -/
def storing (op : StoreOp) (pending : Bool) : State :=
  { running with ps := { running.ps with op := op, commitPending := pending } }

/-- A write of the default setup from Port F. -/
def demoWrite : StoreWrite := ⟨.portF, .setup Setup.default, false⟩

theorem idle_is_no_write (w : StoreWrite) (b : Bool) : running.ps.op ≠ .writing w b := by
  rw [show running.ps.op = .idle from rfl]
  nofun

theorem plain_write_is_not_suspending (w : StoreWrite) :
    (storing (.writing demoWrite false) false).ps.op ≠ .writing w true := by
  rw [show (storing (.writing demoWrite false) false).ps.op = .writing demoWrite false from rfl]
  intro h
  have e : false = true := congrArg (fun | .writing _ b => b | _ => false) h
  exact absurd e (by decide)

theorem witness_SuspensionStartsTheCommit :
    (storing (.writing demoWrite true) false).ps.op = .writing demoWrite true ∧
    (storing (.writing demoWrite true) false).ps.reserved = some ⟨3000, 2000⟩ ∧
    (∀ w, running.ps.op ≠ .writing w true) ∧ ∀ w, (storing (.writing demoWrite false) false).ps.op ≠ .writing w true :=
  ⟨rfl, rfl, fun w => idle_is_no_write w true, plain_write_is_not_suspending⟩

theorem witness_WriteEndsAndPostsItsOutcome :
    (storing (.writing demoWrite false) false).ps.op = .writing demoWrite false ∧
    (storing (.writing demoWrite false) false).ps.commitPending = false ∧
    (storing (.writing demoWrite true) false).ps.op = .writing demoWrite true ∧
    (storing (.writing demoWrite false) true).ps.commitPending = true ∧
    (storing (.writing demoWrite false) true).ps.reserved = some ⟨3000, 2000⟩ ∧ ∀ w b, running.ps.op ≠ .writing w b :=
  ⟨rfl, rfl, rfl, rfl, rfl, idle_is_no_write⟩

/-- With no attempt in flight; without and with a suspended write; at the second and the third failure; with
commit-pending clear and set. -/
theorem witness_CommitAttemptEnds :
    running.ps.op.series? = none ∧
    (storing (.committing ⟨⟨3000, 2000⟩, 1, false⟩) false).ps.op = .committing ⟨⟨3000, 2000⟩, 1, false⟩ ∧
    (storing (.committingOver ⟨⟨3000, 2000⟩, 2, false⟩ demoWrite) true).ps.op =
      .committingOver ⟨⟨3000, 2000⟩, 2, false⟩ demoWrite ∧ running.ps.reserved = some ⟨3000, 2000⟩ ∧ 1 < 2 ∧
    (storing (.committing ⟨⟨3000, 2000⟩, 1, false⟩) false).ps.commitPending = false ∧
    (storing (.committingOver ⟨⟨3000, 2000⟩, 2, false⟩ demoWrite) true).ps.commitPending = true ∧
    running.events.refs.store = false := by decide

/-- A seeded series that succeeds, with a head that becomes ready and with none, and one that fails for the third time;
Port F shows PENDING. -/
theorem witness_CommitAttemptEndsForASeed :
    (after (.seedCounters .portF 3000 2000) State.reset).ps.op = .committing ⟨⟨3000, 2000⟩, 0, true⟩ ∧
    (after (.seedCounters .portF 3000 2000) State.reset).ports.f.slot.status = .pending ∧
    (after (.commitAttemptEnd true) (after (.seedCounters .portF 3000 2000) State.reset)).ports.f.slot.status = .done ∧
    (storing (.committing ⟨⟨3000, 2000⟩, 2, true⟩) false).ps.op = .committing ⟨⟨3000, 2000⟩, 2, true⟩ ∧
    (after (.commitAttemptEnd true) { labelling with
      ld := ⟨[2000], none, false⟩
      ps := { labelling.ps with op := .committing ⟨⟨3000, 2000⟩, 0, false⟩ } }).ports.p.raw = noticeLabel := by decide

/-- Slots 0, 1 and 8, an image in range and one out of range, an idle and a busy store. -/
theorem witness_WriteRecipeOutcomes :
    Port.portP ≠ .portF ∧ (∀ i : Fin 8, (0 : BitVec 4).toNat ≠ i.val + 1) ∧ (1 : BitVec 4).toNat = (0 : Fin 8).val + 1 ∧
    (8 : BitVec 4).toNat = (7 : Fin 8).val + 1 ∧ StructuralInRange demoImage ∧
    ¬StructuralInRange { demoImage with kcCode := 3 } ∧ running.ps.op = .idle ∧
    ({ running with ps := { running.ps with op := .committing ⟨⟨3000, 2000⟩, 0, false⟩ } } : State).ps.op ≠ .idle := by
  unfold StructuralInRange
  decide

theorem witness_WriteSetupOutcomes :
    running.sc.session.inRun = true ∧ State.reset.sc.session.inRun = false ∧
    4 ≤ ({ demoSetup with store := 4 } : SetupArgs).store.toNat ∧ setupGroups demoSetup =
      some ⟨.native, .native, .native, .native, .native, .native, .flag⟩ ∧ State.reset.ps.op = .idle ∧
    ({ State.reset with ps := { State.reset.ps with op := .committing ⟨⟨0, 0⟩, 0, true⟩ } } : State).ps.op ≠ .idle := by
  decide

theorem witness_SeedCountersOutcomes :
    running.ps.validity = .valid ∧ State.reset.ps.validity = .invalid ∧ 16777215 < (16777216 : BitVec 32).toNat ∧
    (16777215 : BitVec 32).toNat ≤ 16777215 ∧ State.reset.ps.op = .idle ∧
    ({ State.reset with ps := { State.reset.ps with op := .committing ⟨⟨0, 0⟩, 0, true⟩ } } : State).ps.op ≠ .idle := by
  decide

/-- Four and five bytes clocked, a PENDING and a final reply. -/
theorem witness_FetchReplyShiftsTheSlotOut :
    ∃ p, p = running.ports.get .portP ∧ ¬5 ≤ [0, 0, 0, (0 : Byte)].length ∧ 5 ≤ [0, 0, 0, 0, (0 : Byte)].length :=
  ⟨_, rfl, by decide, by decide⟩

theorem witness_BadFramesAreAnswered :
    (⟨[], true⟩ : Frame).bytes = [] ∧ (⟨[9, 0, 0], false⟩ : Frame).bytes ≠ [] ∧ frameBad ⟨[9, 0, 0], false⟩ = true := by
  decide

/-- Slots 0, 1, 8 and 9, an idle and a busy store, an EMPTY and a VALID slot; an empty queue, and seqs before, at and
behind its ends. -/
theorem witness_ReadRequestsChangeNoBlock :
    (0 : Byte).toNat = 0 ∧ 8 < (9 : Byte).toNat ∧ (1 : Byte).toNat = (0 : Fin 8).val + 1 ∧
    (8 : Byte).toNat = (7 : Fin 8).val + 1 ∧ (storing (.committing ⟨⟨3000, 2000⟩, 0, false⟩) false).ps.op ≠ .idle ∧
    running.ps.op = .idle ∧ running.ps.array.slots[(7 : Fin 8)] = none ∧
    (running.ps.array.setSlot 7 (some demoRecipe)).slots[(7 : Fin 8)] = some demoRecipe ∧ running.rt.queue = [] ∧
    (tracking [goodRecord 3, demoRecord 4]).headSeq = some 3 ∧ (tracking [goodRecord 3, demoRecord 4]).tailSeq = some 4 ∧
    (2 : BitVec 32).toNat < 3 ∧ 4 < (5 : BitVec 32).toNat ∧
    (tracking [goodRecord 3, demoRecord 4]).findRecord (4 : BitVec 32).toNat = some (demoRecord 4) := by decide

theorem witness_RequestsOnOtherPortsAreNotPermitted :
    slotRequest (.getLabel .portP) = some .portP ∧ permitted (commandCode (.getLabel .portP)) .portP = false ∧
    slotRequest (.flushRun .portF) = some .portF ∧ permitted (commandCode (.flushRun .portF)) .portF = true := by decide

theorem witness_ClearArmedFlagLastsOneRequest :
    slotRequest (.endRun .portP) = some .portP ∧ Instr.endRun .portP ≠ .clearArm .portP ∧
    (∃ t, exec (.endRun .portP) running = .next t) ∧ (∃ t, exec (.readStatus .portP []) running = .next t) ∧
    (∃ t, exec (.badFrame .portP ⟨[9], false⟩) running = .next t) ∧ (∃ t, exec (.clearLine .portP) running = .next t) ∧
    (∃ t, exec (.deviceReset .powerOn false) running = .next t) ∧ running.sc.clearArmed.get .portP = false ∧
    ((after (.clearArm .portP) running).sc.clearArmed.get .portP = true ∧
      (after (.clearArm .portP) running).sc.session ≠ .unloaded) :=
  ⟨rfl, nofun, ⟨_, rfl⟩, ⟨_, rfl⟩, ⟨_, rfl⟩, ⟨_, rfl⟩, ⟨_, rfl⟩, rfl, rfl, nofun⟩

theorem witness_ClearLineRemovesTheWebInFlight :
    running.sc.clearArmed.get .portP = false ∧ (after (.clearArm .portP) State.reset).sc.clearArmed.get .portP = true ∧
    (after (.clearArm .portP) State.reset).sc.session = .unloaded ∧
    (after (.clearArm .portP) winding).sc.clearArmed.get .portP = true ∧
    (after (.clearArm .portP) winding).sc.session = .loaded .running demoRecipe := by decide

/-- Slots 0, 1, 8 and 9; counters invalid; a busy store; an EMPTY and a VALID slot. -/
theorem witness_LoadRecipeOutcomes :
    running.sc.session.inRun = true ∧ (demo .unloaded).sc.session.inRun = false ∧ 8 < (9 : Byte).toNat ∧
    (8 : Byte).toNat = (7 : Fin 8).val + 1 ∧ State.reset.ps.validity = .invalid ∧ (demo .unloaded).ps.validity = .valid ∧
    (demo .unloaded).ps.op = .idle ∧ (demo .unloaded).ps.array.slots[(7 : Fin 8)] = none ∧
    ((demo .unloaded).ps.array.setSlot 7 (some demoRecipe)).slots[(7 : Fin 8)] = some demoRecipe := by decide

theorem witness_RunsAreStartedAndEnded :
    (demo (.loaded .armed demoRecipe)).sc.session = .loaded .armed demoRecipe ∧
    (demo (.loaded .armed demoRecipe)).webClear = true ∧ (∀ r, running.sc.session ≠ .loaded .armed r) ∧
    running.sc.session = .loaded .running demoRecipe ∧ running.webClear = true ∧ winding.rt.queue ≠ [] ∧
    winding.sc.session = .loaded .running demoRecipe ∧ NoStrayReach running ∧
    ∀ r, State.reset.sc.session ≠ .loaded .running r :=
  ⟨rfl, rfl, nofun, rfl, rfl, nofun, rfl, fun _ => rfl, nofun⟩

/-- Drain completion without a roll, and with one whose END cut, on an absent or a present last hand-over, it queues. -/
theorem witness_DrainCompletesWithABuildingRoll :
    (∀ o ∈ [none, some (HandOver.mk 50000 12000)],
      ({ winding with rt := { winding.rt with queue := [] }, rb := { winding.rb with lastHandOver := o } } : State).webClear =
        true) ∧
    (after (.endRun .portP) { winding with
      rt := { winding.rt with queue := [] }
      rb := { winding.rb with lastHandOver := some ⟨50000, 12000⟩ } }).ks.queue =
        [⟨65000, .ends 2000, .waste, false⟩] := by decide

/-- Without a roll; with a roll one count short of L_short, and one of L_short. -/
theorem witness_FlushRunEndsTheDrain :
    Port.portF ≠ .portQ ∧ (∀ r, running.sc.session ≠ .loaded .draining r) ∧
    (demo (.loaded .draining demoRecipe)).sc.session = .loaded .draining demoRecipe ∧
    (∀ n, (demo (.loaded .draining demoRecipe)).rb.segment ≠ .roll n) ∧ winding.rb.segment = .roll 2000 ∧
    winding.findRoll 2000 = some demoRoll ∧ (winding.rb.rolls.map Roll.serial).Nodup ∧ 99999 < demoRecipe.lShort ∧
    demoRecipe.lShort ≤ 100000 :=
  ⟨by decide, nofun, rfl, nofun, rfl, by decide, by decide, by decide, by decide⟩

/-- No batch is spent before the flush, and one stays after it. -/
theorem witness_FlushRunLeavesTheBatches :
    (winding.batches.map BatchEntry.code).Nodup ∧ (∀ b ∈ winding.batches, b.isSpent = false) ∧
    (after (.flushRun .portP) { winding with sc := { winding.sc with session := .loaded .draining demoRecipe } }).batches =
      winding.batchesLeft [demoRoll] ∧
    winding.batchesLeft [] = [{ demoBatch with state := .closed, queued := 0 }] := by decide

/-- Each refusal at its boundary, and a defect on the head and on the tail. -/
theorem witness_ReportDefectOutcomes :
    4 ≤ (4 : Byte).toNat ∧ 2 ≤ (2 : Byte).toNat ∧ (2000 < (2001 : BitVec 16).toNat ∧ (2001 : BitVec 16).toNat ≠ 65535) ∧
    defectOf 3 1 2000 = some ⟨.edge, .major, some 2000⟩ ∧ defectOf 0 0 65535 = some ⟨.print, .minor, none⟩ ∧
    running.rt.queue = [] ∧ (tracking [goodRecord 3, demoRecord 4]).headSeq = some 3 ∧
    (tracking [goodRecord 3, demoRecord 4]).tailSeq = some 4 ∧ (2 : BitVec 32).toNat < 3 ∧ 4 < (5 : BitVec 32).toNat ∧
    3 ≤ (4 : BitVec 32).toNat ∧ (4 : BitVec 32).toNat ≤ 4 := by decide

theorem witness_ShadeReportOutcomes :
    State.reset.sc.session.inRun = false ∧ running.sc.session.inRun = true ∧ readingOf 10001 0 0 = none ∧
    readingOf 10000 12799 (-12800) = some ⟨10000, 12799, -12800⟩ ∧ running.rt.queue = [] ∧ winding.headSeq = some 3 ∧
    winding.tailSeq = some 3 ∧ winding.findRecord 3 = some (goodRecord 3) ∧ (goodRecord 3).reading.isSome = true ∧
    (demoRecord 3).reading = none ∧ winding.sc.session.recipe? = some demoRecipe ∧
    winner winding.batches ⟨5000, 60, -80⟩ demoRecipe.t = some demoBatch ∧ demoBatch.state = .opened ∧
    winding.findBatch 3000 = some demoBatch ∧ (winding.batches.map BatchEntry.code).Nodup := by decide

/-- A LEARNING batch with two readings. -/
def learningBatch : BatchEntry := { demoBatch with state := .learning ⟨10000, 0, 0⟩ 2 }

/-- A LEARNING winner at the reading before N_learn and at it; an exhausted counter; slots free, and a slot closed on a
batch that stays and on one that is freed; a full table. -/
theorem witness_ShadeReportOpensABatch :
    winner [learningBatch] ⟨5000, 60, -80⟩ 100 = some learningBatch ∧
    ¬({ demoRecipe with nLearn := 4 } : Recipe).nLearn ≤ 2 + 1 ∧ demoRecipe.nLearn ≤ 2 + 1 ∧
    winner winding.batches ⟨9000, 0, 0⟩ demoRecipe.t = none ∧ winding.ps.reserved = some ⟨3000, 2000⟩ ∧
    (reserving ⟨16777215, 0⟩ []).ps.reserved = some ⟨16777215, 0⟩ ∧ (16777214 : Nat) < 16777215 ∧
    SlotCleared winding demoRecipe winding ∧
    (∀ q ∈ [0, 1], ∃ u, SlotCleared
      { winding with batches := [{ demoBatch with queued := q, rolls := q }] } { demoRecipe with bSlots := 1 } u) ∧
    16 ≤ (List.replicate 16 demoBatch).length ∧ ∀ y ∈ winding.batches, y.code ≤ 3000 := by
  refine ⟨by decide, by decide, by decide, by decide, rfl, rfl, by omega, .inl ⟨by decide, rfl⟩, ?_, by decide, by decide⟩
  intro q _
  refine ⟨_, .inr ⟨show 1 ≤ 1 from le_rfl, _, List.mem_singleton.2 rfl, rfl, ?_, _, rfl, rfl⟩⟩
  intro y hy _ hne
  exact absurd (List.mem_singleton.1 hy) hne

/-- A winner just at the tolerance, the smaller code of two equally near, and no winner one step beyond. -/
theorem witness_NearestBatchWins :
    winner [demoBatch, { demoBatch with code := 2999 }] ⟨5000, 60, -80⟩ 100 = some { demoBatch with code := 2999 } ∧
    winner [demoBatch] ⟨5000, 61, -80⟩ 100 = none := by decide

theorem witness_GetLabelOutcomes :
    (after (.getLabel .portQ) labelling).ld.outstanding = some 2000 ∧
    ((after (.getLabel .portQ) labelling).findRoll 2000).isSome = true ∧ running.ld.outstanding = none ∧
    running.ld.order = [] ∧ labelling.ld.order.head? = some 2000 ∧ labelling.ld.headReady = true ∧
    ({ labelling with ld := ⟨[2000], none, false⟩ } : State).ld.headReady = false := by decide

theorem witness_LabelDoneOutcomes :
    (0 : BitVec 32).toNat = 0 ∧ labelling.ld.outstanding ≠ some (2000 : BitVec 32).toNat ∧
    (after (.getLabel .portQ) labelling).ld.outstanding = some (2000 : BitVec 32).toNat ∧
    ((after (.getLabel .portQ) labelling).findRoll 2000).isSome = true ∧ (labelling.findBatch 3000).isSome = true := by
  decide

theorem witness_RollDispositionOutcomes :
    2 ≤ (2 : Byte).toNat ∧ (1 : Byte).toNat < 2 ∧ running.findRoll (2000 : BitVec 32).toNat = none ∧
    ((winding.findRoll 2000).map Roll.state) = some .building ∧ ((holding.findRoll 2000).map Roll.state) = some .held ∧
    (holding.rb.rolls.map Roll.serial).Nodup := by decide

/-- A table with room and a full one; NOTE, FLAG and STOP; a recovery. -/
theorem witness_LoggingAnEvent :
    running.events.entries.length < 40 ∧
    (List.replicate 40 (EventEntry.powerUp .powerOn)).length = 40 ∧ EventCode.powerUp.isRecovery = false ∧
    effectiveAction .powerUp .native = .note ∧ effectiveAction .angleSlip .native = .flag ∧
    effectiveAction .trackLost .native = .stop ∧ EventCode.trackRegained.isRecovery = true := by decide

theorem witness_ClearEventsEmptiesTheTable : ∃ t, exec (.clearEvents .portP) running = .next t := ⟨_, rfl⟩

theorem witness_FrameOfARequestSpellsIt :
    slotRequest (.readRoll .portF (some 2000)) = some .portF ∧ slotRequest (.writeRecipe .portP demoImage) = some .portP :=
  ⟨rfl, rfl⟩

/-! ### Witnesses: a sound state in a run, with a record, a batch and a BUILDING roll, that takes a step -/

/-- `winding` under a recipe with emboss disabled, with a command waiting. -/
def soundState : State :=
  { winding with
    sc := { winding.sc with session := .loaded .running { demoRecipe with emboss := false } }
    erc := State.reset.erc
    pending := [.markCapture .cm] }

/-- `labelling` with its label handed out. -/
def labelledState : State := { labelling with ld := ⟨[2000], some 2000, true⟩ }

theorem demoRecipe_inRange (b : Bool) : ({ demoRecipe with emboss := b } : Recipe).InRange := by
  cases b <;> (unfold Recipe.InRange; decide)

/-- A store that is idle over an array without recipes and setup. -/
def PlainStore (s : State) : Prop :=
  s.ps.op.write? = none ∧ s.ps.array.setup = none ∧ s.ps.setupStored = false ∧ s.ps.setup.InRange ∧
  ∀ i, s.ps.array.slot i = none

theorem plain_fields (s : State) (h : PlainStore s) (hr : ∀ r ∈ s.sc.session.recipe?, r.InRange) : FieldsInRange s := by
  obtain ⟨h1, h2, _, h4, h5⟩ := h
  refine ⟨hr, h4, ?_, ?_, ?_⟩
  · intro i r hi
    rw [h5 i] at hi
    cases hi
  · intro u hu
    rw [h2] at hu
    cases hu
  · intro w hw
    rw [h1] at hw
    cases hw

theorem plain_writes (s : State) (h : PlainStore s) : WritesSound s := by
  obtain ⟨h1, _, h3, _, _⟩ := h
  refine ⟨?_, ?_⟩
  · intro w hw
    rw [h1] at hw
    cases hw
  · intro hs
    rw [h3] at hs
    cases hs

theorem soundState_plain : PlainStore soundState := by
  refine ⟨rfl, rfl, rfl, ?_, by decide⟩
  unfold Setup.InRange
  decide

theorem soundState_fields : FieldsInRange soundState := by
  refine plain_fields _ soundState_plain ?_
  intro r hr
  cases hr
  exact demoRecipe_inRange false

theorem soundState_erc : ErcSound soundState := by
  refine ⟨by unfold Erc.InRange; decide, by unfold Erc.Tidy; decide, by unfold ErcFollows; decide⟩

theorem soundState_events : EventsSound soundState := by unfold EventsSound; decide
theorem soundState_queue : QueueSound soundState := by unfold QueueSound; decide
theorem soundState_records : RecordsSound soundState := by unfold RecordsSound RepeatRecord.Sound; decide
theorem soundState_knife : KnifeSound soundState := by unfold KnifeSound; decide
theorem soundState_counters : CountersSound soundState := by
  unfold CountersSound Counters.Le
  exact ⟨by decide, by decide, by decide, by decide, by decide, by decide, by decide, by decide, fun _ _ => rfl⟩


theorem soundState_writes : WritesSound soundState := plain_writes _ soundState_plain
theorem soundState_rolls : RollsSound soundState := by unfold RollsSound; decide
theorem soundState_batches : BatchesSound soundState := by
  refine ⟨by decide, by decide, by decide, by decide, ?_, by decide, by decide⟩
  intro k hk
  have e : k = goodRecord 3 := by simpa [soundState, winding, tracking] using hk
  subst e
  exact ⟨demoBatch, by decide, rfl⟩

theorem soundState_labels : LabelsSound soundState := by unfold LabelsSound; decide
theorem soundState_rollStates : RollStatesSound soundState := by unfold RollStatesSound Roll.Sound; decide

/-- The premises of every statement about what a step keeps are met together by a state that steps. -/
theorem witness_EveryStepKeepsTheLaws : Sound soundState ∧ ∃ t, step soundState = .next t :=
  ⟨⟨soundState_fields, soundState_erc, soundState_events, soundState_queue, soundState_records, soundState_knife,
    soundState_counters, soundState_writes, soundState_rolls, soundState_batches, soundState_labels,
    soundState_rollStates⟩, ⟨_, rfl⟩⟩

theorem labelledState_plain : PlainStore labelledState := by
  refine ⟨rfl, rfl, rfl, ?_, by decide⟩
  unfold Setup.InRange
  decide

theorem labelledState_records : labelledState.rt.queue = [] := rfl

theorem labelledState_sound : Sound labelledState := by
  refine ⟨plain_fields _ labelledState_plain ?_, ⟨?_, ?_, ?_⟩, ?_, ?_, ?_, ?_, ?_, plain_writes _ labelledState_plain, ?_,
    ⟨by decide, by decide, by decide, by decide, ?_, by decide, by decide⟩, ?_, ?_⟩
  · intro r hr
    rw [show labelledState.sc.session.recipe? = none from rfl] at hr
    cases hr
  · unfold Erc.InRange; decide
  · unfold Erc.Tidy; decide
  · unfold ErcFollows; decide
  · unfold EventsSound; decide
  · unfold QueueSound; decide
  · intro k hk
    rw [labelledState_records] at hk
    cases hk
  · unfold KnifeSound; decide
  · unfold CountersSound Counters.Le
    exact ⟨by decide, by decide, by decide, by decide, by decide, by decide, by decide, by decide, fun _ _ => rfl⟩
  · unfold RollsSound; decide
  · intro k hk
    rw [labelledState_records] at hk
    cases hk
  · unfold LabelsSound; decide
  · unfold RollStatesSound Roll.Sound; decide

theorem witness_OutstandingLabelCodesSurviveAReset :
    Sound labelledState ∧ (∃ t, exec (.getLabel .portQ) labelledState = .next t) ∧
    (reply (.getLabel .portQ) .portQ labelledState).1 = .done ∧ labelledState.ld.outstanding = some 2000 ∧
    (labelledState.findRoll 2000).isSome = true ∧ ∃ t, exec (.deviceReset .powerOn true) labelledState = .next t :=
  ⟨labelledState_sound, ⟨_, rfl⟩, by decide, rfl, by decide, ⟨_, rfl⟩⟩

end Sys2Proof.Tests
end

section
/-! PROOFS. The index edge of the angle encoder: the offset it checks, and the state it leaves. -/

namespace Sys2Proof.Proofs

open Sys2Proof Sys2Proof.Machine

/-! ### The angle offset -/

/-- R4's two halves of the turn are CA read as a two's-complement number. -/
theorem angleSlip_eq_halves (ca : Angle) :
    angleSlip ca = if ca.toNat < 8192 then (ca.toNat : Int) else (ca.toNat : Int) - 16384 := by
  have hcond : angleSlip ca = if 2 * ca.toNat < 16384 then (ca.toNat : Int) else (ca.toNat : Int) - 16384 :=
    BitVec.toInt_eq_toNat_cond ca
  rw [hcond]
  split_ifs <;> omega

theorem angleSlip_ge (ca : Angle) : -8192 ≤ angleSlip ca := BitVec.le_toInt ca

theorem angleSlip_le (ca : Angle) : angleSlip ca ≤ 8191 := by
  have hlt : angleSlip ca < 8192 := BitVec.toInt_lt
  omega

/-- No offset reaches the limits of a signed extra field. -/
theorem extraInt_angleSlip (ca : Angle) : extraInt (angleSlip ca) = BitVec.ofInt 16 (angleSlip ca) := by
  have hge := angleSlip_ge ca
  have hle := angleSlip_le ca
  rw [extraInt, clampInt_inside _ _ _ (by omega) (by omega)]

/-! ### The angle-slip check -/

theorem slipCheck_of_le (s : State) (h : (angleSlip s.wpu.ca).natAbs ≤ 8) : slipCheck s = s :=
  if_neg (Nat.not_lt.mpr h)

theorem slipCheck_of_gt (s : State) (h : 8 < (angleSlip s.wpu.ca).natAbs) :
    slipCheck s =
      logEvent s ⟨.angleSlip, .emboss, none, none, none, BitVec.ofInt 16 (angleSlip s.wpu.ca)⟩ := by
  rw [← extraInt_angleSlip]
  exact if_pos h

/-! ### The index edge -/

/-- R3, R4: the check comes before CA is set to 0, which happens in every case. -/
theorem exec_caIndex (s : State) :
    exec .caIndex s = .next { slipCheck s with wpu := { (slipCheck s).wpu with ca := 0 } } := rfl

/-- Settles O7: the offset is the model's `angleSlip`, and each side of the bound 8 is one branch of the check. -/
theorem indexChecksTheAngleAndZeroesIt : Obligations.IndexChecksTheAngleAndZeroesIt := by
  intro s off hoff
  obtain rfl : off = angleSlip s.wpu.ca := hoff.trans (angleSlip_eq_halves s.wpu.ca).symm
  refine ⟨angleSlip_ge _, angleSlip_le _, rfl, rfl, fun hsmall => ?_, fun hlarge => ?_⟩
  · rw [exec_caIndex, slipCheck_of_le s hsmall]
  · have hlog := slipCheck_of_gt s hlarge
    obtain ⟨hrt, herc, hbatches, hrb, hks, hld, hps, -⟩ := slipCheck_frame s
    exact ⟨_, exec_caIndex s, by rw [hlog, logEvent_wpu], by rw [hlog], hrt, herc, hbatches, hrb, hks, hld, hps⟩

end Sys2Proof.Proofs
end

section
/-! PROOFS. The clear-armed flags: what a request, whatever its command, leaves of them. -/

namespace Sys2Proof.Proofs

open Sys2Proof Sys2Proof.Machine

/-! ### Effects that leave the flags -/

/-- The part of a state that a drain completion leaves holds the flags, and so does the fixed part. -/
theorem clearArmed_of_outerPart {s t : State} (h : s.outerPart = t.outerPart) :
    s.sc.clearArmed = t.sc.clearArmed := by
  rw [outerPart_sc h]

theorem clearArmed_of_fixedPart {s t : State} (h : s.fixedPart = t.fixedPart) :
    s.sc.clearArmed = t.sc.clearArmed :=
  clearArmed_of_outerPart (fixedPart_outer h)

theorem flushRecord_fixedPart (s : State) (k : RepeatRecord) : (flushRecord s k).fixedPart = s.fixedPart := by
  simp [flushRecord]

theorem foldl_flushRecord_fixedPart (ks : List RepeatRecord) (s : State) :
    (ks.foldl flushRecord s).fixedPart = s.fixedPart := by
  induction ks generalizing s with
  | nil => rfl
  | cons k ks ih => rw [List.foldl_cons, ih, flushRecord_fixedPart]

theorem flushNow_outerPart (s : State) (r : Recipe) : (flushNow s r).outerPart = s.outerPart := by
  have hclosed : (ercOff (closeBatches (flushClose (s.rt.queue.foldl flushRecord s) r).1)).fixedPart = s.fixedPart := by
    simp [foldl_flushRecord_fixedPart]
  simp [flushNow, fixedPart_outer hclosed]

theorem loadNow_outerPart (s : State) (r : Recipe) : (loadNow s r).outerPart = s.outerPart := by
  have hoff : (ercOff s).fixedPart = s.fixedPart := by simp
  rw [loadNow, State.enter_outerPart, fixedPart_outer hoff]

/-- START RUN changes the session, the next seq and its spent mark (R21, R38), none of the flags. -/
theorem startRunNow_clearArmed (s : State) (r : Recipe) : (startRunNow s r).sc.clearArmed = s.sc.clearArmed :=
  clearArmed_of_fixedPart (s := ercStart s r) (by simp)

theorem endRun_outerPart (s : State) (r : Recipe) : (drainTest (s.enter .draining r)).outerPart = s.outerPart := by
  simp

theorem takeReading_fixedPart (s : State) (r : Recipe) (seq : Nat) (x : Lab) :
    (takeReading s r seq x).1.fixedPart = s.fixedPart := by
  simp [takeReading]

theorem removeLabelled_fixedPart (s : State) (roll : Roll) : (removeLabelled s roll).fixedPart = s.fixedPart := by
  simp [removeLabelled]

theorem acceptRoll_fixedPart (s : State) (serial : Nat) : (acceptRoll s serial).fixedPart = s.fixedPart := by
  simp [acceptRoll]

theorem voidRoll_fixedPart (s : State) (roll : Roll) : (voidRoll s roll).fixedPart = s.fixedPart := by
  simp [voidRoll]

/-! ### Commands that leave the flags -/

/-- A command's own effect leaves the flags as it finds them. -/
def KeepsFlags (body : State → State × Answer) : Prop := ∀ t, (body t).1.sc.clearArmed = t.sc.clearArmed

theorem loadRecipeBody_keepsFlags (slot : Nat) : KeepsFlags (loadRecipeBody slot) := by
  have hload : KeepsFlags (loadSlot slot) := by
    intro t
    unfold loadSlot
    repeat' split
    any_goals rfl
    exact clearArmed_of_outerPart (loadNow_outerPart t _)
  intro t
  unfold loadRecipeBody
  split
  · rfl
  · rfl
  · exact hload t
  · exact hload t

theorem startRunBody_keepsFlags : KeepsFlags startRunBody := by
  intro t
  unfold startRunBody
  repeat' split
  any_goals rfl
  exact startRunNow_clearArmed t _

theorem endRunBody_keepsFlags : KeepsFlags endRunBody := by
  intro t
  unfold endRunBody
  split
  any_goals rfl
  exact clearArmed_of_outerPart (endRun_outerPart t _)

theorem flushRunBody_keepsFlags : KeepsFlags flushRunBody := by
  intro t
  unfold flushRunBody
  split
  any_goals rfl
  exact clearArmed_of_outerPart (flushNow_outerPart t _)

theorem writeRecipeBody_keepsFlags (port : Port) (image : RecipeImage) : KeepsFlags (writeRecipeBody port image) := by
  intro t
  unfold writeRecipeBody
  repeat' split
  all_goals rfl

theorem writeSetupBody_keepsFlags (port : Port) (args : SetupArgs) : KeepsFlags (writeSetupBody port args) := by
  intro t
  unfold writeSetupBody
  repeat' split
  all_goals rfl

theorem seedCountersBody_keepsFlags (batch roll : Nat) : KeepsFlags (seedCountersBody batch roll) := by
  intro t
  unfold seedCountersBody
  repeat' split
  all_goals rfl

theorem reportDefectBody_keepsFlags (seq : Nat) (kind severity : Byte) (cross : BitVec 16) :
    KeepsFlags (reportDefectBody seq kind severity cross) := by
  intro t
  unfold reportDefectBody
  repeat' split
  all_goals rfl

theorem shadeRecord_keepsFlags (r : Recipe) (seq : Nat) (x : Lab) : KeepsFlags fun t => shadeRecord t r seq x := by
  intro t
  dsimp only
  unfold shadeRecord
  repeat' split
  any_goals rfl
  exact clearArmed_of_fixedPart (takeReading_fixedPart t r seq x)

theorem shadeReportBody_keepsFlags (seq : Nat) (l a b : BitVec 16) : KeepsFlags (shadeReportBody seq l a b) := by
  intro t
  unfold shadeReportBody
  repeat' split
  any_goals rfl
  all_goals exact shadeRecord_keepsFlags _ seq _ t

theorem getLabelBody_keepsFlags : KeepsFlags getLabelBody := by
  intro t
  unfold getLabelBody
  repeat' split
  all_goals rfl

theorem labelDoneBody_keepsFlags (serial : Nat) : KeepsFlags (labelDoneBody serial) := by
  intro t
  unfold labelDoneBody
  repeat' split
  any_goals rfl
  exact clearArmed_of_fixedPart (removeLabelled_fixedPart t _)

theorem disposeRoll_keepsFlags (roll : Roll) (d : Decision) : KeepsFlags fun t => disposeRoll t roll d := by
  intro t
  dsimp only
  unfold disposeRoll
  split
  · rfl
  cases d with
  | accept => exact clearArmed_of_fixedPart (acceptRoll_fixedPart t roll.serial)
  | void => exact clearArmed_of_fixedPart (voidRoll_fixedPart t roll)

theorem rollDispositionBody_keepsFlags (serial : Nat) (decision : Byte) :
    KeepsFlags (rollDispositionBody serial decision) := by
  intro t
  unfold rollDispositionBody
  repeat' split
  any_goals rfl
  exact disposeRoll_keepsFlags _ _ t

/-! ### Requests -/

/-- R26, R198: where the command leaves the flags, its request clears its port's flag and leaves the others, permitted
there or not. -/
theorem takeRequest_clearArmed {body : State → State × Answer} (hbody : KeepsFlags body) (port : Port) (i : Instr)
    (s : State) : (takeRequest port i s body).sc.clearArmed = s.sc.clearArmed.set port false :=
  takeRequest_cases port i s body (fun t => t.sc.clearArmed = s.sc.clearArmed.set port false)
    (hbody (s.taken port i)) rfl

theorem clearArmed_of_taken {body : State → State × Answer} (hbody : KeepsFlags body) {port : Port} {i : Instr}
    {s t : State} (h : (Host.Outcome.next (takeRequest port i s body) : Host.Outcome State Fault Refusal) = .next t) :
    t.sc.clearArmed = s.sc.clearArmed.set port false := by
  cases h
  exact takeRequest_clearArmed hbody port i s

/-- R26: every request that replies through the slot, other than CLEAR ARM and CLEAR LINE, clears its port's flag and
leaves the others. -/
theorem exec_request_clearArmed {i : Instr} {port : Port} {s t : State} (hi : slotRequest i = some port)
    (harm : i ≠ .clearArm port) (hline : i ≠ .clearLine port) (h : exec i s = .next t) :
    t.sc.clearArmed = s.sc.clearArmed.set port false := by
  cases i <;> cases hi
  case setNotices => exact clearArmed_of_taken (fun _ => rfl) h
  case ackNotices => exact clearArmed_of_taken (fun _ => rfl) h
  case resumeLine => exact clearArmed_of_taken (fun _ => rfl) h
  case clearArm => exact absurd rfl harm
  case clearLine => exact absurd rfl hline
  case loadRecipe => exact clearArmed_of_taken (loadRecipeBody_keepsFlags _) h
  case startRun => exact clearArmed_of_taken startRunBody_keepsFlags h
  case endRun => exact clearArmed_of_taken endRunBody_keepsFlags h
  case flushRun => exact clearArmed_of_taken flushRunBody_keepsFlags h
  case writeRecipe => exact clearArmed_of_taken (writeRecipeBody_keepsFlags _ _) h
  case readRecipe => exact clearArmed_of_taken (fun _ => rfl) h
  case writeSetup => exact clearArmed_of_taken (writeSetupBody_keepsFlags _ _) h
  case readSetup => exact clearArmed_of_taken (fun _ => rfl) h
  case seedCounters => exact clearArmed_of_taken (seedCountersBody_keepsFlags _ _) h
  case readCounters => exact clearArmed_of_taken (fun _ => rfl) h
  case reportDefect => exact clearArmed_of_taken (reportDefectBody_keepsFlags _ _ _ _) h
  case shadeReport => exact clearArmed_of_taken (shadeReportBody_keepsFlags _ _ _ _) h
  case readRepeat => exact clearArmed_of_taken (fun _ => rfl) h
  case readRoll => exact clearArmed_of_taken (fun _ => rfl) h
  case readBatch => exact clearArmed_of_taken (fun _ => rfl) h
  case getLabel => exact clearArmed_of_taken getLabelBody_keepsFlags h
  case labelDone => exact clearArmed_of_taken (labelDoneBody_keepsFlags _) h
  case rollDisposition => exact clearArmed_of_taken (rollDispositionBody_keepsFlags _ _) h
  case readEvents => exact clearArmed_of_taken (fun _ => rfl) h
  case clearEvents => exact clearArmed_of_taken (fun _ => rfl) h

/-! ### CLEAR ARM and CLEAR LINE -/

theorem permitted_clearArm (port : Port) : permitted (commandCode (.clearArm port)) port = true := by
  cases port <;> rfl

theorem permitted_clearLine (port : Port) : permitted (commandCode (.clearLine port)) port = true := by
  cases port <;> rfl

/-- R26: the flag is set after the request has cleared it, and the reply is DONE. -/
theorem exec_clearArm (port : Port) (s : State) :
    exec (.clearArm port) s = .next
      { s.answered port (.clearArm port) .done [] with
        sc := { s.sc with clearArmed := s.sc.clearArmed.set port true } } := by
  refine congrArg Host.Outcome.next ((takeRequest_permitted _ _ _ _ (permitted_clearArm port)).trans ?_)
  cases s
  cases port <;> rfl

/-- R27: without its own port's flag a CLEAR LINE is answered, and nothing else. -/
theorem exec_clearLine_notArmed (port : Port) (s : State) (harmed : s.sc.clearArmed.get port = false) :
    exec (.clearLine port) s = .next (s.answered port (.clearLine port) .notArmed []) := by
  refine congrArg Host.Outcome.next
    (takeRequest_answered _ _ _ _ (Answer.plain .notArmed) (permitted_clearLine port) ?_)
  simp [clearLineBody, harmed]

/-- R27: in UNLOADED there is no line to clear. -/
theorem exec_clearLine_unloaded (port : Port) (s : State) (harmed : s.sc.clearArmed.get port = true)
    (hsession : s.sc.session = .unloaded) :
    exec (.clearLine port) s = .next (s.answered port (.clearLine port) .wrongState []) := by
  refine congrArg Host.Outcome.next
    (takeRequest_answered _ _ _ _ (Answer.plain .wrongState) (permitted_clearLine port) ?_)
  simp [clearLineBody, harmed, hsession]

theorem clearNow_clearArmed (s : State) (r : Recipe) : (clearNow s r).sc.clearArmed = ⟨false, false, false⟩ := rfl

/-- R26, R28: a CLEAR LINE carried out clears the flags of all ports. -/
theorem exec_clearLine_loaded {port : Port} {s t : State} (harmed : s.sc.clearArmed.get port = true)
    (hsession : s.sc.session ≠ .unloaded) (h : exec (.clearLine port) s = .next t) :
    t.sc.clearArmed = ⟨false, false, false⟩ := by
  obtain ⟨run, r, hloaded⟩ : ∃ run r, s.sc.session = .loaded run r := by
    cases hs : s.sc.session with
    | unloaded => exact absurd hs hsession
    | loaded run r => exact ⟨run, r, rfl⟩
  have hbody : clearLineBody (s.sc.clearArmed.get port) (s.taken port (.clearLine port)) =
      (clearNow (s.taken port (.clearLine port)) r, Answer.plain .done) := by
    simp [clearLineBody, harmed, hloaded]
  have htaken : takeRequest port (.clearLine port) s (clearLineBody (s.sc.clearArmed.get port)) = t :=
    Host.Outcome.next.inj h
  rw [← htaken, takeRequest_permitted _ _ _ _ (permitted_clearLine port), hbody, State.onPort_sc, clearNow_clearArmed]

theorem answered_clearArmed (s : State) (port : Port) (i : Instr) (st : Status) (data : List Byte) :
    (s.answered port i st data).sc.clearArmed = s.sc.clearArmed.set port false := rfl

/-- R26, R27: a CLEAR LINE refused clears its port's flag alone, one carried out those of all ports. -/
theorem exec_clearLine_clearArmed {port : Port} {s t : State} (h : exec (.clearLine port) s = .next t) :
    t.sc.clearArmed = s.sc.clearArmed.set port false ∨
      s.sc.clearArmed.get port = true ∧ s.sc.session ≠ .unloaded ∧ t.sc.clearArmed = ⟨false, false, false⟩ := by
  cases harmed : s.sc.clearArmed.get port with
  | false =>
    rw [exec_clearLine_notArmed port s harmed] at h
    cases h
    exact .inl (answered_clearArmed s port _ _ _)
  | true =>
    by_cases hsession : s.sc.session = .unloaded
    · rw [exec_clearLine_unloaded port s harmed hsession] at h
      cases h
      exact .inl (answered_clearArmed s port _ _ _)
    · exact .inr ⟨rfl, hsession, exec_clearLine_loaded harmed hsession h⟩

/-! ### Frames and answers shifted out -/

theorem exec_badFrame_malformed (port : Port) (f : Frame) (s : State) (hbytes : f.bytes ≠ [])
    (hbad : frameBad f = true) : exec (.badFrame port f) s = .next (malformed s port f.bytes) :=
  (if_neg hbytes).trans (if_pos hbad)

/-- R26, R197: a frame answered BAD_FRAME clears its port's flag and leaves the others. -/
theorem malformed_clearArmed (s : State) (port : Port) (bytes : List Byte) :
    (malformed s port bytes).sc.clearArmed = s.sc.clearArmed.set port false := rfl

theorem exec_readStatus_clearArmed {port : Port} {clocked : List Byte} {s t : State}
    (h : exec (.readStatus port clocked) s = .next t) : t.sc.clearArmed = s.sc.clearArmed := by
  cases h
  rfl

theorem exec_fetchReply_clearArmed {port : Port} {clocked : List Byte} {s t : State}
    (h : exec (.fetchReply port clocked) s = .next t) : t.sc.clearArmed = s.sc.clearArmed := by
  change execFetchReply port clocked s = .next t at h
  unfold execFetchReply at h
  split at h <;> cases h <;> rfl

/-! ### The whole of R26 -/

/-- Settles O37: every command's own effect but those of CLEAR ARM and CLEAR LINE keeps the flags, so only the taking of
the request changes them; the two are evaluated branch by branch. -/
theorem clearArmedFlagLastsOneRequest : Obligations.ClearArmedFlagLastsOneRequest := by
  refine ⟨exec_clearArm, fun i port s t hi harm h => ?_, fun port f s t hbytes hbad h => ?_, fun port clocked s t h => ?_,
    fun port s t h => ⟨fun hoff => ?_, fun hon hsession => exec_clearLine_loaded hon hsession h⟩,
    fun cause landed s t h => ?_⟩
  · by_cases hline : i = .clearLine port
    · subst hline
      obtain hone | ⟨hon, hsession, hall⟩ := exec_clearLine_clearArmed h
      · exact ⟨by rw [hone, PerPort.get_set_same], .inl hone⟩
      · have hown : t.sc.clearArmed.get port = false := by
          rw [hall]
          cases port <;> rfl
        exact ⟨hown, .inr ⟨rfl, hon, hsession, hall⟩⟩
    · have hone := exec_request_clearArmed hi harm hline h
      exact ⟨by rw [hone, PerPort.get_set_same], .inl hone⟩
  · rw [exec_badFrame_malformed port f s hbytes hbad] at h
    cases h
    exact malformed_clearArmed s port f.bytes
  · exact h.elim exec_readStatus_clearArmed exec_fetchReply_clearArmed
  · rw [exec_clearLine_notArmed port s hoff] at h
    exact (Host.Outcome.next.inj h).symm
  · cases h
    rfl

end Sys2Proof.Proofs
end

section
/-! PROOFS. The Emboss Register Controller: the angle offset of a mark, and the stages of the trim law. -/

namespace Sys2Proof.Proofs

open Sys2Proof Sys2Proof.Machine

/-! ### The repeat angle -/

/-- R69: the three repeat angles, by the number of repeats in a turn. -/
theorem repeatAngle_eq (r : Recipe) :
    r.repeatAngle = match r.kc with
      | .one => 16384
      | .two => 8192
      | .four => 4096 := by
  unfold Recipe.repeatAngle
  cases r.kc <;> rfl

theorem repeatAngle_pos (r : Recipe) : 0 < r.repeatAngle := by
  rw [repeatAngle_eq]
  cases r.kc <;> decide

/-- Half a repeat angle is a whole number of steps, so it is a value that the offset meets. -/
theorem repeatAngle_even (r : Recipe) : r.repeatAngle % 2 = 0 := by
  rw [repeatAngle_eq]
  cases r.kc <;> rfl

theorem repeatAngle_toNat (r : Recipe) : (r.repeatAngle.toNat : Int) = r.repeatAngle :=
  Int.toNat_of_nonneg (repeatAngle_pos r).le

/-! ### The angle offset -/

/-- The angle offset is the library's balanced remainder of CA − A_t by the repeat angle; an even repeat angle makes both
send exactly half of it to the negative side. -/
theorem angleOffset_eq_bmod (r : Recipe) (ca : Angle) :
    angleOffset r ca = ((ca.toNat : Int) - r.aT).bmod r.repeatAngle.toNat := by
  have heven := repeatAngle_even r
  rw [Int.bmod_def, repeatAngle_toNat]
  dsimp only [angleOffset]
  split_ifs <;> omega

/-- R69: the offset is congruent to CA − A_t. -/
theorem angleOffset_congruent (r : Recipe) (ca : Angle) :
    ∃ n : Int, angleOffset r ca = (ca.toNat : Int) - r.aT + n * r.repeatAngle := by
  rw [angleOffset_eq_bmod]
  have hdvd : (r.repeatAngle.toNat : Int) ∣ ((ca.toNat : Int) - r.aT).bmod r.repeatAngle.toNat - (ca.toNat - r.aT) :=
    Int.dvd_bmod_sub_self
  obtain ⟨n, hn⟩ := hdvd
  rw [repeatAngle_toNat] at hn
  exact ⟨n, by linarith⟩

theorem angleOffset_ge (r : Recipe) (ca : Angle) : -(r.repeatAngle / 2) ≤ angleOffset r ca := by
  rw [angleOffset_eq_bmod, ← repeatAngle_toNat]
  have hpos := repeatAngle_pos r
  exact Int.le_bmod (by omega)

theorem angleOffset_le (r : Recipe) (ca : Angle) : angleOffset r ca ≤ r.repeatAngle / 2 - 1 := by
  rw [angleOffset_eq_bmod]
  have hpos := repeatAngle_pos r
  have heven := repeatAngle_even r
  have hlt := Int.bmod_lt (x := (ca.toNat : Int) - r.aT) (m := r.repeatAngle.toNat) (by omega)
  omega

/-- R69: only the target's place within one repeat matters. -/
theorem angleOffset_target_mod (r : Recipe) (ca : Angle) :
    angleOffset { r with aT := r.aT % r.repeatAngle.toNat } ca = angleOffset r ca := by
  rw [angleOffset_eq_bmod, angleOffset_eq_bmod]
  change ((ca.toNat : Int) - ((r.aT % r.repeatAngle.toNat : Nat) : Int)).bmod r.repeatAngle.toNat = _
  rw [Int.natCast_mod, Int.sub_emod_bmod]

/-- Settles O16: the repeat angle is that of the three cases, and the offset is a balanced remainder by it. -/
theorem angleOffsetIsTheNearestTarget : Obligations.AngleOffsetIsTheNearestTarget := by
  intro r ca per hper
  obtain rfl : per = r.repeatAngle := hper.trans (repeatAngle_eq r).symm
  exact ⟨rfl, angleOffset_congruent r ca, angleOffset_ge r ca, angleOffset_le r ca, angleOffset_target_mod r ca, rfl⟩

/-! ### The stages of the trim law -/

/-- R74: the deadband moves an error towards 0 and never across it. -/
theorem deadband_pos_iff {db : Nat} {e : Int} (h : deadband db e ≠ 0) : 0 < deadband db e ↔ 0 < e := by
  unfold deadband at h ⊢
  split_ifs at h ⊢ <;> omega

theorem abs_clampInt_le (m x : Int) (h : 0 ≤ m) : |clampInt (-m) m x| ≤ m :=
  abs_le.mpr ⟨clampInt_ge _ _ _, clampInt_le _ _ _ (by omega)⟩

/-- R76: the scaled output, rounded to the nearest with halves away from zero. -/
theorem roundDiv_256 (v : Int) :
    roundDiv v 256 = if 0 ≤ v then (2 * v + 256) / 512 else -((-2 * v + 256) / 512) := by
  rw [roundDiv, if_neg (by decide)]
  split_ifs <;> omega

/-- A gain of one byte times a value within a limit. -/
theorem abs_gain_mul_le {k : Nat} {x m : Int} (hk : k ≤ 255) (hx : |x| ≤ m) : |(k : Int) * x| ≤ 255 * m := by
  rw [abs_mul, Nat.abs_cast]
  exact mul_le_mul (by omega) hx (abs_nonneg x) (by omega)

/-- R76: the sum of the two products, before it is scaled. -/
theorem abs_gain_sum_le {r : Recipe} (hkp : r.kp ≤ 255) (hki : r.ki ≤ 255) (x y : Int) :
    |(r.kp : Int) * clampInt (-2047) 2047 x + r.ki * clampInt (-8191) 8191 y| ≤ 2610690 :=
  calc |(r.kp : Int) * clampInt (-2047) 2047 x + r.ki * clampInt (-8191) 8191 y|
      ≤ |(r.kp : Int) * clampInt (-2047) 2047 x| + |(r.ki : Int) * clampInt (-8191) 8191 y| := abs_add_le _ _
    _ ≤ 255 * 2047 + 255 * 8191 := add_le_add (abs_gain_mul_le hkp (abs_clampInt_le _ _ (by decide)))
        (abs_gain_mul_le hki (abs_clampInt_le _ _ (by decide)))
    _ = 2610690 := by norm_num

theorem outputStage_ge (r : Recipe) (ec i : Int) : -127 ≤ outputStage r ec i := clampInt_ge _ _ _

theorem outputStage_le (r : Recipe) (ec i : Int) : outputStage r ec i ≤ 127 := clampInt_le _ _ _ (by decide)

/-- R77: the slewed output lies between the last output and the new one, so it stays within limits that hold of both. -/
theorem slewStage_within {r : Recipe} {prev u : Int} {lo hi : Int} (hprev : lo ≤ prev ∧ prev ≤ hi)
    (hu : lo ≤ u ∧ u ≤ hi) : lo ≤ slewStage r prev u ∧ slewStage r prev u ≤ hi := by
  unfold slewStage clampInt
  omega

theorem trim_lastOutput (c : Erc) (r : Recipe) (e : Int) :
    (c.trim r e).lastOutput =
      slewStage r c.lastOutput (outputStage r (clampError r e) (integralStage r c.integral e)) := rfl

theorem trim_pendingDuty (c : Erc) (r : Recipe) (e : Int) :
    (c.trim r e).pendingDuty = (128 + (c.trim r e).lastOutput).toNat := by
  simp only [Erc.trim]

/-- R76, R77: the output keeps within 127 in magnitude. -/
theorem trim_lastOutput_within {c : Erc} (h : -127 ≤ c.lastOutput ∧ c.lastOutput ≤ 127) (r : Recipe) (e : Int) :
    -127 ≤ (c.trim r e).lastOutput ∧ (c.trim r e).lastOutput ≤ 127 := by
  rw [trim_lastOutput]
  exact slewStage_within h ⟨outputStage_ge _ _ _, outputStage_le _ _ _⟩

/-- Settles O17: the statement's stages are the model's one by one, and each limit is that of the stage's own clamp. -/
theorem trimLawOfOneRecord : Obligations.TrimLawOfOneRecord := by
  intro r c e e' ec i v u he' hec hi hv hu
  obtain rfl : e' = deadband r.db e := he'
  obtain rfl : ec = clampError r e := hec
  obtain rfl : i = integralStage r c.integral e := hi
  subst hv
  rw [← roundDiv_256] at hu
  obtain rfl : u = outputStage r (clampError r e) (integralStage r c.integral e) := hu
  refine ⟨rfl, deadband_pos_iff, fun hkp hki => abs_le.mp (abs_gain_sum_le hkp hki _ _), fun hlo hhi => ?_⟩
  have hout := trim_lastOutput_within ⟨hlo, hhi⟩ r e
  rw [trim_pendingDuty]
  omega

end Sys2Proof.Proofs
end

section
/-! PROOFS. The Line Event Table: CLEAR EVENTS, and the first event that is logged in an empty table. -/

namespace Sys2Proof.Proofs

open Sys2Proof Sys2Proof.Machine

/-! ### CLEAR EVENTS -/

theorem permitted_clearEvents (port : Port) : permitted (commandCode (.clearEvents port)) port = true := by
  cases port <;> rfl

/-- R193: the table with its counts, references and summary is replaced by the empty one, and the reply is DONE. -/
theorem exec_clearEvents (port : Port) (s : State) :
    exec (.clearEvents port) s =
      .next (State.answered { s with events := ⟨[], 0, 0, StationRefs.clear, false⟩ }
        port (.clearEvents port) .done []) :=
  congrArg Host.Outcome.next
    (takeRequest_effect port _ s _ _ (Answer.plain .done) (permitted_clearEvents port) rfl)

theorem answered_events (s : State) (port : Port) (i : Instr) (st : Status) (data : List Byte) :
    (s.answered port i st data).events = s.events := rfl

/-! ### The first event -/

/-- R187: an entry's number is the total count after the event was counted. -/
theorem entryOf_number_of_total_zero {s : State} (htotal : s.events.total = 0) (r : EventReport) :
    (s.entryOf r).number = 1 := by
  change satAdd Config.maxWord s.events.total 1 = 1
  rw [htotal, satAdd_below _ _ _ (by decide)]

/-- R187, R191: in an empty table whose total count is 0 the next event is number 1 and the only one held. -/
theorem logEvent_numbers_of_empty {s : State} (hentries : s.events.entries = []) (htotal : s.events.total = 0)
    (r : EventReport) : (logEvent s r).events.entries.map EventEntry.number = [1] := by
  have hroom : s.events.entries.length < Config.eventCapacity := by
    rw [hentries]
    decide
  rw [logEvent_entries_room s r hroom, hentries, List.nil_append, List.map_singleton,
    entryOf_number_of_total_zero htotal]

/-- Settles O51: the request is carried out on every port, and the table it leaves is empty with a total count of 0. -/
theorem clearEventsEmptiesTheTable : Obligations.ClearEventsEmptiesTheTable := by
  intro port s
  refine ⟨exec_clearEvents port s, fun t r h => ?_⟩
  rw [exec_clearEvents] at h
  cases h
  apply logEvent_numbers_of_empty <;> rw [answered_events]

end Sys2Proof.Proofs
end

section
/-! PROOFS. What one step can do: the effects of the commands, one constructor each with the guards under which it
happens, and what a law must keep so that every step keeps it. -/

namespace Sys2Proof.Proofs

open Sys2Proof Sys2Proof.Machine

/-! ### What the laws speak of -/

/-- The part of a state that the laws of Safety.lean speak of: LE and the reach indication, the session with the run
sequence counter, and the blocks. The other counters and levels, the sensors, the stop latch, the clear-armed flags, the
ports and the waiting commands stand at fixed values. -/
def lawPart (s : State) : State :=
  { s with
    wpu := { Wpu.afterReset ⟨false, false⟩ ⟨false, false⟩ ⟨false, false⟩ with le := s.wpu.le, reach := s.wpu.reach }
    sc := { s.sc with stopLatch := false, clearArmed := ⟨false, false, false⟩ }
    ports := ⟨PortState.afterReset, PortState.afterReset, PortState.afterReset⟩
    pending := [] }

/-- A property that says nothing of what `lawPart` leaves out. -/
def OfLawPart (P : State → Prop) : Prop := ∀ s, P (lawPart s) ↔ P s

theorem OfLawPart.iff {P : State → Prop} (h : OfLawPart P) {s t : State} (hst : lawPart s = lawPart t) : P s ↔ P t := by
  rw [← h s, hst, h t]

theorem OfLawPart.and {P Q : State → Prop} (hP : OfLawPart P) (hQ : OfLawPart Q) : OfLawPart fun s => P s ∧ Q s :=
  fun s => and_congr (hP s) (hQ s)

/-- The part that the laws speak of, with the waiting commands. -/
def workPart (s : State) : State := { lawPart s with pending := s.pending }

theorem workPart_pending {s t : State} (h : workPart s = workPart t) : s.pending = t.pending := by
  have hpending : (workPart s).pending = (workPart t).pending := by rw [h]
  exact hpending

theorem workPart_law {s t : State} (h : workPart s = workPart t) : lawPart s = lawPart t := by
  have hlaw : lawPart (workPart s) = lawPart (workPart t) := by rw [h]
  exact hlaw

@[simp] theorem workPart_onSensor (s : State) (sensor : Sensor) (f : SensorState → SensorState) :
    workPart (s.onSensor sensor f) = workPart s := by
  cases sensor <;> rfl

@[simp] theorem workPart_onPort (s : State) (port : Port) (f : PortState → PortState) :
    workPart (s.onPort port f) = workPart s := rfl

@[simp] theorem workPart_taken (s : State) (port : Port) (i : Instr) : workPart (s.taken port i) = workPart s := rfl

@[simp] theorem workPart_applyVerdict (s : State) (sensor : Sensor) (prev : Option Capture) (v : MarkVerdict) :
    workPart (applyVerdict s sensor prev v) = workPart s := by
  cases v
  case taken => rfl
  all_goals exact workPart_onSensor s sensor _

/-! ### The effects -/

/-- The effects that act on a whole block: a device reset, an edge of the line encoder, the end of the outstanding cut,
what the store does, CLEAR LINE, LOAD RECIPE, START RUN and CLEAR EVENTS. -/
inductive Direct (s : State) : State → Prop where
  | reset (cause : ResetCause) (landed : Bool) : Direct s (s.afterDeviceReset cause landed)
  | lineEdge (w : Wpu) : w.reach = s.wpu.reach → Direct s (knifeCompare { s with wpu := w })
  | acknowledge (o : Outstanding) : s.ks.outstanding = some o → Direct s (acknowledgeCut s o)
  | timeout (o : Outstanding) : s.ks.outstanding = some o → Direct s (failCut s o)
  | suspend (w : StoreWrite) : s.ps.op = .writing w true → Direct s { s with ps := s.ps.startSeries false (some w) }
  | writeEnd (w : StoreWrite) (suspending agrees : Bool) : s.ps.op = .writing w suspending →
      Direct s (endWrite s w suspending agrees)
  | attemptEnd (c : CommitSeries) (held : Option StoreWrite) (agrees : Bool) :
      s.ps.op.series? = some c → s.ps.op.write? = held → Direct s (endAttempt s c held agrees)
  | resume : Direct s { s with ps := s.ps.retryPending }
  | clear (run : RunState) (r : Recipe) : s.sc.session = .loaded run r → Direct s (clearNow s r)
  | load (i : Fin 8) (r : Recipe) : s.sc.session.inRun = false → s.ps.validity = .valid → s.ps.op = .idle →
      s.ps.array.slot i = some r → Direct s (loadNow s r)
  | startRun (r : Recipe) : s.sc.session = .loaded .armed r → s.webClear = true → Direct s (startRunNow s r)
  | writeRecipe (i : Fin 8) (port : Port) (image : RecipeImage) : structuralOk image = true → s.ps.op = .idle →
      Direct s { s with ps := s.ps.startWrite ⟨port, .recipe i (clampedRecipe image), recipeWasClamped image⟩ }
  | writeSetup (port : Port) (args : SetupArgs) (g : GroupActions) : s.ps.op = .idle →
      Direct s (takeSetup s port args g)
  | seed (batch roll : Nat) : s.ps.validity = .invalid → batch ≤ Config.maxBatchCode → roll ≤ Config.maxWord →
      s.ps.op = .idle →
      Direct s { s with ps := { s.ps with reserved := some ⟨batch, roll⟩ }.startSeries true none }
  | clearEvents : Direct s { s with events := ⟨[], 0, 0, StationRefs.clear, false⟩ }

/-- Everything that one command can do to the blocks, with the guards under which it does it. -/
inductive Effect (s : State) : State → Prop where
  | idle : Effect s s
  | event (e : EventReport) : Effect s (logEvent s e)
  | record (r : Recipe) (prev : Option Capture) (c : Word) : s.sc.session = .loaded .running r →
      s.rt.queue.length < Config.queueCapacity → s.sc.seqSpent = false → Effect s (createRecord s r prev c)
  | embossSeek (r : Recipe) (k : RepeatRecord) (rest : List RepeatRecord) (le : Word) (ca : Angle) :
      s.sc.session.inRun = true → s.sc.session.recipe? = some r → s.awaitingRecords = k :: rest →
      s.rt.emboss.mode = .seeking → Effect s (embossSeek s r k le ca)
  | embossMatch (r : Recipe) (k : RepeatRecord) (rest : List RepeatRecord) (le : Word) (ca : Angle) (m : Nat) :
      s.sc.session.inRun = true → s.sc.session.recipe? = some r → s.awaitingRecords = k :: rest →
      s.rt.emboss.mode = .sync → Effect s (embossMatch s r k le ca m)
  | embossSkip (r : Recipe) (k n : RepeatRecord) (rest : List RepeatRecord) (le : Word) (ca : Angle) :
      s.sc.session.inRun = true → s.sc.session.recipe? = some r → s.awaitingRecords = k :: n :: rest →
      s.rt.emboss.mode = .sync → Effect s (embossSkip s r k n le ca)
  | embossLose (k : RepeatRecord) (rest : List RepeatRecord) (le : Word) (m : Nat) :
      s.sc.session.inRun = true → s.awaitingRecords = k :: rest → s.rt.emboss.mode = .sync →
      Effect s (embossLose s k le m)
  | embossLost (k : RepeatRecord) (rest : List RepeatRecord) (le : Word) (plausible : Bool) :
      s.sc.session.inRun = true → s.awaitingRecords = k :: rest → s.rt.emboss.mode = .lost →
      Effect s (embossLost s k le plausible)
  | knifeSeek (r : Recipe) (k : RepeatRecord) (rest : List RepeatRecord) (c : Word) :
      s.sc.session.inRun = true → s.sc.session.recipe? = some r → s.rt.queue = k :: rest → Effect s (knifeSeek s r k c)
  | knifeMatch (r : Recipe) (k : RepeatRecord) (rest : List RepeatRecord) (c : Word) :
      s.sc.session.inRun = true → s.sc.session.recipe? = some r → s.rt.queue = k :: rest → Effect s (knifeMatch s r k c)
  | knifeSkip (r : Recipe) (k n : RepeatRecord) (rest : List RepeatRecord) (c : Word) :
      s.sc.session.inRun = true → s.sc.session.recipe? = some r → s.rt.queue = k :: n :: rest →
      Effect s (knifeSkip s r k n c)
  | knifeLose (r : Recipe) (k : RepeatRecord) (rest : List RepeatRecord) (c : Word) (m : Nat) :
      s.sc.session.inRun = true → s.sc.session.recipe? = some r → s.rt.queue = k :: rest →
      Effect s (knifeLose s r k c m)
  | knifeLost (r : Recipe) (k : RepeatRecord) (rest : List RepeatRecord) (c : Word) (plausible : Bool) :
      s.sc.session.inRun = true → s.sc.session.recipe? = some r → s.rt.queue = k :: rest →
      Effect s (knifeLost s r k c plausible)
  | splice : Effect s (flagTail s)
  | periodEnd : Effect s { s with erc := { s.erc with appliedDuty := s.erc.pendingDuty } }
  | endRun (r : Recipe) : s.sc.session = .loaded .running r → Effect s (drainTest (s.enter .draining r))
  | flush (r : Recipe) : s.sc.session = .loaded .draining r → Effect s (flushNow s r)
  | defect (seq : Nat) (d : Defect) : Effect s (s.updateRecord seq fun k => k.addDefect d)
  | reading (r : Recipe) (seq : Nat) (k : RepeatRecord) (x : Lab) : s.sc.session.inRun = true →
      s.sc.session.recipe? = some r → s.findRecord seq = some k → k.reading = none →
      Effect s (takeReading s r seq x).1
  | handLabel (n : Nat) (rest : List Nat) : s.ld.outstanding = none → s.ld.order = n :: rest →
      s.ld.headReady = true → Effect s { s with ld := { s.ld with outstanding := some n } }
  | labelDone (n : Nat) (x : Roll) : s.ld.outstanding = some n → s.findRoll n = some x → Effect s (removeLabelled s x)
  | accept (n : Nat) (x : Roll) : s.findRoll n = some x → x.state = .held → Effect s (acceptRoll s x.serial)
  | void (n : Nat) (x : Roll) : s.findRoll n = some x → x.state = .held → Effect s (voidRoll s x)
  | direct (t : State) : Direct s t → Effect s t

/-- One command's doing: an effect, up to what the laws do not speak of, the waiting commands kept as the effect keeps
them. -/
def Moves (s t : State) : Prop := ∃ s' u, workPart s' = workPart s ∧ Effect s' u ∧ workPart t = workPart u

theorem Moves.of_effect {s t : State} (h : Effect s t) : Moves s t := ⟨s, t, rfl, h, rfl⟩

theorem Moves.of_direct {s t : State} (h : Direct s t) : Moves s t := .of_effect (.direct t h)

theorem Moves.of_same {s t : State} (h : workPart t = workPart s) : Moves s t := ⟨s, s, rfl, .idle, h⟩

/-! ### Requests -/

/-- A request moves as its own effect does. -/
theorem takeRequest_moves {body : State → State × Answer} (h : ∀ u, Moves u (body u).1) (port : Port) (i : Instr)
    (s : State) : Moves s (takeRequest port i s body) := by
  refine takeRequest_cases port i s body _ ?_ (Moves.of_same rfl)
  obtain ⟨s', u, hs, he, ht⟩ := h (s.taken port i)
  exact ⟨s', u, hs, he, ht⟩

theorem loadRecipeBody_moves (slot : Nat) (u : State) : Moves u (loadRecipeBody slot u).1 := by
  have hload : u.sc.session.inRun = false → Moves u (loadSlot slot u).1 := by
    intro hrun
    unfold loadSlot
    split
    · exact .of_same rfl
    · split_ifs with hv hi
      · exact .of_same rfl
      · exact .of_same rfl
      · have hvalid : u.ps.validity = .valid := by
          cases hu : u.ps.validity
          · rfl
          · exact absurd hu hv
        have hidle : u.ps.op = .idle := by simpa [PersistentStore.isIdle] using hi
        split
        · exact .of_same rfl
        · next r hr => exact .of_direct (.load _ r hrun hvalid hidle hr)
  unfold loadRecipeBody
  cases hs : u.sc.session with
  | unloaded => exact hload (by rw [hs]; rfl)
  | loaded run r =>
    cases run with
    | armed => exact hload (by rw [hs]; rfl)
    | running => exact .of_same rfl
    | draining => exact .of_same rfl

theorem startRunBody_moves (u : State) : Moves u (startRunBody u).1 := by
  unfold startRunBody
  split
  · split_ifs with hw
    · exact .of_direct (.startRun _ ‹_› hw)
    · exact .of_same rfl
  all_goals exact .of_same rfl

theorem endRunBody_moves (u : State) : Moves u (endRunBody u).1 := by
  unfold endRunBody
  split
  · exact .of_effect (.endRun _ ‹_›)
  all_goals exact .of_same rfl

theorem flushRunBody_moves (u : State) : Moves u (flushRunBody u).1 := by
  unfold flushRunBody
  split
  · exact .of_effect (.flush _ ‹_›)
  all_goals exact .of_same rfl

theorem clearLineBody_moves (armed : Bool) (u : State) : Moves u (clearLineBody armed u).1 := by
  unfold clearLineBody
  split_ifs
  · exact .of_same rfl
  · split
    · exact .of_same rfl
    · exact .of_direct (.clear _ _ ‹_›)

theorem writeRecipeBody_moves (port : Port) (image : RecipeImage) (u : State) :
    Moves u (writeRecipeBody port image u).1 := by
  unfold writeRecipeBody
  split
  · exact .of_same rfl
  · split_ifs with ho hi
    · exact .of_same rfl
    · exact .of_same rfl
    · exact .of_direct (.writeRecipe _ port image (by simpa using ho) (by simpa [PersistentStore.isIdle] using hi))

theorem writeSetupBody_moves (port : Port) (args : SetupArgs) (u : State) :
    Moves u (writeSetupBody port args u).1 := by
  unfold writeSetupBody
  split
  · exact .of_same rfl
  · exact .of_same rfl
  all_goals
    split
    · exact .of_same rfl
    · split_ifs with hi
      · exact .of_same rfl
      · exact .of_direct (.writeSetup port args _ (by simpa [PersistentStore.isIdle] using hi))

theorem seedCountersBody_moves (batch roll : BitVec 32) (u : State) :
    Moves u (seedCountersBody batch.toNat roll.toNat u).1 := by
  unfold seedCountersBody
  split_ifs with hv hb hi
  · exact .of_same rfl
  · exact .of_same rfl
  · exact .of_same rfl
  · have hinvalid : u.ps.validity = .invalid := by
      cases hu : u.ps.validity
      · exact absurd hu hv
      · rfl
    have hroll : roll.toNat ≤ Config.maxWord := Nat.le_of_lt_succ roll.isLt
    exact .of_direct (.seed _ _ hinvalid (Nat.le_of_not_lt hb) hroll (by simpa [PersistentStore.isIdle] using hi))

theorem reportDefectBody_moves (seq : Nat) (kind severity : Byte) (cross : BitVec 16) (u : State) :
    Moves u (reportDefectBody seq kind severity cross u).1 := by
  unfold reportDefectBody
  split
  · exact .of_same rfl
  · split
    · exact .of_same rfl
    · exact .of_effect (.defect _ _)

theorem shadeRecord_moves (r : Recipe) (seq : Nat) (x : Lab) (u : State) (hrun : u.sc.session.inRun = true)
    (hr : u.sc.session.recipe? = some r) : Moves u (shadeRecord u r seq x).1 := by
  unfold shadeRecord
  split
  · exact .of_same rfl
  · split
    · next k hk =>
      split_ifs with hx
      · exact .of_same rfl
      · exact .of_effect (.reading r seq k x hrun hr hk (by simpa using hx))
    · exact .of_same rfl

theorem shadeReportBody_moves (seq : Nat) (l a b : BitVec 16) (u : State) :
    Moves u (shadeReportBody seq l a b u).1 := by
  unfold shadeReportBody
  split
  · exact .of_same rfl
  · exact .of_same rfl
  all_goals
    next r hs =>
    split
    · exact .of_same rfl
    · exact shadeRecord_moves r seq _ u (by rw [hs]; rfl) (by rw [hs]; rfl)

theorem getLabelBody_moves (u : State) : Moves u (getLabelBody u).1 := by
  unfold getLabelBody
  split
  · exact .of_same rfl
  · next ho =>
    split
    · exact .of_same rfl
    · next n rest hn =>
      split_ifs with hr
      · exact .of_same rfl
      · exact .of_effect (.handLabel n rest ho hn (by simpa using hr))

theorem labelDoneBody_moves (serial : Nat) (u : State) : Moves u (labelDoneBody serial u).1 := by
  unfold labelDoneBody
  split_ifs
  · exact .of_same rfl
  · split
    · exact .of_same rfl
    · next n ho =>
      split_ifs with hn
      · exact .of_same rfl
      · obtain rfl : serial = n := not_not.mp hn
        split
        · next x hx => exact .of_effect (.labelDone _ x ho hx)
        · exact .of_same rfl

theorem rollDispositionBody_moves (serial : Nat) (decision : Byte) (u : State) :
    Moves u (rollDispositionBody serial decision u).1 := by
  unfold rollDispositionBody
  split
  · exact .of_same rfl
  · next d _ =>
    split_ifs
    · exact .of_same rfl
    · split
      · exact .of_same rfl
      · next x hx =>
        unfold disposeRoll
        split_ifs with hh
        · exact .of_same rfl
        · have hheld : x.state = .held := not_not.mp hh
          cases d with
          | accept => exact .of_effect (.accept _ x hx hheld)
          | void => exact .of_effect (.void _ x hx hheld)

/-! ### Marks -/

theorem deliverPrint_effect (s : State) (r : Recipe) (prev : Option Capture) (c : Word)
    (hs : s.sc.session = .loaded .running r) : Effect s (deliverPrint s r prev c).1 := by
  unfold deliverPrint
  split_ifs with hq hspent
  · exact .event _
  · exact .idle
  · exact .record r prev c hs (Nat.lt_of_not_le hq) (by simpa using hspent)

theorem embossOff_effect (s : State) (r : Recipe) (k : RepeatRecord) (rest : List RepeatRecord) (le : Word) (ca : Angle)
    (m : Nat) (hrun : s.sc.session.inRun = true) (hr : s.sc.session.recipe? = some r)
    (hk : s.awaitingRecords = k :: rest) (hm : s.rt.emboss.mode = .sync) :
    Effect s (embossOff s r k rest.head? le ca m).1 := by
  unfold embossOff
  dsimp only
  split_ifs
  · exact .event _
  · cases rest with
    | nil => exact .embossLose k _ le m hrun hk hm
    | cons n rest =>
      dsimp only [List.head?_cons]
      split_ifs
      · exact .embossSkip r k n rest le ca hrun hr hk hm
      · exact .embossLose k _ le m hrun hk hm

theorem deliverEmboss_effect (s : State) (r : Recipe) (prev : Option Capture) (le : Word) (ca : Angle)
    (hrun : s.sc.session.inRun = true) (hr : s.sc.session.recipe? = some r) :
    Effect s (deliverEmboss s r prev le ca).1 := by
  unfold deliverEmboss
  split
  · exact .idle
  · next k rest hk =>
    dsimp only
    split
    · next hm => exact .embossSeek r k rest le ca hrun hr hk hm
    · next hm =>
      split_ifs
      · exact .embossMatch r k rest le ca _ hrun hr hk hm
      · exact embossOff_effect s r k rest le ca _ hrun hr hk hm
    · next hm => exact .embossLost k rest le _ hrun hk hm

theorem knifeOff_effect (s : State) (r : Recipe) (k : RepeatRecord) (rest : List RepeatRecord) (c : Word) (m : Nat)
    (hrun : s.sc.session.inRun = true) (hr : s.sc.session.recipe? = some r) (hk : s.rt.queue = k :: rest) :
    Effect s (knifeOff s r k rest.head? c m).1 := by
  unfold knifeOff
  dsimp only
  split_ifs
  · exact .event _
  · cases rest with
    | nil => exact .knifeLose r k _ c m hrun hr hk
    | cons n rest =>
      dsimp only [List.head?_cons]
      split_ifs
      · exact .knifeSkip r k n rest c hrun hr hk
      · exact .knifeLose r k _ c m hrun hr hk

theorem deliverCut_effect (s : State) (r : Recipe) (prev : Option Capture) (c : Word)
    (hrun : s.sc.session.inRun = true) (hr : s.sc.session.recipe? = some r) :
    Effect s (deliverCut s r prev c).1 := by
  unfold deliverCut
  split
  · exact .idle
  · next k rest hk =>
    dsimp only
    split
    · exact .knifeSeek r k rest c hrun hr hk
    · split_ifs
      · exact .knifeMatch r k rest c hrun hr hk
      · exact knifeOff_effect s r k rest c _ hrun hr hk
    · exact .knifeLost r k rest c _ hrun hr hk

theorem deliver_effect (s : State) (sensor : Sensor) (run : RunState) (r : Recipe) (prev : Option Capture)
    (hs : s.sc.session = .loaded run r) : Effect s (deliver s sensor run r prev).1 := by
  have hr : s.sc.session.recipe? = some r := by rw [hs]; rfl
  cases run with
  | armed => exact .idle
  | running =>
    have hrun : s.sc.session.inRun = true := by rw [hs]; rfl
    cases sensor with
    | pm => exact deliverPrint_effect s r prev _ hs
    | em => exact deliverEmboss_effect s r prev _ _ hrun hr
    | cm => exact deliverCut_effect s r prev _ hrun hr
  | draining =>
    have hrun : s.sc.session.inRun = true := by rw [hs]; rfl
    cases sensor with
    | pm => exact .idle
    | em => exact deliverEmboss_effect s r prev _ _ hrun hr
    | cm => exact deliverCut_effect s r prev _ hrun hr

theorem capture_moves (s : State) (sensor : Sensor) : Moves s (capture s sensor) := by
  unfold capture
  split
  · exact .of_same (workPart_onSensor _ _ _)
  · next run r hs =>
    split_ifs
    · exact ⟨s.onSensor sensor fun x => { x with last := some (s.wpu.captureOf sensor) }, _, workPart_onSensor s sensor _,
        deliver_effect _ sensor run r _ hs, workPart_applyVerdict _ sensor _ _⟩
    · exact .of_same (workPart_onSensor _ _ _)

/-! ### Every command -/

theorem countLe_moves (s : State) (new : Quad) : Moves s (countLe s new) := by
  unfold countLe
  split
  · exact .of_direct (.lineEdge _ rfl)
  · exact .of_same rfl

theorem slipCheck_moves (s : State) : Moves s { slipCheck s with wpu := { (slipCheck s).wpu with ca := 0 } } := by
  unfold slipCheck
  split_ifs
  · exact ⟨s, _, rfl, .event _, rfl⟩
  · exact .of_same rfl

/-- Every command but BAD_FRAME moves. -/
theorem exec_moves_of_ne (c : Instr) (s t : State) (hc : ∀ p f, c ≠ .badFrame p f) (h : exec c s = .next t) :
    Moves s t := by
  cases c with
  | deviceReset cause landed => cases h; exact .of_direct (.reset cause landed)
  | encoderCount encoder a b =>
    cases encoder with
    | pe =>
      cases h
      unfold countPe
      split <;> exact .of_same rfl
    | le => cases h; exact countLe_moves s _
  | caCount a b =>
    cases h
    unfold countCa
    split <;> exact .of_same rfl
  | caIndex => cases h; exact slipCheck_moves s
  | markCapture sensor => cases h; exact capture_moves s sensor
  | splice => cases h; exact ⟨s, flagTail s, rfl, .splice, rfl⟩
  | knifeAck =>
    change execKnifeAck s = .next t at h
    unfold execKnifeAck at h
    split at h
    · next o ho => cases h; exact .of_direct (.acknowledge o ho)
    · cases h; exact .of_effect (.event _)
  | knifeTimeout =>
    change execKnifeTimeout s = .next t at h
    unfold execKnifeTimeout at h
    split at h
    · next o ho => cases h; exact .of_direct (.timeout o ho)
    · cases h; exact .of_same rfl
  | pwmPeriodEnd => cases h; exact .of_effect .periodEnd
  | writeSuspend =>
    change execWriteSuspend s = .next t at h
    unfold execWriteSuspend at h
    split at h
    · next w hw => cases h; exact .of_direct (.suspend w hw)
    all_goals cases h; exact .of_same rfl
  | storeWriteEnd agrees =>
    change execStoreWriteEnd agrees s = .next t at h
    unfold execStoreWriteEnd at h
    split at h
    · next w b hw => cases h; exact .of_direct (.writeEnd w b agrees hw)
    all_goals cases h; exact .of_same rfl
  | commitAttemptEnd agrees =>
    change execCommitAttemptEnd agrees s = .next t at h
    unfold execCommitAttemptEnd at h
    split at h
    · next c hc => cases h; exact .of_direct (.attemptEnd c none agrees (by rw [hc]; rfl) (by rw [hc]; rfl))
    · next c w hc => cases h; exact .of_direct (.attemptEnd c (some w) agrees (by rw [hc]; rfl) (by rw [hc]; rfl))
    all_goals cases h; exact .of_same rfl
  | readStatus port clocked => cases h; exact .of_same rfl
  | fetchReply port clocked =>
    change execFetchReply port clocked s = .next t at h
    unfold execFetchReply at h
    split at h <;> cases h <;> exact .of_same rfl
  | badFrame port frame => exact absurd rfl (hc port frame)
  | setNotices port n => cases h; exact takeRequest_moves (fun u => .of_same rfl) port _ s
  | ackNotices port n => cases h; exact takeRequest_moves (fun u => .of_same rfl) port _ s
  | resumeLine port =>
    cases h
    exact takeRequest_moves (fun u => ⟨u, _, rfl, .direct _ .resume, rfl⟩) port _ s
  | clearArm port => cases h; exact takeRequest_moves (fun u => .of_same rfl) port _ s
  | clearLine port => cases h; exact takeRequest_moves (clearLineBody_moves _) port _ s
  | loadRecipe port slot => cases h; exact takeRequest_moves (loadRecipeBody_moves _) port _ s
  | startRun port => cases h; exact takeRequest_moves startRunBody_moves port _ s
  | endRun port => cases h; exact takeRequest_moves endRunBody_moves port _ s
  | flushRun port => cases h; exact takeRequest_moves flushRunBody_moves port _ s
  | writeRecipe port image => cases h; exact takeRequest_moves (writeRecipeBody_moves port image) port _ s
  | readRecipe port slot => cases h; exact takeRequest_moves (fun u => .of_same rfl) port _ s
  | writeSetup port args => cases h; exact takeRequest_moves (writeSetupBody_moves port args) port _ s
  | readSetup port => cases h; exact takeRequest_moves (fun u => .of_same rfl) port _ s
  | seedCounters port b r => cases h; exact takeRequest_moves (seedCountersBody_moves b r) port _ s
  | readCounters port => cases h; exact takeRequest_moves (fun u => .of_same rfl) port _ s
  | reportDefect port seq kind sev cross =>
    cases h
    exact takeRequest_moves (reportDefectBody_moves _ kind sev cross) port _ s
  | shadeReport port seq l a b => cases h; exact takeRequest_moves (shadeReportBody_moves _ l a b) port _ s
  | readRepeat port seq => cases h; exact takeRequest_moves (fun u => .of_same rfl) port _ s
  | readRoll port serial => cases h; exact takeRequest_moves (fun u => .of_same rfl) port _ s
  | readBatch port code => cases h; exact takeRequest_moves (fun u => .of_same rfl) port _ s
  | getLabel port => cases h; exact takeRequest_moves getLabelBody_moves port _ s
  | labelDone port serial => cases h; exact takeRequest_moves (labelDoneBody_moves _) port _ s
  | rollDisposition port serial d => cases h; exact takeRequest_moves (rollDispositionBody_moves _ d) port _ s
  | readEvents port start => cases h; exact takeRequest_moves (fun u => .of_same rfl) port _ s
  | clearEvents port => cases h; exact takeRequest_moves (fun u => .of_direct .clearEvents) port _ s

/-- A well-formed frame does what its request does, or nothing. -/
theorem requestMeaning_moves (i : Instr) (s t : State) (h : requestMeaning i s = .next t) : Moves s t := by
  by_cases hi : ∃ p f, i = .badFrame p f
  · obtain ⟨p, f, rfl⟩ := hi
    cases h
    exact .of_same rfl
  · have hne : ∀ p f, i ≠ .badFrame p f := fun p f hif => hi ⟨p, f, hif⟩
    have hcases : requestMeaning i s = exec i s ∨ requestMeaning i s = .next s := by
      cases i
      all_goals first | exact .inl rfl | exact .inr rfl
    rcases hcases with hexec | hnone
    · exact exec_moves_of_ne i s t hne (hexec ▸ h)
    · rw [hnone] at h
      cases h
      exact .of_same rfl

theorem exec_moves (c : Instr) (s t : State) (h : exec c s = .next t) : Moves s t := by
  by_cases hc : ∃ p f, c = .badFrame p f
  · obtain ⟨p, f, rfl⟩ := hc
    change execBadFrame p f s = .next t at h
    unfold execBadFrame at h
    split_ifs at h
    · cases h; exact .of_same rfl
    · cases h; exact .of_same rfl
    · split at h
      · exact requestMeaning_moves _ s t h
      · cases h; exact .of_same rfl
  · exact exec_moves_of_ne c s t (fun p f hcf => hc ⟨p, f, hcf⟩) h

/-- A law Q holds after every step from a state of law P, when every effect leads from P to Q. -/
theorem step_leads {P Q : State → Prop} (hP : OfLawPart P) (hQ : OfLawPart Q) (h : ∀ s t, P s → Effect s t → Q t)
    (s t : State) (hs : P s) (hst : step s = .next t) : Q t := by
  unfold step at hst
  split at hst
  · cases hst
    exact h s s hs .idle
  · obtain ⟨s', u, hs', he, ht⟩ := exec_moves _ _ _ hst
    have hsame : lawPart s' = lawPart s := (workPart_law hs').trans rfl
    exact (hQ.iff (workPart_law ht)).mpr (h s' u ((hP.iff hsame).mpr hs) he)

theorem keptByStep_of_effects {P : State → Prop} (hP : OfLawPart P) (h : ∀ s t, P s → Effect s t → P t) :
    KeptByStep P :=
  step_leads hP hP h

end Sys2Proof.Proofs
end

section
/-! PROOFS. The laws of the Emboss Register Controller, kept by every step. -/

namespace Sys2Proof.Proofs

open Sys2Proof Sys2Proof.Machine

/-! ### What hand-overs and drain completion do to the tracker and the session -/

/-- R54: of the Repeat Tracker a hand-over changes the queue only, which loses its head. -/
theorem handOver_rt (s : State) (r : Recipe) (k : RepeatRecord) (c : Word) :
    (handOver s r k c).rt = { s.rt with queue := s.rt.queue.tail } := by
  obtain ⟨-, -, -, -, -, hrt⟩ := handed_keeps s r k c
  rw [handOver_eq]
  split <;> simp [hrt]

theorem handOver_session (s : State) (r : Recipe) (k : RepeatRecord) (c : Word) :
    (handOver s r k c).sc.session = s.sc.session := fixedPart_session (by simp)

/-- R24: what drain completion does to the session and the ERC. -/
theorem drainNow_ends (s : State) (r : Recipe) :
    (drainNow s r).sc.session = .loaded .armed r ∧ (drainNow s r).erc = s.erc.switchedOff := by
  refine ⟨rfl, ?_⟩
  simp [drainNow, ercOff_eq]

/-- R24: the drain completion test leaves the state, or completes the drain of an empty web. -/
theorem drainTest_cases (s : State) :
    drainTest s = s ∨ ∃ r, s.sc.session = .loaded .draining r ∧ s.webClear = true ∧ drainTest s = drainNow s r := by
  unfold drainTest
  split
  · next r hs =>
    split_ifs with hw
    · exact .inr ⟨r, hs, hw, rfl⟩
    · exact .inl rfl
  all_goals exact .inl rfl

/-! ### What clears, flushes and the ends of commits leave -/

theorem foldl_keeps {α β γ : Type} (f : α → β → α) (g : α → γ) (hf : ∀ a b, g (f a b) = g a) (l : List β) (a : α) :
    g (l.foldl f a) = g a := by
  induction l generalizing a with
  | nil => rfl
  | cons b l ih => rw [List.foldl_cons, ih, hf]

/-- R28: of a CLEAR LINE's queue the batches lose their queued counts, and the tracker its records and points. -/
theorem clearQueue_frame (s : State) :
    (clearQueue s).rt = { s.rt with queue := [], emboss := ⟨.seeking, 0⟩, knife := ⟨.seeking, 0⟩ } ∧
    (clearQueue s).erc = s.erc ∧ (clearQueue s).rb = s.rb ∧ (clearQueue s).ks = s.ks ∧ (clearQueue s).ld = s.ld ∧
    (clearQueue s).ps = s.ps ∧ (clearQueue s).events = s.events ∧ (clearQueue s).fixedPart = s.fixedPart := by
  have hkeeps : ∀ {γ : Type} (g : State → γ), (∀ t v, g (lowerQueued t v) = g t) →
      g (s.rt.queue.foldl (fun t k => lowerQueued t k.shade) s) = g s := fun g hg =>
    foldl_keeps _ g (fun t (k : RepeatRecord) => hg t k.shade) _ s
  refine ⟨?_, hkeeps State.erc (by simp), hkeeps State.rb (by simp), hkeeps State.ks (by simp), hkeeps State.ld (by simp),
    hkeeps State.ps (by simp), hkeeps State.events (by simp), hkeeps State.fixedPart (by simp)⟩
  have hrt := hkeeps State.rt (by simp)
  simp [clearQueue, hrt]

/-- R28, R136: the rolls in flight leave the table, and their batches count them no more. -/
theorem clearRolls_frame (s : State) :
    (clearRolls s).rb = { s.rb with
      rolls := s.rb.rolls.filter fun x => !x.inFlight, segment := .none, nextDrop := .a, pendingDrop := false } ∧
    (clearRolls s).rt = s.rt ∧ (clearRolls s).erc = s.erc ∧ (clearRolls s).ks = s.ks ∧ (clearRolls s).ld = s.ld ∧
    (clearRolls s).ps = s.ps ∧ (clearRolls s).events = s.events ∧ (clearRolls s).fixedPart = s.fixedPart := by
  have hkeeps : ∀ {γ : Type} (g : State → γ), (∀ t n, g (lowerRolls t n) = g t) →
      g ((s.rb.rolls.filter Roll.inFlight).foldl (fun t x => lowerRolls t x.batch) s) = g s := fun g hg =>
    foldl_keeps _ g (fun t (x : Roll) => hg t x.batch) _ s
  refine ⟨?_, hkeeps State.rt (by simp), hkeeps State.erc (by simp), hkeeps State.ks (by simp), hkeeps State.ld (by simp),
    hkeeps State.ps (by simp), hkeeps State.events (by simp), hkeeps State.fixedPart (by simp)⟩
  have hrb := hkeeps State.rb (by simp)
  simp [clearRolls, hrb]

/-- R25 step 1: of the records that leave at a flush only the queue and the batches tell. -/
theorem foldl_flushRecord_frame (ks : List RepeatRecord) (s : State) :
    (ks.foldl flushRecord s).rt = { s.rt with queue := s.rt.queue.drop ks.length } ∧
    (ks.foldl flushRecord s).erc = s.erc ∧ (ks.foldl flushRecord s).rb = s.rb ∧ (ks.foldl flushRecord s).ks = s.ks ∧
    (ks.foldl flushRecord s).ld = s.ld ∧ (ks.foldl flushRecord s).ps = s.ps ∧
    (ks.foldl flushRecord s).events = s.events := by
  refine ⟨?_, foldl_keeps _ State.erc (by simp [flushRecord]) _ s, foldl_keeps _ State.rb (by simp [flushRecord]) _ s,
    foldl_keeps _ State.ks (by simp [flushRecord]) _ s, foldl_keeps _ State.ld (by simp [flushRecord]) _ s,
    foldl_keeps _ State.ps (by simp [flushRecord]) _ s, foldl_keeps _ State.events (by simp [flushRecord]) _ s⟩
  induction ks generalizing s with
  | nil => rfl
  | cons k ks ih =>
    rw [List.foldl_cons, ih]
    simp [flushRecord]

/-- R182 to R184: the end of a commit attempt is the PS's own, with its notices, its event and the readiness test. -/
theorem endAttempt_frame (s : State) (c : CommitSeries) (held : Option StoreWrite) (agrees : Bool) :
    (endAttempt s c held agrees).rt = s.rt ∧ (endAttempt s c held agrees).erc = s.erc ∧
    (endAttempt s c held agrees).batches = s.batches ∧ (endAttempt s c held agrees).rb = s.rb ∧
    (endAttempt s c held agrees).ks = s.ks ∧ (endAttempt s c held agrees).wpu = s.wpu ∧
    (endAttempt s c held agrees).sc.session = s.sc.session ∧
    (endAttempt s c held agrees).sc.nextSeq = s.sc.nextSeq ∧
    (endAttempt s c held agrees).sc.seqSpent = s.sc.seqSpent := by
  unfold endAttempt
  split_ifs
  · unfold endSuccess postSeed announceRecovery readinessTest
    split_ifs <;> exact ⟨rfl, rfl, rfl, rfl, rfl, rfl, rfl, rfl, rfl⟩
  · unfold endFailure endSeries postSeed
    split_ifs <;> exact ⟨rfl, rfl, rfl, rfl, rfl, rfl, rfl, rfl, rfl⟩

/-! ### A law that speaks of the mode of the ERC, the session and the mode of the emboss point -/

theorem ercSound_ofLawPart : OfLawPart ErcSound := fun _ => Iff.rfl

theorem ercSound_congr {s t : State} (herc : t.erc = s.erc) (hsession : t.sc.session = s.sc.session)
    (hmode : t.rt.emboss.mode = s.rt.emboss.mode) (h : ErcSound s) : ErcSound t := by
  unfold ErcSound ErcFollows at *
  rwa [herc, hsession, hmode]

/-- A step that keeps the session and leaves the point out of LOST, where it was not LOST before. -/
theorem ercSound_of_unlost {s t : State} (herc : t.erc = s.erc) (hsession : t.sc.session = s.sc.session)
    (hs : s.rt.emboss.mode ≠ .lost) (ht : t.rt.emboss.mode ≠ .lost) (h : ErcSound s) : ErcSound t := by
  unfold ErcSound ErcFollows at *
  rw [herc, hsession]
  simpa only [hs, ht] using h

/-- R63: the ERC switched off outside a run. -/
theorem ercSound_of_off {s t : State} (herc : t.erc = s.erc.switchedOff) (hsession : t.sc.session.inRun = false)
    (h : ErcSound s) : ErcSound t := by
  obtain ⟨hrange, -, -⟩ := h
  unfold ErcSound ErcFollows Erc.Tidy Erc.InRange at *
  simp_all [Erc.switchedOff]

/-! ### Taking a record -/

/-- R71, R72: a count keeps the ranges, the runs in their own states, and the ERC in control. -/
theorem count_keeps {c : Erc} (r : Recipe) (e : Int) (hmode : c.mode = .acquire ∨ c.mode = .locked)
    (hrange : c.InRange) (htidy : c.Tidy) :
    (c.count r e).InRange ∧ (c.count r e).Tidy ∧ ((c.count r e).mode = .acquire ∨ (c.count r e).mode = .locked) := by
  unfold Erc.InRange Erc.Tidy at *
  rcases hmode with hmode | hmode
  · simp only [Erc.count, hmode, Erc.countLock]
    split_ifs <;> simp_all
  · simp only [Erc.count, hmode, Erc.countLoss]
    split_ifs <;> simp_all

/-- R74 to R77: the trim law keeps the ranges and leaves runs and state. -/
theorem trim_keeps {c : Erc} (r : Recipe) (e : Int) (hmode : c.mode = .acquire ∨ c.mode = .locked)
    (hrange : c.InRange) (htidy : c.Tidy) : (c.trim r e).InRange ∧ (c.trim r e).Tidy := by
  obtain ⟨-, -, hlo, hhi, -, hduty, hduty', hlock, hloss⟩ := hrange
  obtain ⟨hrunLock, hrunLoss, -⟩ := htidy
  obtain ⟨hout, hout'⟩ := trim_lastOutput_within ⟨hlo, hhi⟩ r e
  have hpending := trim_pendingDuty c r e
  have hint : -8191 ≤ (c.trim r e).integral := clampInt_ge _ _ _
  have hint' : (c.trim r e).integral ≤ 8191 := clampInt_le _ _ _ (by omega)
  refine ⟨⟨hint, hint', hout, hout', ?_, hduty, hduty', hlock, hloss⟩, hrunLock, hrunLoss, fun hoff => ?_⟩
  · rw [hpending]
    omega
  · rw [Erc.trim_mode] at hoff
    rcases hmode with h | h <;> rw [h] at hoff <;> cases hoff

theorem ercTake_session (s : State) (r : Recipe) (seq : Nat) (ca : Angle) :
    (ercTake s r seq ca).sc.session = s.sc.session := fixedPart_session (by simp)

theorem ercTake_emboss (s : State) (r : Recipe) (seq : Nat) (ca : Angle) :
    (ercTake s r seq ca).rt.emboss = s.rt.emboss := by
  unfold ercTake
  dsimp only
  split
  any_goals rfl
  all_goals simp [State.updateRecord]

theorem ercSound_ercTake {s : State} (r : Recipe) (seq : Nat) (ca : Angle) (h : ErcSound s) :
    ErcSound (ercTake s r seq ca) := by
  have hsession := ercTake_session s r seq ca
  have hpoint := ercTake_emboss s r seq ca
  by_cases hcontrol : s.erc.mode = .acquire ∨ s.erc.mode = .locked
  · obtain ⟨hrange, htidy, hfollows⟩ := h
    have herc : (ercTake s r seq ca).erc = (s.erc.count r (embossError r ca)).trim r (embossError r ca) := by
      rw [ercTake_controlling s r seq ca hcontrol]
      simp
    obtain ⟨hrange', htidy', hmode'⟩ := count_keeps r (embossError r ca) hcontrol hrange htidy
    obtain ⟨hrange'', htidy''⟩ := trim_keeps r (embossError r ca) hmode' hrange' htidy'
    unfold ErcSound ErcFollows at *
    rw [herc, hsession, hpoint, Erc.trim_mode]
    refine ⟨hrange'', htidy'', ?_⟩
    rcases hcontrol with hm | hm <;> rcases hmode' with hm' | hm' <;> simpa [hm, hm'] using hfollows
  · refine ercSound_congr ?_ hsession (by rw [hpoint]) h
    unfold ercTake
    dsimp only
    split
    · rfl
    · rfl
    all_goals simp_all

/-! ### Loss and return of the emboss point -/

/-- R66: the point enters LOST, and the ERC goes to HOLD where it controls. -/
theorem ercSound_lose {s t : State} (hs : s.rt.emboss.mode ≠ .lost) (ht : t.rt.emboss.mode = .lost)
    (herc : t.erc = (ercHold s).erc) (hsession : t.sc.session = s.sc.session) (h : ErcSound s) : ErcSound t := by
  obtain ⟨hrange, htidy, hoff, hhold⟩ := h
  unfold ErcSound ErcFollows Erc.InRange Erc.Tidy at *
  rw [herc, hsession, ht]
  unfold ercHold setErc
  cases hm : s.erc.mode <;> simp_all

/-- R67: the point returns to SYNC, and the ERC goes to ACQUIRE where it holds. -/
theorem ercSound_regain {s t : State} (hs : s.rt.emboss.mode = .lost) (ht : t.rt.emboss.mode = .sync)
    (herc : t.erc = (ercReacquire s).erc) (hsession : t.sc.session = s.sc.session) (h : ErcSound s) : ErcSound t := by
  obtain ⟨hrange, htidy, hoff, hhold⟩ := h
  unfold ErcSound ErcFollows Erc.InRange Erc.Tidy at *
  rw [herc, hsession, ht]
  unfold ercReacquire setErc
  cases hm : s.erc.mode <;> simp_all

theorem ercSound_embossLose {s : State} (k : RepeatRecord) (le : Word) (m : Nat) (hm : s.rt.emboss.mode = .sync)
    (h : ErcSound s) : ErcSound (embossLose s k le m) := by
  refine ercSound_lose (by rw [hm]; decide) ?_ ?_ (fixedPart_session (by simp)) h
  · simp [embossLose, State.updateRecord, State.putEmboss]
  · unfold embossLose ercHold
    cases hmode : s.erc.mode <;> simp [hmode, setErc]

theorem ercSound_embossLost {s : State} (k : RepeatRecord) (le : Word) (b : Bool) (hm : s.rt.emboss.mode = .lost)
    (h : ErcSound s) : ErcSound (embossLost s k le b) := by
  have hsession : (embossLost s k le b).sc.session = s.sc.session := fixedPart_session (by simp)
  have hcases : s.rt.emboss.afterLost b = (⟨.sync, 0⟩, true) ∨
      ∃ n, s.rt.emboss.afterLost b = (⟨.lost, n⟩, false) := by
    unfold TrackPoint.afterLost
    split_ifs
    · exact .inl rfl
    · exact .inr ⟨_, rfl⟩
    · exact .inr ⟨_, rfl⟩
  rcases hcases with hp | ⟨n, hp⟩
  · refine ercSound_regain hm ?_ ?_ hsession h
    · simp [embossLost, hp, State.putEmboss]
    · unfold embossLost ercReacquire
      cases hmode : s.erc.mode <;> simp [hp, hmode, setErc]
  · refine ercSound_congr ?_ hsession ?_ h
    · simp [embossLost, hp]
    · simp [embossLost, hp, hm, State.putEmboss]

/-! ### Drain completion, hand-overs and cuts -/

theorem ercSound_drainTest {s : State} (h : ErcSound s) : ErcSound (drainTest s) := by
  rcases drainTest_cases s with hsame | ⟨r, -, -, hnow⟩
  · rwa [hsame]
  · rw [hnow]
    obtain ⟨hsession, herc⟩ := drainNow_ends s r
    exact ercSound_of_off herc (by rw [hsession]; rfl) h

theorem ercSound_handOver {s : State} (r : Recipe) (k : RepeatRecord) (c : Word) (h : ErcSound s) :
    ErcSound (handOver s r k c) :=
  ercSound_congr (by simp) (handOver_session s r k c) (by rw [handOver_rt]) h

theorem ercSound_releaseCut {s : State} (h : ErcSound s) : ErcSound (releaseCut s) :=
  ercSound_drainTest (ercSound_congr (by simp) (fixedPart_session (by simp)) (by simp) h)

/-! ### Every effect -/

theorem ercSound_reset : ErcSound State.reset := by
  unfold ErcSound ErcFollows Erc.InRange Erc.Tidy
  decide

theorem ercSound_clearNow {s : State} (r : Recipe) (h : ErcSound s) : ErcSound (clearNow s r) := by
  refine ercSound_of_off (s := s) ?_ rfl h
  simp [clearNow, ercOff_eq, clearRolls_frame, clearKnife, clearQueue_frame]

theorem ercSound_flushNow {s : State} (r : Recipe) (h : ErcSound s) : ErcSound (flushNow s r) := by
  refine ercSound_of_off (s := s) ?_ rfl h
  simp [flushNow, ercOff_eq, foldl_flushRecord_frame]

theorem ercSound_loadNow {s : State} (r : Recipe) (h : ErcSound s) : ErcSound (loadNow s r) :=
  ercSound_of_off (by simp [loadNow, ercOff_eq]) rfl h

theorem ercSound_endRun {s : State} (r : Recipe) (hs : s.sc.session = .loaded .running r) (h : ErcSound s) :
    ErcSound (drainTest (s.enter .draining r)) := by
  refine ercSound_drainTest ?_
  unfold ErcSound ErcFollows at *
  rw [hs] at h
  exact h

theorem ercSound_startRunNow {s : State} (r : Recipe) (hs : s.sc.session = .loaded .armed r) (h : ErcSound s) :
    ErcSound (startRunNow s r) := by
  obtain ⟨hrange, htidy, hfollows⟩ := h
  have hoff : s.erc.mode = .off := hfollows.1.mpr (by rw [hs]; rfl)
  have herc : (startRunNow s r).erc = (ercStart s r).erc := rfl
  unfold ErcSound ErcFollows Erc.InRange Erc.Tidy at *
  rw [herc]
  unfold ercStart setErc
  cases hr : r.emboss <;> simp_all [startRunNow, Session.inRun, Session.embossed, State.enter]

theorem ercSound_effect (s t : State) (h : ErcSound s) (he : Effect s t) : ErcSound t := by
  cases he with
  | idle => exact h
  | event e => exact ercSound_congr (by simp) rfl (by simp) h
  | record r prev c _ _ _ =>
    refine ercSound_congr (s := s) rfl ?_ rfl h
    change (s.sc.advanceSeq).session = s.sc.session
    unfold SessionControl.advanceSeq
    split_ifs <;> rfl
  | embossSeek r k rest le ca _ _ _ hm =>
    exact ercSound_ercTake r k.seq ca
      (ercSound_of_unlost (s := s) rfl rfl (by rw [hm]; decide) (by simp [State.putEmboss]) h)
  | embossMatch r k rest le ca m _ _ _ _ => exact ercSound_ercTake r k.seq ca (ercSound_congr (s := s) rfl rfl rfl h)
  | embossSkip r k n rest le ca _ _ _ _ => exact ercSound_ercTake r n.seq ca (ercSound_congr (s := s) rfl rfl rfl h)
  | embossLose k rest le m _ _ hm => exact ercSound_embossLose k le m hm h
  | embossLost k rest le b _ _ hm => exact ercSound_embossLost k le b hm h
  | knifeSeek r k rest c _ _ _ => exact ercSound_drainTest (ercSound_handOver r k c (ercSound_congr (s := s) rfl rfl rfl h))
  | knifeMatch r k rest c _ _ _ => exact ercSound_drainTest (ercSound_handOver r k c h)
  | knifeSkip r k n rest c _ _ _ =>
    exact ercSound_drainTest (ercSound_handOver r n c (ercSound_handOver r _ _ (ercSound_congr (s := s) rfl rfl rfl h)))
  | knifeLose r k rest c m _ _ _ =>
    exact ercSound_drainTest (ercSound_handOver r _ c
      (ercSound_congr (s := s) (by simp) (fixedPart_session (by simp)) (by simp [State.putKnife]) h))
  | knifeLost r k rest c b _ _ _ =>
    have hdrained : ErcSound (drainTest (handOver (s.putKnife (s.rt.knife.afterLost b).1) r
        { k with untrackedAtKnife := true } c)) :=
      ercSound_drainTest (ercSound_handOver r _ c (ercSound_congr (s := s) rfl rfl rfl h))
    unfold knifeLost
    dsimp only
    split_ifs
    · exact ercSound_congr rfl rfl rfl hdrained
    · exact hdrained
  | splice => exact ercSound_congr (by simp) (fixedPart_session (by simp)) (by unfold flagTail; split <;> rfl) h
  | periodEnd =>
    obtain ⟨⟨hint, hint', hout, hout', hduty, -, -, hlock, hloss⟩, htidy, hfollows⟩ := h
    exact ⟨⟨hint, hint', hout, hout', hduty, by dsimp only; omega, by dsimp only; omega, hlock, hloss⟩, htidy, hfollows⟩
  | endRun r hs => exact ercSound_endRun r hs h
  | flush r _ => exact ercSound_flushNow r h
  | defect seq d => exact ercSound_congr rfl rfl rfl h
  | reading r seq k x _ _ _ _ =>
    exact ercSound_congr (by simp [takeReading]) (fixedPart_session (takeReading_fixedPart ..))
      (by simp [takeReading, State.updateRecord]) h
  | handLabel n rest _ _ _ => exact ercSound_congr rfl rfl rfl h
  | labelDone n x _ _ =>
    exact ercSound_congr (by simp [removeLabelled]) (fixedPart_session (removeLabelled_fixedPart ..))
      (by simp [removeLabelled]) h
  | accept n x _ _ =>
    exact ercSound_congr (by simp [acceptRoll]) (fixedPart_session (acceptRoll_fixedPart ..)) (by simp [acceptRoll]) h
  | void n x _ _ =>
    exact ercSound_congr (by simp [voidRoll]) (fixedPart_session (voidRoll_fixedPart ..)) (by simp [voidRoll]) h
  | direct _ hd =>
    cases hd with
    | reset cause landed => exact ercSound_congr (s := State.reset) rfl rfl rfl ercSound_reset
    | lineEdge w _ =>
      have hsession : (knifeCompare { s with wpu := w }).sc.session = ({ s with wpu := w } : State).sc.session :=
        fixedPart_session (by simp)
      exact ercSound_congr (by simp) hsession (by simp) h
    | acknowledge o _ =>
      refine ercSound_releaseCut ?_
      split_ifs <;> exact ercSound_congr (by simp [answerCut]) (fixedPart_session (by simp; rfl)) (by simp [answerCut]) h
    | timeout o _ =>
      exact ercSound_releaseCut
        (ercSound_congr (by simp [answerCut]) (fixedPart_session (by simp; rfl)) (by simp [answerCut]) h)
    | suspend w _ => exact ercSound_congr rfl rfl rfl h
    | writeEnd w suspending agrees _ =>
      unfold endWrite
      split_ifs <;> exact ercSound_congr rfl rfl rfl h
    | attemptEnd c held agrees _ _ =>
      obtain ⟨hrt, herc, -, -, -, -, hsession, -⟩ := endAttempt_frame s c held agrees
      exact ercSound_congr herc hsession (by rw [hrt]) h
    | resume => exact ercSound_congr rfl rfl rfl h
    | clear run r _ => exact ercSound_clearNow r h
    | load i r _ _ _ _ => exact ercSound_loadNow r h
    | startRun r hs _ => exact ercSound_startRunNow r hs h
    | writeRecipe i port image _ _ => exact ercSound_congr rfl rfl rfl h
    | writeSetup port args g _ => exact ercSound_congr rfl rfl rfl h
    | seed batch roll _ _ _ _ => exact ercSound_congr rfl rfl rfl h
    | clearEvents => exact ercSound_congr rfl rfl rfl h

/-- Settles O53: every effect keeps the ranges and the ties of the ERC to the session and the emboss point. -/
theorem everyStepKeepsTheRegisterLaws : Obligations.EveryStepKeepsTheRegisterLaws :=
  keptByStep_of_effects ercSound_ofLawPart ercSound_effect

end Sys2Proof.Proofs
end

section
/-! PROOFS. The larger operations as chains of small ones: a logging, a recovery, a cut placed or fired, a code or a
serial reserved, a change of the run state, and changes that the laws of the events, the knife and the store do not speak
of. A law that each small operation keeps is kept by the chain. -/

namespace Sys2Proof.Proofs

open Sys2Proof Sys2Proof.Machine

/-! ### Small operations -/

/-- The laws of the events, the knife and the store do not tell the two states apart. -/
def Quiet (s t : State) : Prop :=
  t.events = s.events ∧ t.ks = s.ks ∧ t.ps = s.ps ∧ t.wpu.le = s.wpu.le ∧ t.wpu.reach = s.wpu.reach ∧
  t.sc.session = s.sc.session

/-- One small operation. -/
inductive Small (s : State) : State → Prop where
  | quiet (t : State) : Quiet s t → Small s t
  | log (e : EventReport) : Small s (logEvent s e)
  | recover (st : Station) : Small s (recoverStation s st)
  | place (c : Cut) : s.ks.queue.length < Config.knifeCapacity → Small s (placeCut s (s.ks.raised c))
  | reserveRoll : s.sc.session ≠ .unloaded → s.ps.reservedNow.roll < Config.maxWord →
      Small s { s with ps := s.ps.reserveRoll }
  | reserveBatch : s.sc.session ≠ .unloaded → s.ps.reservedNow.batch < Config.maxBatchCode →
      Small s { s with ps := s.ps.reserveBatch }
  | enter (run : RunState) (r : Recipe) : s.sc.session.recipe? = some r → Small s (s.enter run r)

/-- A chain of small operations. -/
def Chain : State → State → Prop := Relation.ReflTransGen Small

theorem Chain.refl (s : State) : Chain s s := Relation.ReflTransGen.refl

theorem Chain.trans {s t u : State} (h : Chain s t) (h' : Chain t u) : Chain s u := Relation.ReflTransGen.trans h h'

theorem Chain.of_small {s t : State} (h : Small s t) : Chain s t := Relation.ReflTransGen.single h

theorem Chain.quiet {s t : State} (h : Quiet s t) : Chain s t := .of_small (.quiet t h)

/-- A chain that ends in a quiet change. -/
theorem Chain.then_quiet {s t u : State} (h : Chain s t) (h' : Quiet t u) : Chain s u := h.trans (.quiet h')

theorem Chain.then_log {s t : State} (h : Chain s t) (e : EventReport) : Chain s (logEvent t e) :=
  h.trans (.of_small (.log e))

/-- A chain that begins with a quiet change. -/
theorem Chain.after {s t u : State} (h : Chain t u) (h' : Quiet s t) : Chain s u := (Chain.quiet h').trans h

theorem Chain.log (s : State) (e : EventReport) : Chain s (logEvent s e) := .of_small (.log e)

/-- A law that every small operation keeps is kept by a chain. -/
theorem Chain.keeps {P : State → Prop} (hP : ∀ s t, P s → Small s t → P t) {s t : State} (h : Chain s t) (hs : P s) :
    P t := by
  induction h with
  | refl => exact hs
  | tail _ hstep ih => exact hP _ _ ih hstep

/-! ### Quiet operations -/

theorem quiet_refl (s : State) : Quiet s s := ⟨rfl, rfl, rfl, rfl, rfl, rfl⟩

theorem quiet_updateRoll (s : State) (n : Nat) (f : Roll → Roll) : Quiet s (s.updateRoll n f) :=
  ⟨rfl, rfl, rfl, rfl, rfl, rfl⟩

theorem quiet_updateRecord (s : State) (n : Nat) (f : RepeatRecord → RepeatRecord) : Quiet s (s.updateRecord n f) :=
  ⟨rfl, rfl, rfl, rfl, rfl, rfl⟩

theorem quiet_raiseAll (s : State) (b : BitVec 8) : Quiet s (s.raiseAll b) := ⟨rfl, rfl, rfl, rfl, rfl, rfl⟩

theorem quiet_addHold (s : State) (n : Option Nat) (g : HoldFlags) : Quiet s (addHold s n g) := by
  cases n <;> exact ⟨rfl, rfl, rfl, rfl, rfl, rfl⟩

theorem quiet_freeTest (s : State) (n : Nat) : Quiet s (freeTest s n) := by
  unfold freeTest
  split
  · split_ifs <;> exact ⟨rfl, rfl, rfl, rfl, rfl, rfl⟩
  · exact quiet_refl s

theorem quiet_freeTestOf (s : State) (v : ShadeVerdict) : Quiet s (freeTestOf s v) := by
  cases v
  case batch code => exact quiet_freeTest s code
  all_goals exact quiet_refl s

theorem quiet_lowerQueued (s : State) (v : ShadeVerdict) : Quiet s (lowerQueued s v) := by
  cases v <;> exact ⟨rfl, rfl, rfl, rfl, rfl, rfl⟩

theorem quiet_dropRoll (s : State) (x : Roll) : Quiet s (dropRoll s x) := quiet_freeTest _ x.batch

theorem quiet_readinessTest (s : State) : Quiet s (readinessTest s) := by
  unfold readinessTest
  split_ifs <;> exact ⟨rfl, rfl, rfl, rfl, rfl, rfl⟩

theorem quiet_joinOrder (s : State) (n : Nat) : Quiet s (joinOrder s n) := by
  unfold joinOrder
  dsimp only
  split_ifs
  · exact quiet_readinessTest _
  · exact ⟨rfl, rfl, rfl, rfl, rfl, rfl⟩

theorem quiet_closeBatches (s : State) : Quiet s (closeBatches s) := by
  unfold closeBatches
  split_ifs <;> exact ⟨rfl, rfl, rfl, rfl, rfl, rfl⟩

theorem quiet_setErc (s : State) (c : Erc) : Quiet s (setErc s c) := by
  unfold setErc
  dsimp only
  split_ifs <;> exact ⟨rfl, rfl, rfl, rfl, rfl, rfl⟩

theorem quiet_ercHold (s : State) : Quiet s (ercHold s) := by
  unfold ercHold
  split
  · exact quiet_setErc s _
  · exact quiet_setErc s _
  all_goals exact quiet_refl s

theorem quiet_ercReacquire (s : State) : Quiet s (ercReacquire s) := by
  unfold ercReacquire
  split
  · exact quiet_setErc s _
  all_goals exact quiet_refl s

theorem quiet_turnDrop (s : State) (r : Recipe) (ph : Phase) (cls : RollClass) : Quiet s (turnDrop s r ph cls) := by
  unfold turnDrop
  split_ifs <;> exact ⟨rfl, rfl, rfl, rfl, rfl, rfl⟩

theorem quiet_builderTrackLost (s : State) : Quiet s (builderTrackLost s) := by
  unfold builderTrackLost
  split
  · exact quiet_updateRoll s _ _
  · exact quiet_refl s

theorem quiet_flagTail (s : State) : Quiet s (flagTail s) := by
  unfold flagTail
  split
  · exact quiet_updateRecord s _ _
  · exact quiet_refl s

/-! ### Cuts and the rolls they complete -/

theorem completeEnding_chain (s : State) (n : Nat) (o : CutOutcome) : Chain s (completeEnding s n o) := by
  unfold completeEnding
  split
  · split_ifs
    · exact (Chain.quiet (quiet_dropRoll s _)).then_log _
    · exact .quiet ⟨rfl, rfl, rfl, rfl, rfl, rfl⟩
    · exact .quiet (quiet_joinOrder _ n)
    · exact .refl s
  · exact .refl s

theorem completeRolls_chain (s : State) (k : CutKind) (o : CutOutcome) (g : HoldFlags) :
    Chain s (completeRolls s k o g) := by
  have hheld : Chain s (addHold (addHold s k.starting g) k.ending g) :=
    (Chain.quiet (quiet_addHold s k.starting g)).then_quiet (quiet_addHold _ k.ending g)
  unfold completeRolls
  dsimp only
  split
  · exact (hheld.trans (completeEnding_chain _ _ o)).then_quiet (quiet_raiseAll _ _)
  · exact hheld.then_quiet (quiet_raiseAll _ _)

theorem quiet_recordPositions (s : State) (c : Cut) : Quiet s (recordPositions s c) := by
  unfold recordPositions
  cases c.kind <;> exact ⟨rfl, rfl, rfl, rfl, rfl, rfl⟩

theorem queueCut_chain (s : State) (c : Cut) : Chain s (queueCut s c) := by
  unfold queueCut
  split_ifs with hroom
  · exact .of_small (.place c hroom)
  · exact ((Chain.quiet (quiet_recordPositions s c)).then_log _).trans (completeRolls_chain _ _ _ _)

/-! ### The register controller -/

theorem ercTake_chain (s : State) (r : Recipe) (seq : Nat) (ca : Angle) : Chain s (ercTake s r seq ca) := by
  have htaken : ∀ (u : State) (m : ErcMode) (e : Int), Quiet s u → Chain s (announceErc u m seq e) := by
    intro u m e hu
    unfold announceErc
    split
    · exact .quiet hu
    · exact ((Chain.quiet hu).then_quiet (quiet_raiseAll u _)).then_log _
  unfold ercTake
  dsimp only
  split
  · exact .quiet (quiet_updateRecord s _ _)
  · exact .refl s
  all_goals exact htaken _ _ _ ⟨rfl, rfl, rfl, rfl, rfl, rfl⟩

/-! ### Batches -/

theorem slotClosure_chain (s : State) (r : Recipe) : Chain s (slotClosure s r) := by
  unfold slotClosure
  split_ifs
  · split
    · next b _ =>
      have hclosed : Quiet s (s.updateBatch b.code BatchEntry.close) := ⟨rfl, rfl, rfl, rfl, rfl, rfl⟩
      exact (((Chain.quiet hclosed).then_log _).then_quiet (quiet_raiseAll _ noticeBatch)).then_quiet
        (quiet_freeTest _ b.code)
    · exact .refl s
  · exact .refl s

theorem openBatch_chain (s : State) (r : Recipe) (seq : Nat) (x : Lab) (hs : s.sc.session ≠ .unloaded) :
    Chain s (openBatch s r seq x).1 := by
  unfold openBatch
  split_ifs with hcode
  · exact .log s _
  · have hps : (slotClosure s r).ps = s.ps := by simp
    have hsession : (slotClosure s r).sc.session = s.sc.session := fixedPart_session (by simp)
    dsimp only
    split_ifs
    · exact (slotClosure_chain s r).then_log _
    · have hreserve : Small (slotClosure s r) { slotClosure s r with ps := (slotClosure s r).ps.reserveBatch } :=
        .reserveBatch (by rwa [hsession]) (by rw [hps]; exact Nat.lt_of_not_le hcode)
      have hmade : Chain s { slotClosure s r with
          ps := (slotClosure s r).ps.reserveBatch
          batches := insertBy BatchEntry.code (newBatch r ((slotClosure s r).ps.reservedNow.batch + 1) seq x)
            (slotClosure s r).batches } :=
        ((slotClosure_chain s r).trans (.of_small hreserve)).then_quiet ⟨rfl, rfl, rfl, rfl, rfl, rfl⟩
      exact (hmade.then_log _).then_quiet (quiet_raiseAll _ _)

theorem takeReading_chain (s : State) (r : Recipe) (seq : Nat) (x : Lab) (hs : s.sc.session ≠ .unloaded) :
    Chain s (takeReading s r seq x).1 := by
  have hclassify : Chain s (classify s r seq x).1 := by
    unfold classify
    split
    · unfold winBatch
      dsimp only
      split_ifs <;> exact .quiet ⟨rfl, rfl, rfl, rfl, rfl, rfl⟩
    · exact openBatch_chain s r seq x hs
  exact hclassify.then_quiet (quiet_updateRecord _ _ _)

/-! ### The Roll Builder -/

theorem tryStart_chain (s : State) (r : Recipe) (k : RepeatRecord) (c : Word) (code : Nat)
    (hs : s.sc.session ≠ .unloaded) : Chain s (tryStart s r k c code).1 := by
  have hwaste : Quiet s (goWaste s) := ⟨rfl, rfl, rfl, rfl, rfl, rfl⟩
  unfold tryStart
  split_ifs with hfull hahead hspent
  · exact (Chain.quiet hwaste).then_log _
  · exact .quiet hwaste
  · exact (Chain.quiet hwaste).then_log _
  · have hreserve : Chain s { s with ps := s.ps.reserveRoll } :=
      .of_small (.reserveRoll hs (Nat.lt_of_not_le hspent))
    unfold startRoll warnTableLow
    dsimp only
    split_ifs
    · refine Chain.then_log ?_ _
      exact hreserve.then_quiet ⟨rfl, rfl, rfl, rfl, rfl, rfl⟩
    · exact hreserve.then_quiet ⟨rfl, rfl, rfl, rfl, rfl, rfl⟩

theorem decideOwn_chain (s : State) (r : Recipe) (k : RepeatRecord) (c : Word) (hs : s.sc.session ≠ .unloaded) :
    Chain s (decideOwn s r k c).1 := by
  have hwaste : Chain s (goWaste s) := .quiet ⟨rfl, rfl, rfl, rfl, rfl, rfl⟩
  unfold decideOwn
  split
  · split_ifs
    · exact tryStart_chain s r k c _ hs
    · exact hwaste
  all_goals exact hwaste

theorem queueClose_chain (s : State) (x : Roll) (pos : Word) (n : Option Roll) :
    Chain s (queueClose s x pos n) := by
  unfold queueClose
  split
  · exact queueCut_chain s _
  · split_ifs
    · exact queueCut_chain s _
    · exact (queueCut_chain s _).trans (queueCut_chain _ _)

theorem closeAt_chain (s : State) (r : Recipe) (k : RepeatRecord) (c : Word) (x : Roll) (cls : RollClass)
    (hs : s.sc.session ≠ .unloaded) : Chain s (closeAt s r k c x cls) := by
  have hturned : Quiet s (turnDrop (markEnding s x.serial cls) r x.phase cls) :=
    quiet_turnDrop (markEnding s x.serial cls) r x.phase cls
  unfold closeAt
  dsimp only
  split_ifs
  · exact (queueClose_chain _ x _ none).after hturned
  · have hwasted : Chain s (goWaste (turnDrop (markEnding s x.serial cls) r x.phase cls)) :=
      (Chain.quiet hturned).then_quiet ⟨rfl, rfl, rfl, rfl, rfl, rfl⟩
    have hsession : (goWaste (turnDrop (markEnding s x.serial cls) r x.phase cls)).sc.session ≠ .unloaded := by
      obtain ⟨-, -, -, -, -, hsame⟩ := hturned
      exact hsame ▸ hs
    exact (hwasted.trans (decideOwn_chain _ r k c hsession)).trans (queueClose_chain _ _ _ _)

theorem decideBuilding_chain (s : State) (r : Recipe) (k : RepeatRecord) (c : Word) (x : Roll)
    (hs : s.sc.session ≠ .unloaded) : Chain s (decideBuilding s r k c x) := by
  unfold decideBuilding
  split_ifs
  · exact (Chain.quiet (quiet_updateRoll s _ _)).trans (closeAt_chain _ r k c x _ hs)
  · exact closeAt_chain s r k c x _ hs
  · exact .quiet ⟨rfl, rfl, rfl, rfl, rfl, rfl⟩
  · exact .quiet (quiet_updateRoll s _ _)
  · exact closeAt_chain s r k c x _ hs

theorem decideAlone_chain (s : State) (r : Recipe) (k : RepeatRecord) (c : Word) (hs : s.sc.session ≠ .unloaded) :
    Chain s (decideAlone s r k c) := by
  unfold decideAlone
  dsimp only
  split
  · exact (decideOwn_chain s r k c hs).trans (queueCut_chain _ _)
  · exact decideOwn_chain s r k c hs

theorem handOver_chain (s : State) (r : Recipe) (k : RepeatRecord) (c : Word) (hs : s.sc.session ≠ .unloaded) :
    Chain s (handOver s r k c) := by
  have hovertaken : Chain s (overtake s k).1 := by
    unfold overtake
    split_ifs
    · exact .log s _
    · exact .refl s
  have hsession : (overtake s k).1.sc.session ≠ .unloaded := by
    have hsame : (overtake s k).1.sc.session = s.sc.session := fixedPart_session (by simp)
    rwa [hsame]
  have htaken : ∀ t : State, t.sc.session ≠ .unloaded → Chain t (builderTake t r (overtake s k).2 c) := by
    intro t ht
    unfold builderTake
    dsimp only
    split
    · refine (decideBuilding_chain _ r _ c _ ?_).after ⟨rfl, rfl, rfl, rfl, rfl, rfl⟩
      exact ht
    · refine (decideAlone_chain _ r _ c ?_).after ⟨rfl, rfl, rfl, rfl, rfl, rfl⟩
      exact ht
  have hpopped : Quiet (overtake s k).1 (lowerQueued
      { (overtake s k).1 with rt := { (overtake s k).1.rt with queue := (overtake s k).1.rt.queue.tail } } k.shade) :=
    quiet_lowerQueued _ k.shade
  have hpoppedSession := hpopped.2.2.2.2.2
  unfold handOver
  exact ((hovertaken.then_quiet hpopped).trans (htaken _ (by rw [hpoppedSession]; exact hsession))).then_quiet
    (quiet_freeTestOf _ _)

/-! ### Drain completion -/

theorem drainTest_chain (s : State) : Chain s (drainTest s) := by
  rcases drainTest_cases s with hsame | ⟨r, hs, -, hnow⟩
  · rw [hsame]
    exact .refl s
  · rw [hnow]
    have hclosed : Chain s (drainClose s r).1 := by
      unfold drainClose
      split
      · next x _ =>
        exact (queueCut_chain _ _).after (quiet_turnDrop (markEnding s x.serial (x.drainClass r)) r x.phase _)
      · exact .quiet ⟨rfl, rfl, rfl, rfl, rfl, rfl⟩
    have hended : Chain s (ercOff (closeBatches (drainClose s r).1)) :=
      (hclosed.then_quiet (quiet_closeBatches _)).then_quiet (quiet_setErc _ _)
    have hsession : (ercOff (closeBatches (drainClose s r).1)).sc.session = s.sc.session := fixedPart_session (by simp)
    have hrecipe : (ercOff (closeBatches (drainClose s r).1)).sc.session.recipe? = some r := by rw [hsession, hs]; rfl
    exact (hended.trans (.of_small (.enter .armed r hrecipe))).then_log _

/-! ### Effects that are chains -/

theorem loaded_of_inRun {x : Session} (h : x.inRun = true) : x ≠ .unloaded := by
  rintro rfl
  cases h

/-- What an emboss mark does. -/
theorem embossSkip_chain (s : State) (r : Recipe) (k n : RepeatRecord) (le : Word) (ca : Angle) :
    Chain s (embossSkip s r k n le ca) := by
  have hmissed : Chain s (logEmbossMissed (s.updateRecord k.seq RepeatRecord.missed) k.seq 0) :=
    (Chain.quiet (quiet_updateRecord s _ _)).then_log _
  exact (hmissed.then_quiet (quiet_updateRecord _ _ _)).trans (ercTake_chain _ r _ ca)

theorem embossLose_chain (s : State) (k : RepeatRecord) (le : Word) (m : Nat) : Chain s (embossLose s k le m) := by
  have hlost : Chain s ((logTrackLost s .emboss k.seq m).putEmboss ⟨.lost, 0⟩) :=
    (Chain.log s _).then_quiet ⟨rfl, rfl, rfl, rfl, rfl, rfl⟩
  exact (hlost.then_quiet (quiet_ercHold _)).then_quiet (quiet_updateRecord _ _ _)

theorem embossLost_chain (s : State) (k : RepeatRecord) (le : Word) (b : Bool) : Chain s (embossLost s k le b) := by
  have hput : Quiet s ((s.updateRecord k.seq fun x => x.untracked le).putEmboss (s.rt.emboss.afterLost b).1) :=
    ⟨rfl, rfl, rfl, rfl, rfl, rfl⟩
  unfold embossLost
  dsimp only
  split
  · exact ((Chain.quiet hput).then_log _).then_quiet (quiet_ercReacquire _)
  · exact .quiet hput

/-- What a cut mark does, after the hand-overs that begin it. -/
theorem knifeSkip_chain (s : State) (r : Recipe) (k n : RepeatRecord) (c : Word) (hs : s.sc.session ≠ .unloaded) :
    Chain s (knifeSkip s r k n c) := by
  have hfirst := handOver_chain (logEvent s { code := .knifeMissed, station := .knife, seq := some k.seq }) r
    { k with knifeMissed := true } (estimatedCapture r n c) hs
  have hsecond := handOver_chain (handOver (logEvent s { code := .knifeMissed, station := .knife, seq := some k.seq }) r
    { k with knifeMissed := true } (estimatedCapture r n c)) r n c (by rw [handOver_session]; exact hs)
  exact (((Chain.log s _).trans hfirst).trans hsecond).trans (drainTest_chain _)

theorem knifeLose_chain (s : State) (r : Recipe) (k : RepeatRecord) (c : Word) (m : Nat)
    (hs : s.sc.session ≠ .unloaded) : Chain s (knifeLose s r k c m) := by
  have hput : Chain s ((logTrackLost s .knife k.seq m).putKnife ⟨.lost, 0⟩) :=
    (Chain.log s _).then_quiet ⟨rfl, rfl, rfl, rfl, rfl, rfl⟩
  have hsession : (builderTrackLost ((logTrackLost s .knife k.seq m).putKnife ⟨.lost, 0⟩)).sc.session ≠ .unloaded := by
    obtain ⟨-, -, -, -, -, hsame⟩ := quiet_builderTrackLost ((logTrackLost s .knife k.seq m).putKnife ⟨.lost, 0⟩)
    rw [hsame]
    exact hs
  exact ((hput.then_quiet (quiet_builderTrackLost _)).trans (handOver_chain _ r _ c hsession)).trans (drainTest_chain _)

theorem knifeLost_chain (s : State) (r : Recipe) (k : RepeatRecord) (c : Word) (b : Bool)
    (hs : s.sc.session ≠ .unloaded) : Chain s (knifeLost s r k c b) := by
  have hhanded : Chain (s.putKnife (s.rt.knife.afterLost b).1)
      (handOver (s.putKnife (s.rt.knife.afterLost b).1) r { k with untrackedAtKnife := true } c) :=
    handOver_chain _ r _ c hs
  have hput : Quiet s (s.putKnife (s.rt.knife.afterLost b).1) := ⟨rfl, rfl, rfl, rfl, rfl, rfl⟩
  have hdrained := (hhanded.after hput).trans (drainTest_chain _)
  unfold knifeLost
  dsimp only
  split
  · exact hdrained.then_log _
  · exact hdrained

/-- R25: a flush, without the close of the run. -/
theorem flushNow_chain (s : State) (r : Recipe) (hs : s.sc.session = .loaded .draining r) : Chain s (flushNow s r) := by
  have hrecords : Chain s (s.rt.queue.foldl flushRecord s) := by
    have hall : ∀ (l : List RepeatRecord) (u : State), Chain u (l.foldl flushRecord u) := by
      intro l
      induction l with
      | nil => exact .refl
      | cons k l ih =>
        intro u
        have hpopped : Quiet u (lowerQueued { u with rt := { u.rt with queue := u.rt.queue.tail } } k.shade) :=
          quiet_lowerQueued { u with rt := { u.rt with queue := u.rt.queue.tail } } k.shade
        have hone : Chain u (flushRecord u k) := (Chain.quiet hpopped).then_quiet (quiet_freeTestOf _ k.shade)
        exact hone.trans (ih _)
    exact hall _ s
  have hclosed : ∀ u : State, Chain u (flushClose u r).1 := by
    intro u
    unfold flushClose
    split
    · next x _ =>
      have hmarked : Quiet u (u.updateRoll x.serial fun y =>
          { y with cls := some (x.earlyClass r), hold := y.hold.join HoldFlags.ofCutFault }) := quiet_updateRoll _ _ _
      dsimp only
      split
      · exact ((Chain.quiet hmarked).then_quiet (quiet_dropRoll _ x)).then_quiet ⟨rfl, rfl, rfl, rfl, rfl, rfl⟩
      all_goals exact (Chain.quiet hmarked).then_quiet ⟨rfl, rfl, rfl, rfl, rfl, rfl⟩
    · exact .quiet ⟨rfl, rfl, rfl, rfl, rfl, rfl⟩
  have hended : Chain s (ercOff (closeBatches (flushClose (s.rt.queue.foldl flushRecord s) r).1)) :=
    ((hrecords.trans (hclosed _)).then_quiet (quiet_closeBatches _)).then_quiet (quiet_setErc _ _)
  have hsession : (ercOff (closeBatches (flushClose (s.rt.queue.foldl flushRecord s) r).1)).sc.session =
      s.sc.session := fixedPart_session (by simp [foldl_flushRecord_fixedPart])
  exact (hended.trans (.of_small (.enter .armed r (by rw [hsession, hs]; rfl)))).then_log _

/-- Every effect is a chain of small operations, or acts on a whole block. -/
theorem effect_cases {s t : State} (h : Effect s t) : Chain s t ∨ Direct s t := by
  cases h with
  | idle => exact .inl (.refl s)
  | event e => exact .inl (.log s e)
  | record r prev c _ _ _ =>
    have hsession : (createRecord s r prev c).sc.session = s.sc.session := by
      change s.sc.advanceSeq.session = s.sc.session
      unfold SessionControl.advanceSeq
      split_ifs <;> rfl
    exact .inl (.quiet ⟨rfl, rfl, rfl, rfl, rfl, hsession⟩)
  | embossSeek r k rest le ca _ _ _ _ =>
    have hput : Quiet s ((s.updateRecord k.seq fun x => x.matchedBare le).putEmboss ⟨.sync, s.rt.emboss.regain⟩) :=
      ⟨rfl, rfl, rfl, rfl, rfl, rfl⟩
    exact .inl ((ercTake_chain _ r _ ca).after hput)
  | embossMatch r k rest le ca m _ _ _ _ => exact .inl ((ercTake_chain _ r _ ca).after (quiet_updateRecord s _ _))
  | embossSkip r k n rest le ca _ _ _ _ => exact .inl (embossSkip_chain s r k n le ca)
  | embossLose k rest le m _ _ _ => exact .inl (embossLose_chain s k le m)
  | embossLost k rest le b _ _ _ => exact .inl (embossLost_chain s k le b)
  | knifeSeek r k rest c hrun _ _ =>
    have hput : Quiet s (s.putKnife ⟨.sync, s.rt.knife.regain⟩) := ⟨rfl, rfl, rfl, rfl, rfl, rfl⟩
    exact .inl (((handOver_chain (s.putKnife ⟨.sync, s.rt.knife.regain⟩) r k c (loaded_of_inRun hrun)).after hput).trans
      (drainTest_chain _))
  | knifeMatch r k rest c hrun _ _ =>
    exact .inl ((handOver_chain s r k c (loaded_of_inRun hrun)).trans (drainTest_chain _))
  | knifeSkip r k n rest c hrun _ _ => exact .inl (knifeSkip_chain s r k n c (loaded_of_inRun hrun))
  | knifeLose r k rest c m hrun _ _ => exact .inl (knifeLose_chain s r k c m (loaded_of_inRun hrun))
  | knifeLost r k rest c b hrun _ _ => exact .inl (knifeLost_chain s r k c b (loaded_of_inRun hrun))
  | splice => exact .inl (.quiet (quiet_flagTail s))
  | periodEnd => exact .inl (.quiet ⟨rfl, rfl, rfl, rfl, rfl, rfl⟩)
  | endRun r hs =>
    exact .inl ((Chain.of_small (.enter .draining r (by rw [hs]; rfl))).trans (drainTest_chain _))
  | flush r hs => exact .inl (flushNow_chain s r hs)
  | defect seq d => exact .inl (.quiet (quiet_updateRecord s _ _))
  | reading r seq k x hrun _ _ _ => exact .inl (takeReading_chain s r seq x (loaded_of_inRun hrun))
  | handLabel n rest _ _ _ => exact .inl (.quiet ⟨rfl, rfl, rfl, rfl, rfl, rfl⟩)
  | labelDone n x _ _ =>
    have hcounted : Quiet s ((s.popOrder.eraseRoll x.serial).updateBatch x.batch BatchEntry.labelRoll) :=
      ⟨rfl, rfl, rfl, rfl, rfl, rfl⟩
    exact .inl (((Chain.quiet hcounted).then_quiet (quiet_freeTest _ x.batch)).then_quiet (quiet_readinessTest _))
  | accept n x _ _ =>
    have hclosed : Quiet s (s.updateRoll x.serial fun y => { y with state := .closed, accepted := true }) :=
      quiet_updateRoll s _ _
    exact .inl ((Chain.quiet hclosed).then_quiet (quiet_joinOrder _ x.serial))
  | void n x _ _ => exact .inl ((Chain.quiet (quiet_dropRoll s x)).then_log _)
  | direct _ hd => exact .inr hd

/-- A law that small operations and the effects on whole blocks keep is kept by every effect. -/
theorem effect_keeps {P : State → Prop} (hsmall : ∀ s t, P s → Small s t → P t)
    (hdirect : ∀ s t, P s → Direct s t → P t) (s t : State) (hs : P s) (h : Effect s t) : P t :=
  (effect_cases h).elim (fun hc => hc.keeps hsmall hs) (hdirect s t hs)

end Sys2Proof.Proofs
end

section
/-! PROOFS. The laws of the Line Event Table, kept by every step, and what one logging does. -/

namespace Sys2Proof.Proofs

open Sys2Proof Sys2Proof.Machine

/-! ### The table -/

/-- The laws of the table alone. -/
def TableSound (ev : LineEvents) : Prop :=
  ev.total ≤ Config.maxWord ∧ ev.discarded ≤ Config.maxWord ∧
  ev.entries.length = min ev.total Config.eventCapacity ∧
  ev.summary = ev.refs.any ∧
  (ev.total < Config.maxWord →
    ev.discarded + ev.entries.length = ev.total ∧
    (ev.entries.take Config.eventRetained).map EventEntry.number = List.range' 1 (min ev.total Config.eventRetained) ∧
    (ev.entries.drop Config.eventRetained).map EventEntry.number =
      List.range' (ev.total + 1 - (ev.entries.drop Config.eventRetained).length)
        (ev.entries.drop Config.eventRetained).length)

theorem eventsSound_iff (s : State) : EventsSound s ↔ TableSound s.events := Iff.rfl

theorem tableSound_putRef {ev : LineEvents} (st : Station) (b : Bool) (h : TableSound ev) : TableSound (ev.putRef st b) := by
  obtain ⟨htotal, hdiscarded, hlength, -, hnumbers⟩ := h
  exact ⟨htotal, hdiscarded, hlength, rfl, hnumbers⟩

theorem take_rolled (l m : List EventEntry) (h : 8 ≤ l.length) : (l.take 8 ++ m).take 8 = l.take 8 := by
  rw [List.take_append_of_le_length (by simp [h]), List.take_take, Nat.min_self]

theorem drop_rolled (l m : List EventEntry) (h : 8 ≤ l.length) : (l.take 8 ++ m).drop 8 = m := by
  rw [List.drop_append_of_le_length (by simp [h]), List.drop_eq_nil_of_le (by simp), List.nil_append]

/-- R191: the first 8 numbers after an entry has joined at the end of n. -/
theorem retained_append {l : List EventEntry} {e : EventEntry} {n : Nat} (hlen : l.length = n) (hnumber : e.number = n + 1)
    (h : (l.take 8).map EventEntry.number = List.range' 1 (min n 8)) :
    ((l ++ [e]).take 8).map EventEntry.number = List.range' 1 (min (n + 1) 8) := by
  by_cases h8 : n < 8
  · rw [List.take_of_length_le (by omega), Nat.min_eq_left (by omega)] at h
    rw [List.take_of_length_le (by simp; omega), Nat.min_eq_left (by omega), List.map_append, h, List.range'_1_concat]
    simp [hnumber, Nat.add_comm]
  · rw [List.take_append_of_le_length (by omega), h, Nat.min_eq_right (by omega), Nat.min_eq_right (by omega)]

/-- R191: the numbers past the first 8 after an entry has joined at the end of n. -/
theorem rolling_append {l : List EventEntry} {e : EventEntry} {n : Nat} (hlen : l.length = n) (hnumber : e.number = n + 1)
    (h : (l.drop 8).map EventEntry.number = List.range' (n + 1 - (l.drop 8).length) (l.drop 8).length) :
    ((l ++ [e]).drop 8).map EventEntry.number =
      List.range' (n + 1 + 1 - ((l ++ [e]).drop 8).length) ((l ++ [e]).drop 8).length := by
  by_cases h8 : n < 8
  · rw [List.drop_eq_nil_of_le (by simp; omega)]
    rfl
  · rw [List.drop_append_of_le_length (by omega), List.map_append, h]
    simp only [List.length_append, List.length_drop, List.length_singleton, hlen, List.map_singleton, hnumber]
    rw [List.range'_1_concat, show n + 1 + 1 - (n - 8 + 1) = n + 1 - (n - 8) by omega]
    congr 2
    omega

/-- R191: the rolling part of a full table after its oldest entry has made room for a new one. -/
theorem rolling_shift {l : List EventEntry} {e : EventEntry} {n : Nat} (hlen : l.length = 40) (hn : 40 ≤ n)
    (hnumber : e.number = n + 1)
    (h : (l.drop 8).map EventEntry.number = List.range' (n + 1 - (l.drop 8).length) (l.drop 8).length) :
    (l.drop 9 ++ [e]).map EventEntry.number =
      List.range' (n + 1 + 1 - (l.drop 9 ++ [e]).length) (l.drop 9 ++ [e]).length := by
  have hdrop : (l.drop 9).map EventEntry.number = List.range' (n + 1 - 31) 31 := by
    have htail : l.drop 9 = (l.drop 8).drop 1 := by rw [List.drop_drop]
    rw [htail, List.map_drop, h, List.length_drop, hlen, List.drop_range']
    congr 1
    omega
  simp only [List.map_append, hdrop, List.length_append, List.length_drop, hlen, List.length_singleton,
    List.map_singleton, hnumber]
  have hlast : List.range' (n + 1 - 31) (31 + 1) = List.range' (n + 1 - 31) 31 ++ [n + 1] := by
    rw [List.range'_1_concat (n := 31), show n + 1 - 31 + 31 = n + 1 by omega]
  rw [show 40 - 9 + 1 = 31 + 1 from rfl, show n + 1 + 1 - (31 + 1) = n + 1 - 31 by omega, hlast]

/-- R191: below 40 entries the new one joins the retained part or the rolling part at its end. -/
theorem tableSound_place_room {ev : LineEvents} {e : EventEntry} (hnumber : e.number = satAdd Config.maxWord ev.total 1)
    (hroom : ev.entries.length < Config.eventCapacity) (h : TableSound ev) : TableSound (ev.place e) := by
  obtain ⟨htotal, hdiscarded, hlength, hsummary, hnumbers⟩ := h
  have hlt : ev.total < 40 := by
    simp only [Config.eventCapacity] at hroom hlength
    omega
  have hmax : ev.total + 1 ≤ Config.maxWord := by
    simp only [Config.maxWord]
    omega
  rw [satAdd_below _ _ _ hmax] at hnumber
  obtain ⟨hcount, hfirst, hrolling⟩ := hnumbers (by omega)
  have hplace : ev.place e = { ev with entries := ev.entries ++ [e], total := e.number } := if_pos hroom
  have hlen : ev.entries.length = ev.total := by
    simp only [Config.eventCapacity] at hlength
    omega
  rw [hplace]
  refine ⟨by rw [hnumber]; exact hmax, hdiscarded, ?_, hsummary, fun _ => ⟨?_, ?_, ?_⟩⟩
  · simp only [List.length_append, List.length_singleton, hnumber, Config.eventCapacity]
    omega
  · simp only [List.length_append, List.length_singleton, hnumber]
    omega
  · simp only [hnumber]
    exact retained_append hlen hnumber hfirst
  · simp only [hnumber]
    exact rolling_append hlen hnumber hrolling

/-- R191: at 40 entries the oldest of the rolling part makes room. -/
theorem tableSound_place_full {ev : LineEvents} {e : EventEntry} (hnumber : e.number = satAdd Config.maxWord ev.total 1)
    (hfull : ¬ev.entries.length < Config.eventCapacity) (h : TableSound ev) : TableSound (ev.place e) := by
  obtain ⟨htotal, hdiscarded, hlength, hsummary, hnumbers⟩ := h
  have hplace : ev.place e = { ev with
      entries := ev.entries.take Config.eventRetained ++ ev.entries.drop (Config.eventRetained + 1) ++ [e]
      total := e.number
      discarded := satAdd Config.maxWord ev.discarded 1 } := if_neg hfull
  have hlen : ev.entries.length = 40 ∧ 40 ≤ ev.total := by
    simp only [Config.eventCapacity] at hfull hlength
    omega
  rw [hplace]
  refine ⟨by rw [hnumber]; exact satAdd_le _ _ _, satAdd_le _ _ _, ?_, hsummary, fun hlt => ?_⟩
  · simp only [List.length_append, List.length_take, List.length_drop, List.length_singleton, hlen.1, hnumber,
      Config.eventRetained, Config.eventCapacity, satAdd, Config.maxWord]
    omega
  · have hmax : ev.total + 1 < Config.maxWord := by
      simp only [hnumber, satAdd] at hlt
      omega
    obtain ⟨hcount, hfirst, hrolling⟩ := hnumbers (by omega)
    rw [satAdd_below _ _ _ (by omega)] at hnumber
    refine ⟨?_, ?_, ?_⟩
    · rw [satAdd_below _ _ _ (by omega)]
      simp only [List.length_append, List.length_take, List.length_drop, List.length_singleton, hlen.1, hnumber,
        Config.eventRetained]
      omega
    · simp only [hnumber, Config.eventRetained, List.append_assoc] at hfirst ⊢
      rw [take_rolled _ _ (by omega), hfirst, Nat.min_eq_right (by omega), Nat.min_eq_right (by omega)]
    · simp only [hnumber, Config.eventRetained, List.append_assoc] at hrolling ⊢
      rw [drop_rolled _ _ (by omega)]
      exact rolling_shift hlen.1 hlen.2 hnumber hrolling

/-! ### Loggings and recoveries -/

theorem tableSound_place {ev : LineEvents} {e : EventEntry} (hnumber : e.number = satAdd Config.maxWord ev.total 1)
    (h : TableSound ev) : TableSound (ev.place e) := by
  by_cases hroom : ev.entries.length < Config.eventCapacity
  · exact tableSound_place_room hnumber hroom h
  · exact tableSound_place_full hnumber hroom h

theorem tableSound_applyAction {ev : LineEvents} (a : Action) (st : Station) (h : TableSound ev) :
    TableSound (ev.applyAction a st) := by
  cases a with
  | note => exact h
  | flag => exact tableSound_putRef st true h
  | stop => exact tableSound_putRef st true h

theorem eventsSound_logEvent {s : State} (e : EventReport) (h : EventsSound s) : EventsSound (logEvent s e) := by
  have hacted := tableSound_applyAction (s.actionOf e.code) e.station (tableSound_place (e := s.entryOf e) rfl h)
  show TableSound (LineEvents.applyRecovery _ _ _)
  unfold LineEvents.applyRecovery
  split_ifs
  · exact tableSound_putRef _ false hacted
  · exact hacted

theorem eventsSound_congr {s t : State} (he : t.events = s.events) (h : EventsSound s) : EventsSound t := by
  rw [eventsSound_iff] at *
  rwa [he]

/-! ### Firings -/

theorem eventsSound_fireIfDue {s : State} (h : EventsSound s) : EventsSound (fireIfDue s) := by
  have hlate : ∀ (u : State) (o : Outstanding), EventsSound u → EventsSound (markLate u o) := by
    intro u o hu
    unfold markLate
    split_ifs
    · exact eventsSound_congr (by rw [(addHold_frame _ _ _).2.2.2.2.2.2.1]) (eventsSound_logEvent _ hu)
    · exact hu
  unfold fireIfDue
  split
  · exact hlate _ _ (eventsSound_congr (s := s) (by simp) h)
  · exact h

theorem eventsSound_placeCut {s : State} (c : Cut) (h : EventsSound s) : EventsSound (placeCut s c) := by
  unfold placeCut
  dsimp only
  split_ifs
  · exact eventsSound_fireIfDue (eventsSound_congr (by simp) h)
  · exact eventsSound_congr (by simp) h

theorem eventsSound_small (s t : State) (h : EventsSound s) (hst : Small s t) : EventsSound t := by
  cases hst with
  | quiet _ hq => exact eventsSound_congr hq.1 h
  | log e => exact eventsSound_logEvent e h
  | recover st => exact tableSound_putRef st false h
  | place c _ => exact eventsSound_placeCut _ h
  | reserveRoll _ _ => exact h
  | reserveBatch _ _ => exact h
  | enter run r _ => exact h

theorem eventsSound_chain {s t : State} (h : EventsSound s) (hst : Chain s t) : EventsSound t :=
  hst.keeps eventsSound_small h

/-! ### Effects on whole blocks -/

theorem tableSound_reset (cause : ResetCause) : TableSound (LineEvents.afterReset cause) := by
  unfold TableSound
  cases cause <;> decide

theorem tableSound_empty : TableSound ⟨[], 0, 0, StationRefs.clear, false⟩ := by
  unfold TableSound
  decide

theorem eventsSound_releaseCut {s : State} (h : EventsSound s) : EventsSound (releaseCut s) :=
  eventsSound_chain (eventsSound_fireIfDue (s := { s with ks := { s.ks with outstanding := none } }) h)
    (drainTest_chain _)

theorem eventsSound_endAttempt {s : State} (c : CommitSeries) (held : Option StoreWrite) (agrees : Bool)
    (h : EventsSound s) : EventsSound (endAttempt s c held agrees) := by
  have hseed : ∀ (u : State) (st : Status), EventsSound u → EventsSound (postSeed u c.seeded st) := by
    intro u st hu
    unfold postSeed
    split_ifs
    · exact eventsSound_congr (by simp) hu
    · exact hu
  unfold endAttempt
  split_ifs
  · have hrecovered : EventsSound (announceRecovery { s with ps := s.ps.confirm c.values }) := by
      unfold announceRecovery
      split_ifs
      · exact eventsSound_logEvent _ h
      · exact h
    exact hseed _ _ (eventsSound_congr (by simp) hrecovered)
  · unfold endFailure
    dsimp only
    split_ifs
    · exact h
    · have hfailed := eventsSound_logEvent (s := { s with ps := s.ps.countFailure })
        { code := .storeFail, station := .store, extra := extraNat s.ps.countFailure.failures } h
      exact hseed _ _ hfailed

theorem eventsSound_direct (s t : State) (h : EventsSound s) (hd : Direct s t) : EventsSound t := by
  cases hd with
  | reset cause landed => exact tableSound_reset cause
  | lineEdge w _ => exact eventsSound_fireIfDue (eventsSound_congr (s := s) (by simp) h)
  | acknowledge o _ =>
    have hcompleted : EventsSound (completeRolls (answerCut s o) o.cut.kind .acknowledged ⟨false, false, false⟩) :=
      eventsSound_chain (s := answerCut s o) h (completeRolls_chain _ _ _ _)
    refine eventsSound_releaseCut ?_
    split_ifs
    · exact hcompleted
    · exact tableSound_putRef _ false hcompleted
  | timeout o _ =>
    exact eventsSound_releaseCut (eventsSound_chain (s := answerCut s o) h
      ((Chain.log _ _).trans (completeRolls_chain _ _ _ _)))
  | suspend w _ => exact h
  | writeEnd w suspending agrees _ =>
    unfold endWrite
    split_ifs <;> exact h
  | attemptEnd c held agrees _ _ => exact eventsSound_endAttempt c held agrees h
  | resume => exact h
  | clear run r _ =>
    refine eventsSound_logEvent _ (eventsSound_congr (s := s) ?_ h)
    simp [clearRolls_frame, clearKnife, clearQueue_frame]
  | load i r _ _ _ _ => exact eventsSound_congr (by simp [loadNow]) h
  | startRun r _ _ => exact eventsSound_congr (by simp [startRunNow]) h
  | writeRecipe i port image _ _ => exact h
  | writeSetup port args g _ => exact h
  | seed batch roll _ _ _ _ => exact h
  | clearEvents => exact tableSound_empty

/-- Settles O54: a table of the laws stays one under a logging and a recovery, of which every effect is made. -/
theorem everyStepKeepsTheEventLaws : Obligations.EveryStepKeepsTheEventLaws :=
  keptByStep_of_effects (fun _ => Iff.rfl) (effect_keeps eventsSound_small eventsSound_direct)

end Sys2Proof.Proofs
end

section
/-! PROOFS. The laws of the Repeat Queue and of its records, kept by every step. -/

namespace Sys2Proof.Proofs

open Sys2Proof Sys2Proof.Machine

/-! ### The queue as a list -/

/-- The laws of a queue of records whose next seq is given: R22, R33, R40 and section 3.1. -/
structure QueueLaws (q : List RepeatRecord) (next : Nat) : Prop where
  capacity : q.length ≤ Config.queueCapacity
  room : q.length < next
  seqs : q.map RepeatRecord.seq = List.range' (next - q.length) q.length
  newest : ∃ pre post, q = pre ++ post ∧ (∀ k ∈ pre, k.emboss ≠ .awaiting) ∧ ∀ k ∈ post, k.emboss = .awaiting
  sound : ∀ k ∈ q, k.Sound

/-- The AWAITING records are the newest: what follows the first of them is AWAITING. -/
theorem newest_iff (q : List RepeatRecord) :
    (∀ k ∈ q.dropWhile fun k => k.emboss != .awaiting, k.emboss = .awaiting) ↔
    ∃ pre post, q = pre ++ post ∧ (∀ k ∈ pre, k.emboss ≠ .awaiting) ∧ ∀ k ∈ post, k.emboss = .awaiting := by
  constructor
  · intro h
    refine ⟨q.takeWhile fun k => k.emboss != .awaiting, _, (List.takeWhile_append_dropWhile ..).symm, fun k hk => ?_, h⟩
    have hne := List.mem_takeWhile_imp hk
    simpa using hne
  · rintro ⟨pre, post, rfl, hpre, hpost⟩ k hk
    rw [List.dropWhile_append_of_pos (by simpa using hpre)] at hk
    exact hpost k ((List.dropWhile_sublist _).subset hk)

theorem QueueLaws.nodup {q : List RepeatRecord} {next : Nat} (h : QueueLaws q next) :
    (q.map RepeatRecord.seq).Nodup := by
  rw [h.seqs]
  exact List.nodup_range'

theorem QueueLaws.nil {next : Nat} (h : 0 < next) : QueueLaws [] next :=
  ⟨Nat.zero_le _, h, rfl, ⟨[], [], rfl, by simp, by simp⟩, by simp⟩

/-- R36: a record of the next seq joins at the tail. -/
theorem QueueLaws.append {q : List RepeatRecord} {next : Nat} {k : RepeatRecord} (h : QueueLaws q next)
    (hroom : q.length < Config.queueCapacity) (hseq : k.seq = next) (hawaiting : k.emboss = .awaiting)
    (hsound : k.Sound) : QueueLaws (q ++ [k]) (next + 1) := by
  obtain ⟨pre, post, rfl, hpre, hpost⟩ := h.newest
  have hless := h.room
  refine ⟨?_, ?_, ?_, ⟨pre, post ++ [k], by simp, hpre, ?_⟩, ?_⟩
  · rw [List.length_append, List.length_singleton]
    omega
  · rw [List.length_append (bs := [k]), List.length_singleton]
    omega
  · rw [List.map_append, h.seqs, List.length_append (bs := [k]), List.length_singleton, List.range'_1_concat]
    have hlast : next + 1 - ((pre ++ post).length + 1) + (pre ++ post).length = k.seq := by omega
    rw [hlast]
    simp only [Nat.add_sub_add_right, List.map_singleton]
  · simp only [List.mem_append, List.mem_singleton]
    rintro y (hy | rfl)
    · exact hpost y hy
    · exact hawaiting
  · simp only [List.mem_append (t := [k]), List.mem_singleton]
    rintro y (hy | rfl)
    · exact h.sound y hy
    · exact hsound

/-- R54: the head leaves the queue. -/
theorem QueueLaws.tail {q : List RepeatRecord} {next : Nat} (h : QueueLaws q next) : QueueLaws q.tail next := by
  cases q with
  | nil => exact h
  | cons k q =>
    obtain ⟨hcapacity, hroom, hseqs, hnewest, hsound⟩ := h
    simp only [List.length_cons] at hcapacity hroom hseqs
    refine ⟨by simp only [List.tail_cons]; omega, by simp only [List.tail_cons]; omega, ?_, ?_,
      fun y hy => hsound y (List.mem_cons_of_mem k hy)⟩
    · have htail := congrArg List.tail hseqs
      rw [List.map_cons, List.tail_cons, List.tail_range'] at htail
      rw [List.tail_cons, htail]
      congr 1
      omega
    · obtain ⟨pre, post, hq, hpre, hpost⟩ := hnewest
      cases pre with
      | nil =>
        refine ⟨[], q, rfl, by simp, fun y hy => hpost y ?_⟩
        rw [List.nil_append] at hq
        exact hq ▸ List.mem_cons_of_mem k hy
      | cons a pre =>
        rw [List.cons_append, List.cons.injEq] at hq
        exact ⟨pre, post, hq.2, fun y hy => hpre y (List.mem_cons_of_mem a hy), hpost⟩

/-- R34: a write to one record that keeps its seq and its emboss status. -/
theorem QueueLaws.update {q : List RepeatRecord} {next : Nat} (h : QueueLaws q next) (n : Nat)
    (f : RepeatRecord → RepeatRecord) (hseq : ∀ k, (f k).seq = k.seq) (hemboss : ∀ k, (f k).emboss = k.emboss)
    (hsound : ∀ k ∈ q, k.seq = n → k.Sound → (f k).Sound) : QueueLaws (updateBy RepeatRecord.seq n f q) next := by
  obtain ⟨hcapacity, hroom, hseqs, ⟨pre, post, hq, hpre, hpost⟩, hall⟩ := h
  have hstatus : ∀ y : RepeatRecord, (if y.seq = n then f y else y).emboss = y.emboss := by
    intro y
    split_ifs
    · exact hemboss y
    · rfl
  refine ⟨by rwa [length_updateBy], by rwa [length_updateBy], ?_,
    ⟨updateBy RepeatRecord.seq n f pre, updateBy RepeatRecord.seq n f post, ?_, ?_, ?_⟩, fun y hy => ?_⟩
  · rw [map_key_updateBy _ _ _ hseq, length_updateBy, hseqs]
  · rw [hq]
    exact List.map_append
  · simp only [updateBy, List.mem_map]
    rintro _ ⟨y, hy, rfl⟩
    rw [hstatus]
    exact hpre y hy
  · simp only [updateBy, List.mem_map]
    rintro _ ⟨y, hy, rfl⟩
    rw [hstatus]
    exact hpost y hy
  · simp only [updateBy, List.mem_map] at hy
    obtain ⟨z, hz, rfl⟩ := hy
    split_ifs with hzn
    · exact hsound z hz hzn (hall z hz)
    · exact hall z hz

/-- R41, R44, R45, R47 to R49: a write that takes the oldest AWAITING record out of AWAITING; the records after it are
the AWAITING ones left. -/
theorem QueueLaws.pass {q : List RepeatRecord} {next : Nat} (h : QueueLaws q next) {k : RepeatRecord}
    {rest : List RepeatRecord} (hk : (q.filter fun x => x.emboss == .awaiting) = k :: rest)
    (f : RepeatRecord → RepeatRecord) (hseq : ∀ k, (f k).seq = k.seq) (hpassed : (f k).emboss ≠ .awaiting)
    (hsound : k.Sound → (f k).Sound) :
    QueueLaws (updateBy RepeatRecord.seq k.seq f q) next ∧
    ((updateBy RepeatRecord.seq k.seq f q).filter fun x => x.emboss == .awaiting) = rest ∧
    f k ∈ updateBy RepeatRecord.seq k.seq f q ∧ k ∈ q := by
  have hnodup := h.nodup
  obtain ⟨hcapacity, hroom, hseqs, ⟨pre, post, hq, hpre, hpost⟩, hall⟩ := h
  have hfilterPre : (pre.filter fun x => x.emboss == .awaiting) = [] := by
    rw [List.filter_eq_nil_iff]
    simpa using hpre
  have hfilterPost : (post.filter fun x => x.emboss == .awaiting) = post := by
    rw [List.filter_eq_self]
    simpa using hpost
  have hpostEq : post = k :: rest := by
    rw [← hk, hq, List.filter_append, hfilterPre, hfilterPost, List.nil_append]
  subst hpostEq
  subst hq
  have hmem : k ∈ pre ++ k :: rest := by simp
  have hothers : ∀ y ∈ pre ++ rest, y.seq ≠ k.seq := by
    rw [List.map_append, List.map_cons, List.nodup_append] at hnodup
    obtain ⟨-, htail, hdisjoint⟩ := hnodup
    rw [List.nodup_cons] at htail
    intro y hy heq
    rcases List.mem_append.mp hy with hy | hy
    · exact hdisjoint _ (List.mem_map_of_mem hy) _ List.mem_cons_self heq
    · exact htail.1 (heq ▸ List.mem_map_of_mem hy)
  have hsame : ∀ l : List RepeatRecord, (∀ y ∈ l, y.seq ≠ k.seq) → updateBy RepeatRecord.seq k.seq f l = l := by
    intro l hl
    exact updateBy_same _ _ _ _ fun y hy hyk => absurd hyk (hl y hy)
  have hnew : updateBy RepeatRecord.seq k.seq f (pre ++ k :: rest) = pre ++ f k :: rest := by
    have hsplit : updateBy RepeatRecord.seq k.seq f (pre ++ k :: rest) =
        updateBy RepeatRecord.seq k.seq f pre ++ f k :: updateBy RepeatRecord.seq k.seq f rest := by
      simp [updateBy]
    rw [hsplit, hsame pre fun y hy => hothers y (List.mem_append_left _ hy),
      hsame rest fun y hy => hothers y (List.mem_append_right _ hy)]
  have hrest : ∀ y ∈ rest, y.emboss = .awaiting := fun y hy => hpost y (List.mem_cons_of_mem k hy)
  refine ⟨⟨by rwa [length_updateBy], by rwa [length_updateBy], ?_, ⟨pre ++ [f k], rest, ?_, ?_, hrest⟩, ?_⟩, ?_, ?_, hmem⟩
  · rw [map_key_updateBy _ _ _ hseq, length_updateBy, hseqs]
  · rw [hnew]
    simp
  · simp only [List.mem_append, List.mem_singleton]
    rintro y (hy | rfl)
    · exact hpre y hy
    · exact hpassed
  · rw [hnew]
    intro y hy
    simp only [List.mem_append, List.mem_cons] at hy
    rcases hy with hy | rfl | hy
    · exact hall y (by simp [hy])
    · exact hsound (hall k hmem)
    · exact hall y (by simp [hy])
  · have hself : (rest.filter fun x => x.emboss == .awaiting) = rest := by
      rw [List.filter_eq_self]
      simpa using hrest
    rw [hnew, List.filter_append, hfilterPre, List.filter_cons_of_neg (by simpa using hpassed), hself, List.nil_append]
  · rw [hnew]
    simp

/-! ### Records -/

theorem newRecord_sound (s : State) (r : Recipe) (prev : Option Capture) (c : Word) : (newRecord s r prev c).Sound := by
  refine ⟨by simp [newRecord], by simp [newRecord], by simp [newRecord], by simp [newRecord], rfl, by simp [newRecord],
    fun hleader => ?_, fun _ => ?_⟩
  · have hnone : s.printLength prev c = none := if_pos hleader
    exact ⟨hnone, by simp [newRecord, hnone]⟩
  · unfold newRecord
    dsimp only
    split_ifs
    · exact .inl rfl
    · exact .inr rfl

/-- What an AWAITING record holds of the emboss point: nothing. -/
theorem awaiting_bare {k : RepeatRecord} (ha : k.emboss = .awaiting) (h : k.Sound) :
    k.embossPos = none ∧ k.embossLen = none ∧ k.stretch = none := by
  obtain ⟨-, -, hpos, hlen, hstretch, -⟩ := h
  have hlen' : k.embossLen = none := by
    by_contra hne
    have hmatched := (hlen (Option.isSome_iff_ne_none.mpr hne)).1
    rw [ha] at hmatched
    cases hmatched
  refine ⟨?_, hlen', by simpa [hlen'] using hstretch⟩
  simpa [ha] using hpos

theorem matchedBare_sound {k : RepeatRecord} (c : Word) (ha : k.emboss = .awaiting) (h : k.Sound) :
    (k.matchedBare c).Sound := by
  obtain ⟨-, hlen, -⟩ := awaiting_bare ha h
  obtain ⟨hdefects, hoverflow, -, -, hstretch, hreading, hleader, -⟩ := h
  exact ⟨hdefects, hoverflow, by simp [RepeatRecord.matchedBare], by simp [RepeatRecord.matchedBare, hlen], hstretch,
    hreading, hleader, by simp [RepeatRecord.matchedBare]⟩

theorem matchedIn_sound {k : RepeatRecord} (c : Word) (m : Nat) (ha : k.emboss = .awaiting) (h : k.Sound) :
    (k.matchedIn c m).Sound := by
  cases hlp : k.printLen with
  | none =>
    have hbare : k.matchedIn c m = k.matchedBare c := by
      unfold RepeatRecord.matchedIn RepeatRecord.matchedBare
      rw [hlp]
    exact hbare ▸ matchedBare_sound c ha h
  | some lp =>
    obtain ⟨hdefects, hoverflow, -, -, -, hreading, hleader, -⟩ := h
    have hmeasured : k.matchedIn c m = { k with
        emboss := .matched, embossPos := some c, embossLen := some m
        stretch := some (roundDiv (((m : Int) - lp) * 1000000) lp) } := by
      unfold RepeatRecord.matchedIn
      simp only [hlp]
    rw [hmeasured]
    exact ⟨hdefects, hoverflow, by simp, by simp [hlp], rfl, hreading, hleader, by simp⟩

theorem missed_sound {k : RepeatRecord} (ha : k.emboss = .awaiting) (h : k.Sound) : k.missed.Sound := by
  obtain ⟨hpos, hlen, -⟩ := awaiting_bare ha h
  obtain ⟨hdefects, hoverflow, -, -, hstretch, hreading, hleader, -⟩ := h
  exact ⟨hdefects, hoverflow, by simp [RepeatRecord.missed, hpos], by simp [RepeatRecord.missed, hlen], hstretch,
    hreading, hleader, by simp [RepeatRecord.missed]⟩

theorem untracked_sound {k : RepeatRecord} (c : Word) (ha : k.emboss = .awaiting) (h : k.Sound) :
    (k.untracked c).Sound := by
  obtain ⟨-, hlen, -⟩ := awaiting_bare ha h
  obtain ⟨hdefects, hoverflow, -, -, hstretch, hreading, hleader, -⟩ := h
  exact ⟨hdefects, hoverflow, by simp [RepeatRecord.untracked], by simp [RepeatRecord.untracked, hlen], hstretch,
    hreading, hleader, by simp [RepeatRecord.untracked]⟩

theorem addDefect_sound {k : RepeatRecord} (d : Defect) (h : k.Sound) : (k.addDefect d).Sound := by
  obtain ⟨hdefects, hoverflow, hrest⟩ := h
  unfold RepeatRecord.addDefect
  split_ifs with hroom
  · exact ⟨by simpa using hroom, hoverflow, hrest⟩
  · exact ⟨hdefects, satAdd_le _ _ _, hrest⟩

/-- A record with a reading and a verdict other than PENDING. -/
theorem read_sound {k : RepeatRecord} (x : Lab) {v : ShadeVerdict} (hv : v ≠ .pending) (h : k.Sound) :
    RepeatRecord.Sound { k with reading := some x, shade := v } := by
  obtain ⟨hdefects, hoverflow, hpos, hlen, hstretch, -, hleader, hawaiting⟩ := h
  exact ⟨hdefects, hoverflow, hpos, hlen, hstretch, by simpa using hv, hleader, hawaiting⟩

theorem matchedIn_seq (k : RepeatRecord) (c : Word) (m : Nat) :
    (k.matchedIn c m).seq = k.seq ∧ (k.matchedIn c m).emboss = .matched := by
  unfold RepeatRecord.matchedIn
  split <;> exact ⟨rfl, rfl⟩

/-! ### What takes a record, what classifies a reading -/

/-- R65, R68: the ERC writes into the record taken only error and verdict. -/
theorem ercTake_queue (s : State) (r : Recipe) (n : Nat) (ca : Angle) : ∃ g : RepeatRecord → RepeatRecord,
    (ercTake s r n ca).rt = { s.rt with queue := updateBy RepeatRecord.seq n g s.rt.queue } ∧
    ∀ k, (g k).seq = k.seq ∧ (g k).emboss = k.emboss ∧ (g k).shade = k.shade ∧
      (k.emboss ≠ .awaiting → k.Sound → (g k).Sound) := by
  by_cases hcontrol : s.erc.mode = .acquire ∨ s.erc.mode = .locked
  · rw [ercTake_controlling s r n ca hcontrol]
    simp only [announceErc_frame]
    refine ⟨_, rfl, fun k => ⟨rfl, rfl, rfl, fun hne h => ?_⟩⟩
    obtain ⟨hdefects, hoverflow, hpos, hlen, hstretch, hreading, hleader, -⟩ := h
    exact ⟨hdefects, hoverflow, hpos, hlen, hstretch, hreading, hleader, fun ha => absurd ha hne⟩
  · cases hm : s.erc.mode with
    | off =>
      rw [ercTake_off s r n ca hm]
      exact ⟨_, rfl, fun k => ⟨rfl, rfl, rfl, fun _ h => h⟩⟩
    | hold =>
      have hsame : ercTake s r n ca = s := by
        unfold ercTake
        rw [hm]
      rw [hsame]
      exact ⟨id, by simp [updateBy], fun k => ⟨rfl, rfl, rfl, fun _ h => h⟩⟩
    | acquire => exact absurd (.inl hm) hcontrol
    | locked => exact absurd (.inr hm) hcontrol

theorem classify_ne_pending (s : State) (r : Recipe) (n : Nat) (x : Lab) : (classify s r n x).2 ≠ .pending := by
  unfold classify
  split
  · nofun
  · unfold openBatch
    dsimp only
    split_ifs <;> nofun

theorem takeReading_rt (s : State) (r : Recipe) (n : Nat) (x : Lab) :
    (takeReading s r n x).1.rt = { s.rt with
      queue := updateBy RepeatRecord.seq n (fun k => { k with reading := some x, shade := (classify s r n x).2 })
        s.rt.queue } := by
  simp [takeReading, State.updateRecord]

/-! ### The laws as a state has them -/

/-- The queue laws of a state. -/
structure QueueState (s : State) : Prop where
  laws : QueueLaws s.rt.queue s.sc.nextFree
  low : 1 ≤ s.sc.nextSeq
  high : s.sc.nextSeq ≤ Config.maxWord
  spent : s.sc.seqSpent = true → s.sc.nextSeq = Config.maxWord
  run : s.rt.queue ≠ [] → s.sc.session.inRun = true
  embossRegain : s.rt.emboss.regain ≤ 2
  knifeRegain : s.rt.knife.regain ≤ 2

theorem queueState_iff (s : State) : QueueSound s ∧ RecordsSound s ↔ QueueState s := by
  constructor
  · rintro ⟨⟨hcapacity, hlow, hhigh, hspent, hroom, hseqs, hrun, hnewest, hemboss, hknife⟩, hrecords⟩
    exact ⟨⟨hcapacity, hroom, hseqs, (newest_iff _).mp hnewest, hrecords⟩, hlow, hhigh, hspent, hrun, hemboss, hknife⟩
  · rintro ⟨⟨hcapacity, hroom, hseqs, hnewest, hrecords⟩, hlow, hhigh, hspent, hrun, hemboss, hknife⟩
    exact ⟨⟨hcapacity, hlow, hhigh, hspent, hroom, hseqs, hrun, (newest_iff _).mpr hnewest, hemboss, hknife⟩, hrecords⟩

/-- A change that leaves the run sequence counter, and whose session stays in a run where the queue is not empty. -/
theorem QueueState.of {s t : State} (h : QueueState s) (hseq : t.sc.nextSeq = s.sc.nextSeq)
    (hspent : t.sc.seqSpent = s.sc.seqSpent) (hlaws : QueueLaws t.rt.queue s.sc.nextFree)
    (hrun : t.rt.queue ≠ [] → t.sc.session.inRun = true) (hemboss : t.rt.emboss.regain ≤ 2)
    (hknife : t.rt.knife.regain ≤ 2) : QueueState t := by
  have hfree : t.sc.nextFree = s.sc.nextFree := by
    unfold SessionControl.nextFree
    rw [hseq, hspent]
  refine ⟨hfree ▸ hlaws, ?_, ?_, ?_, hrun, hemboss, hknife⟩
  · rw [hseq]
    exact h.low
  · rw [hseq]
    exact h.high
  · rw [hseq, hspent]
    exact h.spent

/-- The counter and the session in a state of the same fixed part. -/
theorem fixedPart_counter {s t : State} (h : s.outerPart = t.outerPart) :
    s.sc.nextSeq = t.sc.nextSeq ∧ s.sc.seqSpent = t.sc.seqSpent := by
  rw [outerPart_sc h]
  exact ⟨rfl, rfl⟩

/-- A change of neither the fixed part nor the Repeat Tracker. -/
theorem QueueState.same {s t : State} (h : QueueState s) (hrt : t.rt = s.rt) (hfixed : t.fixedPart = s.fixedPart) :
    QueueState t := by
  obtain ⟨hseq, hspent⟩ := fixedPart_counter (fixedPart_outer hfixed)
  refine h.of hseq hspent (hrt ▸ h.laws) ?_ (hrt ▸ h.embossRegain) (hrt ▸ h.knifeRegain)
  rw [hrt, fixedPart_session hfixed]
  exact h.run

/-- A change of the Repeat Tracker alone. -/
theorem QueueState.tracked {s t : State} (h : QueueState s) (hfixed : t.fixedPart = s.fixedPart)
    (hlaws : QueueLaws t.rt.queue s.sc.nextFree) (hne : t.rt.queue ≠ [] → s.rt.queue ≠ [])
    (hemboss : t.rt.emboss.regain ≤ 2) (hknife : t.rt.knife.regain ≤ 2) : QueueState t := by
  obtain ⟨hseq, hspent⟩ := fixedPart_counter (fixedPart_outer hfixed)
  refine h.of hseq hspent hlaws (fun hq => ?_) hemboss hknife
  rw [fixedPart_session hfixed]
  exact h.run (hne hq)

theorem updateBy_ne_nil {n : Nat} {f : RepeatRecord → RepeatRecord} {q : List RepeatRecord}
    (h : updateBy RepeatRecord.seq n f q ≠ []) : q ≠ [] := by
  rintro rfl
  exact h rfl

/-- A write to one record that keeps its seq and its emboss status. -/
theorem QueueState.written {s t : State} (h : QueueState s) (hfixed : t.fixedPart = s.fixedPart) (n : Nat)
    (f : RepeatRecord → RepeatRecord) (hrt : t.rt = { s.rt with queue := updateBy RepeatRecord.seq n f s.rt.queue })
    (hseq : ∀ k, (f k).seq = k.seq) (hstatus : ∀ k, (f k).emboss = k.emboss)
    (hsound : ∀ k ∈ s.rt.queue, k.seq = n → k.Sound → (f k).Sound) : QueueState t := by
  refine h.tracked hfixed ?_ ?_ ?_ ?_ <;> rw [hrt]
  · exact h.laws.update n f hseq hstatus hsound
  · exact updateBy_ne_nil
  · exact h.embossRegain
  · exact h.knifeRegain

/-- The oldest AWAITING record passes the emboss point. -/
theorem QueueState.passed {s t : State} (h : QueueState s) (hfixed : t.fixedPart = s.fixedPart) {k : RepeatRecord}
    {rest : List RepeatRecord} (hk : s.awaitingRecords = k :: rest) (f : RepeatRecord → RepeatRecord)
    (hq : t.rt.queue = updateBy RepeatRecord.seq k.seq f s.rt.queue) (hseq : ∀ k, (f k).seq = k.seq)
    (hpassed : (f k).emboss ≠ .awaiting) (hsound : k.emboss = .awaiting → k.Sound → (f k).Sound)
    (hemboss : t.rt.emboss.regain ≤ 2) (hknife : t.rt.knife = s.rt.knife) :
    QueueState t ∧ t.awaitingRecords = rest ∧ ∀ y ∈ t.rt.queue, y.seq = k.seq → y.emboss ≠ .awaiting := by
  obtain ⟨-, hawaiting⟩ := awaiting_mem s k rest hk
  obtain ⟨hlaws, hrest, hmem, -⟩ := h.laws.pass hk f hseq hpassed (hsound hawaiting)
  refine ⟨h.tracked hfixed (hq ▸ hlaws) (hq ▸ updateBy_ne_nil) hemboss (hknife ▸ h.knifeRegain), ?_, fun y hy hyk => ?_⟩
  · unfold State.awaitingRecords
    rw [hq, hrest]
  · rw [hq] at hy
    have hsame : y = f k := List.inj_on_of_nodup_map hlaws.nodup hy hmem (by rw [hyk, hseq])
    rw [hsame]
    exact hpassed

theorem QueueState.ercTake {s : State} (h : QueueState s) (r : Recipe) (n : Nat) (ca : Angle)
    (hn : ∀ y ∈ s.rt.queue, y.seq = n → y.emboss ≠ .awaiting) : QueueState (ercTake s r n ca) := by
  obtain ⟨g, hrt, hg⟩ := ercTake_queue s r n ca
  exact h.written (by simp) n g hrt (fun k => (hg k).1) (fun k => (hg k).2.1)
    fun k hk hkn => (hg k).2.2.2 (hn k hk hkn)

/-! ### Emboss marks -/

theorem QueueState.embossSeek {s : State} (h : QueueState s) (r : Recipe) {k : RepeatRecord} {rest : List RepeatRecord}
    (le : Word) (ca : Angle) (hk : s.awaitingRecords = k :: rest) : QueueState (embossSeek s r k le ca) := by
  obtain ⟨hput, -, hpassed⟩ := h.passed
    (t := (s.updateRecord k.seq fun x => x.matchedBare le).putEmboss ⟨.sync, s.rt.emboss.regain⟩) rfl hk
    (fun x => x.matchedBare le) rfl (fun _ => rfl) (by simp [RepeatRecord.matchedBare]) (matchedBare_sound le)
    h.embossRegain rfl
  exact hput.ercTake r k.seq ca hpassed

theorem QueueState.embossMatch {s : State} (h : QueueState s) (r : Recipe) {k : RepeatRecord}
    {rest : List RepeatRecord} (le : Word) (ca : Angle) (m : Nat) (hk : s.awaitingRecords = k :: rest) :
    QueueState (embossMatch s r k le ca m) := by
  obtain ⟨hput, -, hpassed⟩ := h.passed (t := s.updateRecord k.seq fun x => x.matchedIn le m) rfl hk
    (fun x => x.matchedIn le m) rfl (fun x => (matchedIn_seq x le m).1) (by simp [matchedIn_seq])
    (matchedIn_sound le m) h.embossRegain rfl
  exact hput.ercTake r k.seq ca hpassed

theorem QueueState.embossSkip {s : State} (h : QueueState s) (r : Recipe) {k n : RepeatRecord}
    {rest : List RepeatRecord} (le : Word) (ca : Angle) (hk : s.awaitingRecords = k :: n :: rest) :
    QueueState (embossSkip s r k n le ca) := by
  obtain ⟨hmissed, hnext, -⟩ := h.passed
    (t := logEmbossMissed (s.updateRecord k.seq RepeatRecord.missed) k.seq 0) rfl hk RepeatRecord.missed rfl
    (fun _ => rfl) (by simp [RepeatRecord.missed]) missed_sound h.embossRegain rfl
  obtain ⟨hput, -, hpassed⟩ := hmissed.passed
    (t := (logEmbossMissed (s.updateRecord k.seq RepeatRecord.missed) k.seq 0).updateRecord n.seq fun x =>
      x.matchedBare le) rfl hnext
    (fun x => x.matchedBare le) rfl (fun _ => rfl) (by simp [RepeatRecord.matchedBare]) (matchedBare_sound le)
    hmissed.embossRegain rfl
  exact hput.ercTake r n.seq ca hpassed

theorem QueueState.embossLose {s : State} (h : QueueState s) {k : RepeatRecord} {rest : List RepeatRecord} (le : Word)
    (m : Nat) (hk : s.awaitingRecords = k :: rest) : QueueState (embossLose s k le m) := by
  have hrt : (Machine.embossLose s k le m).rt = { s.rt with
      emboss := ⟨.lost, 0⟩, queue := updateBy RepeatRecord.seq k.seq (fun x => x.untracked le) s.rt.queue } := by
    simp [Machine.embossLose, State.updateRecord, State.putEmboss]
  exact (h.passed (by simp) hk (fun x => x.untracked le) (by rw [hrt]) (fun _ => rfl)
    (by simp [RepeatRecord.untracked]) (untracked_sound le) (by rw [hrt]; exact Nat.zero_le _) (by rw [hrt])).1

/-- R49: the regain counter of a point in LOST stays below 3. -/
theorem afterLost_regain (p : TrackPoint) (b : Bool) : (p.afterLost b).1.regain ≤ 2 := by
  unfold TrackPoint.afterLost
  split_ifs
  · exact Nat.zero_le 2
  · dsimp only
    omega
  · exact Nat.zero_le 2

theorem QueueState.embossLost {s : State} (h : QueueState s) {k : RepeatRecord} {rest : List RepeatRecord} (le : Word)
    (b : Bool) (hk : s.awaitingRecords = k :: rest) : QueueState (embossLost s k le b) := by
  have hrt : (Machine.embossLost s k le b).rt = { s.rt with
      emboss := (s.rt.emboss.afterLost b).1
      queue := updateBy RepeatRecord.seq k.seq (fun x => x.untracked le) s.rt.queue } := by
    unfold Machine.embossLost
    dsimp only
    split <;> simp [State.updateRecord, State.putEmboss]
  exact (h.passed (by simp) hk (fun x => x.untracked le) (by rw [hrt]) (fun _ => rfl)
    (by simp [RepeatRecord.untracked]) (untracked_sound le) (by rw [hrt]; exact afterLost_regain _ b) (by rw [hrt])).1

/-! ### Hand-overs and the end of a run -/

theorem QueueState.handOver {s : State} (h : QueueState s) (r : Recipe) (k : RepeatRecord) (c : Word) :
    QueueState (handOver s r k c) := by
  have hrt := handOver_rt s r k c
  refine h.tracked (by simp) ?_ ?_ ?_ ?_ <;> rw [hrt]
  · exact h.laws.tail
  · rintro htail hnil
    rw [hnil] at htail
    exact htail rfl
  · exact h.embossRegain
  · exact h.knifeRegain

/-- R24: the drain completes on an empty queue only. -/
theorem QueueState.drainTest {s : State} (h : QueueState s) : QueueState (drainTest s) := by
  rcases drainTest_cases s with hsame | ⟨r, -, hclear, hnow⟩
  · exact hsame.symm ▸ h
  · have hempty : s.rt.queue = [] := by
      simp only [State.webClear, Bool.and_eq_true, List.isEmpty_iff] at hclear
      exact hclear.1.1
    have hrt : (Machine.drainTest s).rt = s.rt := by simp
    obtain ⟨hseq, hspent⟩ := fixedPart_counter (s := Machine.drainTest s) (t := s) (by simp)
    refine h.of hseq hspent (hrt ▸ h.laws) (fun hne => ?_) (hrt ▸ h.embossRegain) (hrt ▸ h.knifeRegain)
    rw [hrt] at hne
    exact absurd hempty hne

theorem QueueState.putKnife {s : State} (h : QueueState s) (p : TrackPoint) (hp : p.regain ≤ 2) :
    QueueState (s.putKnife p) :=
  h.tracked rfl h.laws id h.embossRegain hp

theorem QueueState.knifeLost {s : State} (h : QueueState s) (r : Recipe) (k : RepeatRecord) (c : Word) (b : Bool) :
    QueueState (knifeLost s r k c b) := by
  have hdrained := ((h.putKnife _ (afterLost_regain s.rt.knife b)).handOver r { k with untrackedAtKnife := true } c).drainTest
  unfold Machine.knifeLost
  dsimp only
  split
  · exact hdrained.same (by simp) (by simp)
  · exact hdrained

theorem QueueState.releaseCut {s : State} (h : QueueState s) : QueueState (releaseCut s) := by
  have hreleased : QueueState { s with ks := { s.ks with outstanding := none } } := h.same rfl rfl
  have hfired : QueueState (fireIfDue { s with ks := { s.ks with outstanding := none } }) :=
    hreleased.same (by simp) (by simp)
  exact hfired.drainTest

/-- A run that has ended, or has not begun, with an empty queue. -/
theorem QueueState.emptied {s t : State} (h : QueueState s) (hseq : t.sc.nextSeq = s.sc.nextSeq)
    (hspent : t.sc.seqSpent = s.sc.seqSpent) (hq : t.rt.queue = []) (hemboss : t.rt.emboss.regain ≤ 2)
    (hknife : t.rt.knife.regain ≤ 2) : QueueState t :=
  h.of hseq hspent (hq ▸ .nil (Nat.lt_of_le_of_lt (Nat.zero_le _) h.laws.room)) (fun hne => absurd hq hne) hemboss hknife

/-! ### Every effect -/

theorem queueState_reset : QueueState State.reset := by
  refine ⟨.nil (by decide), by decide, by decide, by decide, fun h => absurd rfl h, by decide, by decide⟩

/-- R22, R36: a record takes the counter's value, and the counter advances or is spent. -/
theorem QueueState.createRecord {s : State} (h : QueueState s) (r : Recipe) (prev : Option Capture) (c : Word)
    (hs : s.sc.session = .loaded .running r) (hroom : s.rt.queue.length < Config.queueCapacity)
    (hunspent : s.sc.seqSpent = false) : QueueState (createRecord s r prev c) := by
  have hfree : s.sc.nextFree = s.sc.nextSeq := by simp [SessionControl.nextFree, hunspent]
  have hlaws := h.laws.append (k := newRecord s r prev c) hroom hfree.symm rfl (newRecord_sound s r prev c)
  have hadvance : s.sc.advanceSeq.nextFree = s.sc.nextFree + 1 ∧ 1 ≤ s.sc.advanceSeq.nextSeq ∧
      s.sc.advanceSeq.nextSeq ≤ Config.maxWord ∧
      (s.sc.advanceSeq.seqSpent = true → s.sc.advanceSeq.nextSeq = Config.maxWord) ∧
      s.sc.advanceSeq.session = s.sc.session := by
    have hlow := h.low
    have hhigh := h.high
    rw [hfree]
    unfold SessionControl.advanceSeq SessionControl.nextFree
    split_ifs <;> simp_all
    omega
  obtain ⟨hnext, hlow, hhigh, hspent, hsession⟩ := hadvance
  refine ⟨?_, hlow, hhigh, hspent, fun _ => ?_, h.embossRegain, h.knifeRegain⟩
  · change QueueLaws (s.rt.queue ++ [newRecord s r prev c]) s.sc.advanceSeq.nextFree
    rw [hnext]
    exact hlaws
  · change s.sc.advanceSeq.session.inRun = true
    rw [hsession, hs]
    rfl

theorem clearNow_counter (s : State) (r : Recipe) :
    (clearNow s r).sc.nextSeq = s.sc.nextSeq ∧ (clearNow s r).sc.seqSpent = s.sc.seqSpent := by
  obtain ⟨-, -, -, -, -, -, -, hqueue⟩ := clearQueue_frame s
  obtain ⟨-, -, -, -, -, -, -, hrolls⟩ := clearRolls_frame (clearKnife (clearQueue s))
  have hknife : (clearKnife (clearQueue s)).fixedPart = (clearQueue s).fixedPart := rfl
  have hended : (ercOff (closeAndFreeBatches (clearRolls (clearKnife (clearQueue s))))).fixedPart = s.fixedPart := by
    simp [hrolls, hknife, hqueue]
  obtain ⟨hseq, hspent⟩ := fixedPart_counter (fixedPart_outer hended)
  exact ⟨hseq, hspent⟩

theorem queueState_direct (s t : State) (h : QueueState s) (hd : Direct s t) : QueueState t := by
  have hcompleted : ∀ (o : Outstanding) (e : CutOutcome) (g : HoldFlags) (u : State), u.rt = s.rt →
      u.fixedPart = s.fixedPart → QueueState (completeRolls u o.cut.kind e g) := fun o e g u hrt hfixed =>
    h.same (by simp [hrt]) (by simp [hfixed])
  cases hd with
  | reset cause landed => exact queueState_reset.of rfl rfl queueState_reset.laws nofun (Nat.zero_le _) (Nat.zero_le _)
  | lineEdge w _ =>
    exact QueueState.same (s := { s with wpu := w }) ⟨h.laws, h.low, h.high, h.spent, h.run, h.embossRegain, h.knifeRegain⟩
      (by simp) (by simp)
  | acknowledge o _ =>
    have hdone := hcompleted o .acknowledged ⟨false, false, false⟩ (answerCut s o) rfl rfl
    refine QueueState.releaseCut ?_
    split_ifs
    · exact hdone
    · exact hdone.same rfl rfl
  | timeout o _ =>
    unfold failCut
    dsimp only
    exact (hcompleted o .timedOut HoldFlags.ofCutFault (logEvent (answerCut s o) _) (by simp [answerCut])
      (by rw [logEvent_fixedPart]; rfl)).releaseCut
  | suspend w _ => exact h.same rfl rfl
  | writeEnd w suspending agrees _ =>
    unfold endWrite
    split_ifs <;> exact h.of rfl rfl h.laws h.run h.embossRegain h.knifeRegain
  | attemptEnd c held agrees _ _ =>
    obtain ⟨hrt, -, -, -, -, -, hsession, hseq, hspent⟩ := endAttempt_frame s c held agrees
    exact h.of hseq hspent (hrt ▸ h.laws) (by rw [hrt, hsession]; exact h.run) (hrt ▸ h.embossRegain)
      (hrt ▸ h.knifeRegain)
  | resume => exact h.same rfl rfl
  | clear run r _ =>
    have hrt : (clearNow s r).rt = { s.rt with queue := [], emboss := ⟨.seeking, 0⟩, knife := ⟨.seeking, 0⟩ } := by
      simp [clearNow, clearRolls_frame, clearKnife, clearQueue_frame]
    obtain ⟨hseq, hspent⟩ := clearNow_counter s r
    exact h.emptied hseq hspent (by rw [hrt]) (by simp [hrt]) (by simp [hrt])
  | load i r hrun _ _ _ =>
    have hrt : (loadNow s r).rt = s.rt := by simp [loadNow]
    have hempty : s.rt.queue = [] := by
      by_contra hne
      rw [h.run hne] at hrun
      cases hrun
    obtain ⟨hseq, hspent⟩ := fixedPart_counter (loadNow_outerPart s r)
    exact h.emptied hseq hspent (by rw [hrt, hempty]) (hrt ▸ h.embossRegain) (hrt ▸ h.knifeRegain)
  | startRun r _ hclear =>
    have hempty : s.rt.queue = [] := by
      simp only [State.webClear, Bool.and_eq_true, List.isEmpty_iff] at hclear
      exact hclear.1.1
    have hq : (startRunNow s r).rt.queue = [] := by simp [startRunNow, hempty]
    have hlow : (1 : Nat) ≤ 1 := Nat.le_refl 1
    exact ⟨hq ▸ .nil (Nat.zero_lt_succ 0), hlow, Nat.succ_le_of_lt (Nat.zero_lt_succ _), nofun,
      fun hne => absurd hq hne, Nat.zero_le _, Nat.zero_le _⟩
  | writeRecipe i port image _ _ => exact h.same rfl rfl
  | writeSetup port args g _ => exact h.same rfl rfl
  | seed batch roll _ _ _ _ => exact h.same rfl rfl
  | clearEvents => exact h.same rfl rfl

/-- R47: the record skipped at the knife and the record matched after it. -/
theorem QueueState.knifeSkip {s : State} (h : QueueState s) (r : Recipe) (k n : RepeatRecord) (c : Word) :
    QueueState (knifeSkip s r k n c) := by
  have hlogged : QueueState (logEvent s { code := .knifeMissed, station := .knife, seq := some k.seq }) :=
    h.same (by simp) (by simp)
  exact ((hlogged.handOver r { k with knifeMissed := true } (estimatedCapture r n c)).handOver r n c).drainTest

/-- R48, R51: the knife point enters LOST. -/
theorem QueueState.knifeLose {s : State} (h : QueueState s) (r : Recipe) (k : RepeatRecord) (c : Word) (m : Nat) :
    QueueState (knifeLose s r k c m) := by
  have hput : QueueState ((logTrackLost s .knife k.seq m).putKnife ⟨.lost, 0⟩) :=
    (h.same (t := logTrackLost s .knife k.seq m) (by simp) (by simp)).putKnife _ (Nat.zero_le _)
  have hmarked : QueueState (builderTrackLost ((logTrackLost s .knife k.seq m).putKnife ⟨.lost, 0⟩)) :=
    hput.same (by simp) (by simp)
  exact (hmarked.handOver r { k with untrackedAtKnife := true } c).drainTest

theorem QueueState.flagTail {s : State} (h : QueueState s) : QueueState (flagTail s) := by
  unfold Machine.flagTail
  split
  · next n hn =>
    refine h.written rfl n (fun x => { x with splice := true }) rfl (fun _ => rfl) (fun _ => rfl)
      fun _ _ _ hx => ?_
    exact hx
  · exact h

/-- R25: a flush empties the queue. -/
theorem QueueState.flushNow {s : State} (h : QueueState s) (r : Recipe) : QueueState (flushNow s r) := by
  have hrt : (Machine.flushNow s r).rt = { s.rt with queue := [] } := by
    simp [Machine.flushNow, foldl_flushRecord_frame]
  obtain ⟨hseq, hspent⟩ := fixedPart_counter (flushNow_outerPart s r)
  exact h.emptied hseq hspent (by rw [hrt]) (by rw [hrt]; exact h.embossRegain) (by rw [hrt]; exact h.knifeRegain)

theorem addDefect_keys (k : RepeatRecord) (d : Defect) :
    (k.addDefect d).seq = k.seq ∧ (k.addDefect d).emboss = k.emboss := by
  unfold RepeatRecord.addDefect
  split_ifs <;> exact ⟨rfl, rfl⟩

theorem queueState_effect (s t : State) (h : QueueState s) (he : Effect s t) : QueueState t := by
  cases he with
  | idle => exact h
  | event e => exact h.same (by simp) (by simp)
  | record r prev c hs hroom hunspent => exact h.createRecord r prev c hs hroom hunspent
  | embossSeek r k rest le ca _ _ hk _ => exact h.embossSeek r le ca hk
  | embossMatch r k rest le ca m _ _ hk _ => exact h.embossMatch r le ca m hk
  | embossSkip r k n rest le ca _ _ hk _ => exact h.embossSkip r le ca hk
  | embossLose k rest le m _ hk _ => exact h.embossLose le m hk
  | embossLost k rest le b _ hk _ => exact h.embossLost le b hk
  | knifeSeek r k rest c _ _ _ => exact ((h.putKnife ⟨.sync, s.rt.knife.regain⟩ h.knifeRegain).handOver r k c).drainTest
  | knifeMatch r k rest c _ _ _ => exact (h.handOver r k c).drainTest
  | knifeSkip r k n rest c _ _ _ => exact h.knifeSkip r k n c
  | knifeLose r k rest c m _ _ _ => exact h.knifeLose r k c m
  | knifeLost r k rest c b _ _ _ => exact h.knifeLost r k c b
  | splice => exact h.flagTail
  | periodEnd => exact h.same rfl rfl
  | endRun r _ =>
    have hentered : QueueState (s.enter .draining r) :=
      h.of rfl rfl h.laws (fun _ => rfl) h.embossRegain h.knifeRegain
    exact hentered.drainTest
  | flush r _ => exact h.flushNow r
  | defect n d =>
    exact h.written rfl n (fun y => y.addDefect d) rfl (fun y => (addDefect_keys y d).1)
      (fun k => (addDefect_keys k d).2) fun k _ _ hk => addDefect_sound d hk
  | reading r n k x _ _ _ _ =>
    exact h.written (takeReading_fixedPart s r n x) n
      (fun y => { y with reading := some x, shade := (classify s r n x).2 }) (takeReading_rt s r n x) (fun _ => rfl)
      (fun _ => rfl) fun _ _ _ hk => read_sound x (classify_ne_pending s r n x) hk
  | handLabel n rest _ _ _ => exact h.same rfl rfl
  | labelDone n x _ _ => exact h.same (by simp [removeLabelled]) (removeLabelled_fixedPart ..)
  | accept n x _ _ => exact h.same (by simp [acceptRoll]) (acceptRoll_fixedPart ..)
  | void n x _ _ => exact h.same (by simp [voidRoll]) (voidRoll_fixedPart ..)
  | direct _ hd => exact queueState_direct s t h hd

/-- Settles O55: a record joins at the tail with the next seq, leaves at the head, and passes the emboss point as the
oldest that awaits it. -/
theorem everyStepKeepsTheQueueLaws : Obligations.EveryStepKeepsTheQueueLaws := by
  have hlaw : OfLawPart fun s => QueueSound s ∧ RecordsSound s := fun _ => Iff.rfl
  refine keptByStep_of_effects hlaw fun s t hs he => ?_
  exact (queueState_iff t).mpr (queueState_effect s t ((queueState_iff s).mp hs) he)

end Sys2Proof.Proofs
end

section
/-! PROOFS. The laws of the knife, kept by every step. -/

namespace Sys2Proof.Proofs

open Sys2Proof Sys2Proof.Machine

/-! ### The laws before the head is tested, and before it fires -/

/-- R15, R142: at most 4 cuts, each at or behind the one before it. -/
def CutsOrdered (q : List Cut) : Prop :=
  q.length ≤ Config.knifeCapacity ∧ ∀ p ∈ q.zip q.tail, 0 ≤ signedDistance p.1.pos p.2.pos

/-- The laws of a head that has been tested and has not fired yet. -/
structure HeadTested (s : State) : Prop where
  cuts : CutsOrdered s.ks.queue
  request : s.ks.knifeReq = s.ks.outstanding.isSome
  stray : s.wpu.reach = true → s.ks.queue ≠ []
  ahead : ∀ c ∈ s.ks.queue.head?, s.wpu.reach = false → isReached s.wpu.le c.pos = false

theorem knifeSound_iff (s : State) :
    KnifeSound s ↔ HeadTested s ∧ (s.wpu.reach = true → s.ks.outstanding.isSome = true) := by
  constructor
  · rintro ⟨hcapacity, hrequest, hreach, hahead, hordered⟩
    exact ⟨⟨⟨hcapacity, hordered⟩, hrequest, fun hr => (hreach hr).1, hahead⟩, fun hr => (hreach hr).2⟩
  · rintro ⟨⟨⟨hcapacity, hordered⟩, hrequest, hstray, hahead⟩, hreach⟩
    exact ⟨hcapacity, hrequest, fun hr => ⟨hstray hr, hreach hr⟩, hahead, hordered⟩

theorem headTested_of_sound {s : State} (h : KnifeSound s) : HeadTested s := ((knifeSound_iff s).mp h).1

/-- The laws read the cuts, LE and the reach indication only. -/
theorem knifeSound_congr {s t : State} (hks : t.ks = s.ks) (hle : t.wpu.le = s.wpu.le)
    (hreach : t.wpu.reach = s.wpu.reach) (h : KnifeSound s) : KnifeSound t := by
  unfold KnifeSound at *
  rwa [hks, hle, hreach]

theorem headTested_congr {s t : State} (hks : t.ks = s.ks) (hwpu : t.wpu = s.wpu) (h : HeadTested s) : HeadTested t := by
  obtain ⟨hcuts, hrequest, hstray, hahead⟩ := h
  exact ⟨hks ▸ hcuts, hks ▸ hrequest, by rwa [hks, hwpu], by rwa [hks, hwpu]⟩

/-- R15: the queue behind the head is ordered as the whole is. -/
theorem CutsOrdered.tail {c : Cut} {q : List Cut} (h : CutsOrdered (c :: q)) : CutsOrdered q := by
  obtain ⟨hcapacity, hordered⟩ := h
  refine ⟨Nat.le_of_succ_le hcapacity, ?_⟩
  cases q with
  | nil => simp
  | cons d q => exact fun p hp => hordered p (List.mem_cons_of_mem _ hp)

theorem zip_tail_concat (q : List Cut) (c : Cut) : ∀ p ∈ (q ++ [c]).zip (q ++ [c]).tail,
    p ∈ q.zip q.tail ∨ ∃ d, q.getLast? = some d ∧ p = (d, c) := by
  induction q with
  | nil => simp
  | cons a q ih =>
    cases q with
    | nil => simp
    | cons b q =>
      intro p hp
      rcases List.mem_cons.mp hp with rfl | hp
      · exact .inl List.mem_cons_self
      · rcases ih p hp with hp | ⟨d, hd, hp⟩
        · exact .inl (List.mem_cons_of_mem _ hp)
        · exact .inr ⟨d, by simpa using hd, hp⟩

/-- R142: a cut raised to the reference position lies at or behind the tail cut. -/
theorem raised_after (ks : KnifeSequencer) (c d : Cut) (hd : ks.queue.getLast? = some d) :
    0 ≤ signedDistance d.pos (ks.raised c).pos := by
  have href : ks.reference = some d.pos := by simp [KnifeSequencer.reference, hd]
  unfold KnifeSequencer.raised
  simp only [href]
  split_ifs with hbefore
  · rw [signedDistance_self]
  · exact not_lt.mp hbefore

theorem CutsOrdered.place {ks : KnifeSequencer} (h : CutsOrdered ks.queue) (c : Cut)
    (hroom : ks.queue.length < Config.knifeCapacity) : CutsOrdered (ks.queue ++ [ks.raised c]) := by
  obtain ⟨-, hordered⟩ := h
  refine ⟨by rw [List.length_append]; exact hroom, fun p hp => ?_⟩
  rcases zip_tail_concat _ _ p hp with hp | ⟨d, hd, rfl⟩
  · exact hordered p hp
  · exact raised_after ks c d hd

/-! ### Reach, fire, place and release -/

/-- R14, R16: the test of the head. -/
theorem headTested_reachTest {s : State} (hcuts : CutsOrdered s.ks.queue)
    (hrequest : s.ks.knifeReq = s.ks.outstanding.isSome) : HeadTested (reachTest s) := by
  refine ⟨hcuts, hrequest, ?_, ?_⟩
  · unfold reachTest
    cases s.ks.queue <;> simp
  · unfold reachTest
    cases s.ks.queue <;> simp

theorem markLate_wpu (s : State) (o : Outstanding) : (markLate s o).wpu = s.wpu := by
  unfold markLate addHold
  split_ifs
  · split <;> simp
  · rfl

/-- R145: after a fire the laws hold. -/
theorem knifeSound_fireIfDue {s : State} (h : HeadTested s) : KnifeSound (fireIfDue s) := by
  rw [knifeSound_iff]
  unfold fireIfDue
  split
  · next c rest hq _ _ =>
    have hfired : HeadTested (markLate (reachTest { s with
        ks := { s.ks with queue := rest, outstanding := some (s.outstandingOf c), knifeReq := true }
        wpu := { s.wpu with reach := false } }) (s.outstandingOf c)) := by
      refine headTested_congr (by simp) (markLate_wpu _ _) (headTested_reachTest ?_ rfl)
      have hcuts := h.cuts
      rw [hq] at hcuts
      exact hcuts.tail
    exact ⟨hfired, fun _ => by simp [reachTest]⟩
  · next hnot =>
    refine ⟨h, fun hr => ?_⟩
    cases hq : s.ks.queue with
    | nil => exact absurd hq (h.stray hr)
    | cons c rest =>
      cases ho : s.ks.outstanding with
      | none => exact (hnot c rest hq ho hr).elim
      | some o => rfl

theorem knifeSound_knifeCompare {s : State} (hcuts : CutsOrdered s.ks.queue)
    (hrequest : s.ks.knifeReq = s.ks.outstanding.isSome) : KnifeSound (knifeCompare s) :=
  knifeSound_fireIfDue (headTested_reachTest hcuts hrequest)

theorem knifeSound_placeCut {s : State} (c : Cut) (hroom : s.ks.queue.length < Config.knifeCapacity)
    (h : KnifeSound s) : KnifeSound (placeCut s (s.ks.raised c)) := by
  obtain ⟨⟨hcuts, hrequest, hstray, hahead⟩, hreach⟩ := (knifeSound_iff s).mp h
  have hplaced := hcuts.place c hroom
  unfold placeCut
  dsimp only
  split_ifs with hempty
  · exact knifeSound_knifeCompare (by rwa [recordPositions_ks]) (by rwa [recordPositions_ks])
  · rw [knifeSound_iff]
    refine ⟨⟨by rwa [recordPositions_ks], by rwa [recordPositions_ks], ?_, ?_⟩, ?_⟩
    · simp
    · have hhead : (s.ks.queue ++ [s.ks.raised c]).head? = s.ks.queue.head? := by
        cases hq : s.ks.queue with
        | nil => simp [hq] at hempty
        | cons d q => rfl
      simpa only [recordPositions_ks, recordPositions_wpu, hhead] using hahead
    · simpa only [recordPositions_ks, recordPositions_wpu] using hreach

theorem knifeSound_small (s t : State) (h : KnifeSound s) (hst : Small s t) : KnifeSound t := by
  cases hst with
  | quiet _ hq =>
    obtain ⟨-, hks, -, hle, hreach, -⟩ := hq
    exact knifeSound_congr hks hle hreach h
  | log e => exact knifeSound_congr (by simp) (by simp) (by simp) h
  | recover st => exact knifeSound_congr (by simp) (by simp) (by simp) h
  | place c hroom => exact knifeSound_placeCut c hroom h
  | reserveRoll _ _ => exact knifeSound_congr rfl rfl rfl h
  | reserveBatch _ _ => exact knifeSound_congr rfl rfl rfl h
  | enter run r _ => exact knifeSound_congr rfl rfl rfl h

theorem addHold_wpu (s : State) (n : Option Nat) (g : HoldFlags) : (addHold s n g).wpu = s.wpu := by
  cases n <;> rfl

theorem completeRolls_wpu (s : State) (k : CutKind) (o : CutOutcome) (g : HoldFlags) :
    (completeRolls s k o g).wpu = s.wpu := by
  unfold completeRolls
  dsimp only
  split <;> simp [addHold_wpu, completeEnding_wpu]

/-- R147, R148: the outstanding cut goes, and KNIFE_REQ with it. -/
theorem knifeSound_releaseCut {s t : State} (h : KnifeSound s) (hwpu : t.wpu = s.wpu) (hq : t.ks.queue = s.ks.queue)
    (hreq : t.ks.knifeReq = false) : KnifeSound (releaseCut t) := by
  obtain ⟨hcuts, -, hstray, hahead⟩ := headTested_of_sound h
  have hreleased : HeadTested { t with ks := { t.ks with outstanding := none } } :=
    ⟨hq ▸ hcuts, hreq, by rwa [hq, hwpu], by rwa [hq, hwpu]⟩
  exact (drainTest_chain _).keeps knifeSound_small (knifeSound_fireIfDue hreleased)

/-! ### Every effect -/

theorem knifeSound_emptied {t : State} (hks : t.ks = ⟨[], none, false, .waste⟩) (hreach : t.wpu.reach = false) :
    KnifeSound t := by
  unfold KnifeSound
  rw [hks, hreach]
  simp

theorem setErc_wpu (s : State) (c : Erc) : (setErc s c).wpu = s.wpu := by
  unfold setErc
  dsimp only
  split_ifs <;> rfl

/-- CLEAR LINE leaves no reach reported. -/
theorem clearNow_reach (s : State) (r : Recipe) : (clearNow s r).wpu.reach = false := by
  have hrolls : (clearRolls (clearKnife (clearQueue s))).wpu.reach = false :=
    foldl_keeps (fun t (x : Roll) => lowerRolls t x.batch) (fun t : State => t.wpu.reach) (fun _ _ => rfl) _
      (clearKnife (clearQueue s))
  have hfreed : ∀ t : State, (closeAndFreeBatches t).wpu = t.wpu := by
    intro t
    unfold closeAndFreeBatches
    split_ifs <;> rfl
  simp [clearNow, ercOff_eq, hfreed, hrolls]

theorem knifeSound_direct (s t : State) (h : KnifeSound s) (hd : Direct s t) : KnifeSound t := by
  cases hd with
  | reset cause landed => exact knifeSound_emptied rfl rfl
  | lineEdge w _ =>
    obtain ⟨hcuts, hrequest, -, -⟩ := headTested_of_sound h
    exact knifeSound_knifeCompare hcuts hrequest
  | acknowledge o _ =>
    unfold acknowledgeCut
    dsimp only
    refine knifeSound_releaseCut h ?_ ?_ ?_
    all_goals split_ifs <;> simp [completeRolls_wpu, answerCut]
  | timeout o _ =>
    unfold failCut
    dsimp only
    refine knifeSound_releaseCut h ?_ ?_ ?_
    all_goals simp [completeRolls_wpu, answerCut]
  | suspend w _ => exact knifeSound_congr rfl rfl rfl h
  | writeEnd w suspending agrees _ =>
    unfold endWrite
    split_ifs <;> exact knifeSound_congr rfl rfl rfl h
  | attemptEnd c held agrees _ _ =>
    obtain ⟨-, -, -, -, hks, hwpu, -, -, -⟩ := endAttempt_frame s c held agrees
    exact knifeSound_congr hks (by rw [hwpu]) (by rw [hwpu]) h
  | resume => exact knifeSound_congr rfl rfl rfl h
  | clear run r _ =>
    refine knifeSound_emptied ?_ (clearNow_reach s r)
    simp [clearNow, clearRolls_frame, clearKnife]
  | load i r _ _ _ _ =>
    obtain ⟨-, hks, -, hle, hreach, -⟩ : Quiet s (ercOff s) := quiet_setErc s _
    exact knifeSound_congr hks hle hreach h
  | startRun r _ _ =>
    have hwpu : (startRunNow s r).wpu = s.wpu := by
      unfold startRunNow ercStart
      split_ifs <;> simp [setErc_wpu]
    exact knifeSound_congr (by simp [startRunNow]) (by rw [hwpu]) (by rw [hwpu]) h
  | writeRecipe i port image _ _ => exact knifeSound_congr rfl rfl rfl h
  | writeSetup port args g _ => exact knifeSound_congr rfl rfl rfl h
  | seed batch roll _ _ _ _ => exact knifeSound_congr rfl rfl rfl h
  | clearEvents => exact knifeSound_congr rfl rfl rfl h

theorem knifeSound_ofLawPart : OfLawPart KnifeSound := fun _ => Iff.rfl

/-- Settles O56: every small operation and every effect on a whole block leaves the head tested, and fired when it is
reached and no cut is outstanding. -/
theorem everyStepKeepsTheKnifeLaws : Obligations.EveryStepKeepsTheKnifeLaws :=
  keptByStep_of_effects knifeSound_ofLawPart (effect_keeps knifeSound_small knifeSound_direct)

end Sys2Proof.Proofs
end

section
/-! PROOFS. The laws of the Persistent Store, kept by every step. -/

namespace Sys2Proof.Proofs

open Sys2Proof Sys2Proof.Machine

/-! ### Ranges of what a request brings -/

theorem repeatsOf_isSome (code : BitVec 2) : (repeatsOf code).isSome = true ↔ code.toNat ≠ 3 := by
  revert code
  decide

/-- R176: the test of the structural fields. -/
theorem structuralOk_iff (m : RecipeImage) : structuralOk m = true ↔ StructuralInRange m := by
  unfold structuralOk StructuralInRange
  simp only [Bool.and_eq_true, decide_eq_true_eq, Bool.or_eq_true, Bool.not_eq_true', repeatsOf_isSome]
  cases hdrop : m.drop
  · simp [and_assoc]
  · simp [and_assoc, Nat.one_le_iff_ne_zero]

theorem clampNat_between {lo hi : Nat} (h : lo ≤ hi) (n : Nat) : lo ≤ clampNat lo hi n ∧ clampNat lo hi n ≤ hi := by
  unfold clampNat
  omega

/-- R176: a clamped recipe of structural fields in range lies in range. -/
theorem clampedRecipe_inRange {m : RecipeImage} (h : StructuralInRange m) : (clampedRecipe m).InRange := by
  obtain ⟨hnom, hnom', htol, htol', hdrop, hord, hord', hshort, -, hcc, hcc'⟩ := h
  have hlock := clampNat_between (lo := 1) (hi := 2047) (by omega) m.wLock.toNat
  have hcap := clampNat_between (lo := clampNat 1 2047 m.wLock.toNat) (hi := 20000) (by omega) m.wCap.toNat
  have hsl := clampNat_between (lo := 1) (hi := 127) (by omega) m.sl.toNat
  have hdb := clampNat_between (lo := 0) (hi := 63) (by omega) m.db.toNat
  have hetol := clampNat_between (lo := 1) (hi := 2047) (by omega) m.eTol.toNat
  have ht := clampNat_between (lo := 10) (hi := 2000) (by omega) m.t.toNat
  have hlearn := clampNat_between (lo := 1) (hi := 16) (by omega) m.nLearn.toNat
  have hslots := clampNat_between (lo := 1) (hi := 4) (by omega) m.bSlots.toNat
  have hmode : matchModeOf m.drop = .drop → 1 ≤ m.drop16.toNat := by
    cases hm : m.drop
    · exact nofun
    · exact fun _ => Nat.one_le_iff_ne_zero.mpr (hdrop hm)
  exact ⟨hnom, hnom', htol, htol', hmode, Nat.le_of_lt_succ m.drop16.isLt, Nat.le_of_lt_succ m.phiCut.isLt, hord, hord',
    hshort, hcc, hcc', Nat.le_of_lt_succ m.aT.isLt, hdb.2, Nat.le_of_lt_succ m.kp.isLt, Nat.le_of_lt_succ m.ki.isLt,
    hsl.1, hsl.2, hlock.1, hlock.2, hcap.1, hcap.2, hetol.1, hetol.2, ht.1, ht.2, hlearn.1, hlearn.2, hslots.1, hslots.2⟩

/-- R178: a clamped setup lies in range. -/
theorem clampedSetup_inRange (u : SetupArgs) (g : GroupActions) : (clampedSetup u g).InRange := by
  have hmax := clampNat_between (lo := 0) (hi := 50000) (by omega) u.sMax.toNat
  have htol := clampNat_between (lo := 1) (hi := 4000) (by omega) u.cTol.toNat
  have hknife := clampNat_between (lo := 5) (hi := 250) (by omega) u.tKnife.toNat
  have hlate := clampNat_between (lo := 0) (hi := 4000) (by omega) u.lateTol.toNat
  exact ⟨hmax.2, htol.1, htol.2, hknife.1, hknife.2, hlate.2⟩

theorem forall_mem_none {α : Type} {p : α → Prop} : ∀ a ∈ (none : Option α), p a := nofun

/-- No suspension is due where none is in the operation state. -/
theorem not_suspending {op : StoreOp} {p : Prop} (h : ∀ w, op ≠ .writing w true) : ∀ w, op = .writing w true → p :=
  fun w hw => absurd hw (h w)

/-! ### Recipe slots -/

theorem slot_setSlot_same (a : StoreArray) (i : Fin 8) (v : Option Recipe) : (a.setSlot i v).slot i = v := by
  simp [StoreArray.slot, StoreArray.setSlot]

theorem slot_setSlot_other (a : StoreArray) {i j : Fin 8} (v : Option Recipe) (h : j ≠ i) :
    (a.setSlot i v).slot j = a.slot j := by
  have hne : (i : Nat) ≠ j := fun heq => h (Fin.ext heq.symm)
  simp [StoreArray.slot, StoreArray.setSlot, hne]

/-- Every recipe of the array satisfies `p`, when the old ones and a new one do. -/
theorem forall_slot_setSlot {a : StoreArray} {p : Recipe → Prop} (h : ∀ i, ∀ r ∈ a.slot i, p r) (j : Fin 8)
    {v : Option Recipe} (hv : ∀ r ∈ v, p r) : ∀ i, ∀ r ∈ (a.setSlot j v).slot i, p r := by
  intro i r hr
  by_cases hij : i = j
  · subst hij
    rw [slot_setSlot_same] at hr
    exact hv r hr
  · rw [slot_setSlot_other a v hij] at hr
    exact h i r hr

/-! ### The laws as one structure -/

/-- R181 to R183: a commit series in flight over a store. -/
def CommitSeries.InFlight (c : CommitSeries) (ps : PersistentStore) : Prop :=
  c.failures ≤ 2 ∧ (∃ r ∈ ps.reserved, c.values.Le r) ∧ (∀ m ∈ ps.mirror, m.Le c.values) ∧
    ps.array.counters = none ∧ (c.seeded = true → ps.validity = .invalid)

/-- The laws of the store beside a session. -/
structure StoreLaws (x : Session) (ps : PersistentStore) : Prop where
  valid : ps.validity = .valid ↔ ps.mirror.isSome = true
  mirror : ∀ m ∈ ps.mirror, ∃ r ∈ ps.reserved, m.Le r
  series : ∀ c ∈ ps.op.series?, CommitSeries.InFlight c ps
  block : ∀ v ∈ ps.array.counters, ps.mirror = some v
  loaded : x ≠ .unloaded → ps.validity = .valid
  bounds : ∀ r ∈ ps.reserved, r.batch ≤ Config.maxBatchCode ∧ r.roll ≤ Config.maxWord
  failures : ps.failures ≤ 255
  pending : ps.commitPending = true → ps.reserved.isSome = true
  suspending : ∀ w, ps.op = .writing w true → ps.reserved.isSome = true
  write : ∀ w ∈ ps.op.write?, w.target.Agrees ps
  stored : ps.setupStored = true → ps.array.setup = some ps.setup
  recipe : ∀ r ∈ x.recipe?, r.InRange
  setup : ps.setup.InRange
  slots : ∀ i, ∀ r ∈ ps.array.slot i, r.InRange
  arraySetup : ∀ u ∈ ps.array.setup, u.InRange
  target : ∀ w ∈ ps.op.write?, w.target.InRange

/-- The store laws of a state. -/
def StoreSound (s : State) : Prop := CountersSound s ∧ WritesSound s ∧ FieldsInRange s

theorem storeSound_iff (s : State) : StoreSound s ↔ StoreLaws s.sc.session s.ps := by
  constructor
  · rintro ⟨⟨hvalid, hmirror, hseries, hblock, hloaded, hbounds, hfailures, hpending, hsuspending⟩, ⟨hwrite, hstored⟩,
      hrecipe, hsetup, hslots, harray, htarget⟩
    exact ⟨hvalid, hmirror, hseries, hblock, hloaded, hbounds, hfailures, hpending, hsuspending, hwrite, hstored,
      hrecipe, hsetup, hslots, harray, htarget⟩
  · rintro ⟨hvalid, hmirror, hseries, hblock, hloaded, hbounds, hfailures, hpending, hsuspending, hwrite, hstored,
      hrecipe, hsetup, hslots, harray, htarget⟩
    exact ⟨⟨hvalid, hmirror, hseries, hblock, hloaded, hbounds, hfailures, hpending, hsuspending⟩, ⟨hwrite, hstored⟩,
      hrecipe, hsetup, hslots, harray, htarget⟩

section
variable {x : Session} {ps : PersistentStore}

theorem StoreLaws.session {y : Session} (h : StoreLaws x ps) (hloaded : y ≠ .unloaded → ps.validity = .valid)
    (hrecipe : ∀ r ∈ y.recipe?, r.InRange) : StoreLaws y ps :=
  { h with loaded := hloaded, recipe := hrecipe }

/-- R175, R179: the reserved counters are known while the validity is VALID. -/
theorem StoreLaws.reserved_of_valid (h : StoreLaws x ps) (hv : ps.validity = .valid) : ∃ r, ps.reserved = some r := by
  obtain ⟨m, hm⟩ := Option.isSome_iff_exists.mp (h.valid.mp hv)
  obtain ⟨r, hr, -⟩ := h.mirror m hm
  exact ⟨r, hr⟩

/-- R175: the reserved counters rise. -/
theorem StoreLaws.reserve {r r' : Counters} (h : StoreLaws x ps) (hr : ps.reserved = some r) (hle : r.Le r')
    (hbatch : r'.batch ≤ Config.maxBatchCode) (hroll : r'.roll ≤ Config.maxWord) :
    StoreLaws x { ps with reserved := some r' } := by
  have hrise : ∀ v : Counters, (∃ y ∈ ps.reserved, v.Le y) → ∃ y ∈ some r', v.Le y := by
    rintro v ⟨y, hy, hvy⟩
    obtain rfl : r = y := Option.some.inj (hr.symm.trans hy)
    exact ⟨r', rfl, Nat.le_trans hvy.1 hle.1, Nat.le_trans hvy.2 hle.2⟩
  refine { h with
    mirror := fun m hm => hrise m (h.mirror m hm), series := fun c hc => ?_, bounds := ?_
    pending := fun _ => rfl, suspending := fun _ _ => rfl }
  · obtain ⟨hfailures, hvalues, hrest⟩ := h.series c hc
    exact ⟨hfailures, hrise c.values hvalues, hrest⟩
  · rintro y hy
    obtain rfl : r' = y := Option.some.inj hy
    exact ⟨hbatch, hroll⟩

theorem reservedNow_of_some {r : Counters} (hr : ps.reserved = some r) : ps.reservedNow = r := by
  simp [PersistentStore.reservedNow, hr]

/-- R182: an attempt starts with the reserved counters, over the write given. -/
theorem StoreLaws.startAttempt {held : Option StoreWrite} (h : StoreLaws x ps) (hr : ps.reserved.isSome = true)
    (hheld : ps.op.write? = held) (n : Nat) (hn : n ≤ 2) (seeded : Bool)
    (hseeded : seeded = true → ps.validity = .invalid) : StoreLaws x (ps.startAttempt n seeded held) := by
  obtain ⟨r, hr⟩ := Option.isSome_iff_exists.mp hr
  have hstarted : CommitSeries.InFlight ⟨ps.reservedNow, n, seeded⟩ (ps.startAttempt n seeded held) := by
    refine ⟨hn, ⟨r, hr, ?_⟩, fun m hm => ?_, rfl, hseeded⟩
    · rw [reservedNow_of_some hr]
      exact ⟨Nat.le_refl _, Nat.le_refl _⟩
    · obtain ⟨y, hy, hmy⟩ := h.mirror m hm
      obtain rfl : r = y := Option.some.inj (hr.symm.trans hy)
      rw [reservedNow_of_some hr]
      exact hmy
  subst hheld
  cases hop : ps.op.write? with
  | none =>
    rw [hop] at hstarted
    exact { h with
      series := fun c hc => Option.some.inj hc ▸ hstarted, block := forall_mem_none,
      suspending := not_suspending (by simp [PersistentStore.startAttempt])
      write := forall_mem_none, target := forall_mem_none }
  | some w =>
    rw [hop] at hstarted
    exact { h with
      series := fun c hc => Option.some.inj hc ▸ hstarted, block := forall_mem_none,
      suspending := not_suspending (by simp [PersistentStore.startAttempt])
      write := fun v hv => by
        obtain rfl : w = v := Option.some.inj hv
        have hagrees := h.write w hop
        unfold WriteTarget.Agrees at *
        split at hagrees <;> exact hagrees
      target := fun v hv => by
        obtain rfl : w = v := Option.some.inj hv
        exact h.target w hop }

theorem StoreLaws.startSeries {held : Option StoreWrite} (h : StoreLaws x ps) (hr : ps.reserved.isSome = true)
    (hheld : ps.op.write? = held) (seeded : Bool) (hseeded : seeded = true → ps.validity = .invalid) :
    StoreLaws x (ps.startSeries seeded held) :=
  StoreLaws.startAttempt (ps := { ps with commitPending := false }) { h with pending := nofun } hr hheld 0
    (Nat.zero_le 2) seeded hseeded

/-- R181: a commit request. -/
theorem StoreLaws.requestCommit (h : StoreLaws x ps) (hr : ps.reserved.isSome = true) : StoreLaws x ps.requestCommit := by
  unfold PersistentStore.requestCommit
  split
  · next hop => exact h.startSeries hr (by rw [hop]; rfl) false nofun
  · next w b hop =>
    exact { h with
      series := forall_mem_none, suspending := fun _ _ => hr
      write := fun v hv => h.write v (by rw [hop]; exact hv)
      target := fun v hv => h.target v (by rw [hop]; exact hv) }
  · exact { h with pending := fun _ => hr }
  · exact { h with pending := fun _ => hr }

theorem StoreLaws.reserveRoll (h : StoreLaws x ps) (hx : x ≠ .unloaded) (hroom : ps.reservedNow.roll < Config.maxWord) :
    StoreLaws x ps.reserveRoll := by
  obtain ⟨r, hr⟩ := h.reserved_of_valid (h.loaded hx)
  have hnow := reservedNow_of_some hr
  refine StoreLaws.requestCommit (h.reserve hr ⟨?_, ?_⟩ ?_ ?_) rfl
  · rw [hnow]
  · rw [hnow]
    exact Nat.le_succ _
  · rw [hnow]
    exact (h.bounds r hr).1
  · exact hroom

theorem StoreLaws.reserveBatch (h : StoreLaws x ps) (hx : x ≠ .unloaded)
    (hroom : ps.reservedNow.batch < Config.maxBatchCode) : StoreLaws x ps.reserveBatch := by
  obtain ⟨r, hr⟩ := h.reserved_of_valid (h.loaded hx)
  have hnow := reservedNow_of_some hr
  refine StoreLaws.requestCommit (h.reserve hr ⟨?_, ?_⟩ ?_ ?_) rfl
  · rw [hnow]
    exact Nat.le_succ _
  · rw [hnow]
  · exact hroom
  · rw [hnow]
    exact (h.bounds r hr).2

/-! ### Writes -/

/-- R177, R178: a write starts, its content invalid in the array. -/
theorem StoreLaws.startWrite {w : StoreWrite} (h : StoreLaws x ps) (htarget : w.target.InRange)
    (hsetup : ∀ u, w.target = .setup u → u = ps.setup ∧ ps.setupStored = false) : StoreLaws x (ps.startWrite w) := by
  cases hw : w.target with
  | recipe i r =>
    have hstart : ps.startWrite w = { ps with array := ps.array.setSlot i none, op := .writing w false } := by
      simp only [PersistentStore.startWrite, hw]
    rw [hstart]
    exact { h with
      series := forall_mem_none, suspending := not_suspending (by simp)
      write := fun v hv => by
        obtain rfl : w = v := Option.some.inj hv
        simp only [hw, WriteTarget.Agrees]
        exact slot_setSlot_same ps.array i none
      slots := forall_slot_setSlot h.slots i nofun
      target := fun v hv => Option.some.inj hv ▸ htarget }
  | setup u =>
    obtain ⟨hforce, hunstored⟩ := hsetup u hw
    have hstart : ps.startWrite w = { ps with array := { ps.array with setup := none }, op := .writing w false } := by
      simp only [PersistentStore.startWrite, hw]
    rw [hstart]
    exact { h with
      series := forall_mem_none, suspending := not_suspending (by simp)
      write := fun v hv => by
        obtain rfl : w = v := Option.some.inj hv
        simp only [hw, WriteTarget.Agrees]
        exact ⟨trivial, hforce⟩
      stored := fun hst => by simp [hunstored] at hst
      arraySetup := forall_mem_none
      target := fun v hv => Option.some.inj hv ▸ htarget }

/-- No operation is left in flight. -/
theorem StoreLaws.idle (h : StoreLaws x ps) : StoreLaws x { ps with op := .idle } :=
  { h with
    series := forall_mem_none, suspending := not_suspending (by simp), write := forall_mem_none,
    target := forall_mem_none }

/-- A suspended write goes on, or nothing is left in flight. -/
theorem StoreLaws.goOn {w : StoreWrite} (h : StoreLaws x ps) (hw : ps.op.write? = some w) :
    StoreLaws x { ps with op := .writing w false } :=
  { h with
    series := forall_mem_none, suspending := not_suspending (by simp)
    write := fun v hv => h.write v (hw.trans hv)
    target := fun v hv => h.target v (hw.trans hv) }

/-- R177, R178: the content of a write becomes valid in the array. -/
theorem StoreLaws.finishWrite {w : StoreWrite} (h : StoreLaws x ps) (hw : ps.op.write? = some w) :
    StoreLaws x { ps.finishWrite w with op := .idle } := by
  have hagrees := h.write w hw
  have hrange := h.target w hw
  cases ht : w.target with
  | recipe i r =>
    have hfinish : ps.finishWrite w = { ps with array := ps.array.setSlot i (some r) } := by
      simp only [PersistentStore.finishWrite, ht]
    rw [ht] at hrange
    rw [hfinish]
    exact { h.idle with
      write := forall_mem_none
      slots := forall_slot_setSlot h.slots i fun y hy => Option.some.inj hy ▸ hrange }
  | setup u =>
    have hfinish : ps.finishWrite w =
        { ps with array := { ps.array with setup := some u }, setupStored := true } := by
      simp only [PersistentStore.finishWrite, ht]
    rw [ht] at hrange hagrees
    rw [hfinish]
    obtain ⟨-, hforce⟩ := hagrees
    exact { h.idle with
      write := forall_mem_none
      stored := fun _ => congrArg some hforce
      arraySetup := fun y hy => Option.some.inj hy ▸ hrange }

/-- R184: what runs after a write. -/
theorem StoreLaws.afterWrite {b : Bool} (h : StoreLaws x { ps with op := .idle })
    (hr : (ps.commitPending || b) = true → ps.reserved.isSome = true) : StoreLaws x (ps.afterWrite b) := by
  unfold PersistentStore.afterWrite
  split_ifs with hnext
  · exact StoreLaws.startSeries (ps := { ps with op := .idle }) h (hr hnext) rfl false nofun
  · exact h

/-! ### Commits -/

/-- R182: the values written stand in the block and in the mirror. -/
theorem StoreLaws.confirm {c : CommitSeries} (h : StoreLaws x ps) (hc : ps.op.series? = some c) :
    StoreLaws x { ps.confirm c.values with op := .idle } := by
  obtain ⟨-, hvalues, -⟩ := h.series c hc
  exact { h.idle with
    valid := ⟨fun _ => rfl, fun _ => rfl⟩
    mirror := fun m hm => Option.some.inj hm ▸ hvalues
    series := forall_mem_none
    block := fun v hv => hv
    loaded := fun _ => rfl
    failures := Nat.zero_le 255 }

/-- R184: the write under a series goes on after it. -/
theorem StoreLaws.confirmOver {c : CommitSeries} {w : StoreWrite} (h : StoreLaws x ps) (hc : ps.op.series? = some c)
    (hw : ps.op.write? = some w) : StoreLaws x { ps.confirm c.values with op := .writing w false } :=
  { h.confirm hc with
    suspending := not_suspending (by simp)
    write := fun v hv => by
      obtain rfl : w = v := Option.some.inj hv
      have hagrees := h.write w hw
      unfold WriteTarget.Agrees at *
      split at hagrees <;> exact hagrees
    target := fun v hv => h.target v (hw.trans hv) }

theorem StoreLaws.afterSuccess {c : CommitSeries} {held : Option StoreWrite} (h : StoreLaws x ps)
    (hc : ps.op.series? = some c) (hheld : ps.op.write? = held) :
    StoreLaws x ((ps.confirm c.values).afterSuccess held) := by
  unfold PersistentStore.afterSuccess
  cases held with
  | none =>
    dsimp only
    split_ifs with hpending
    · exact StoreLaws.startSeries (ps := { ps.confirm c.values with op := .idle }) (h.confirm hc) (h.pending hpending) rfl
        false nofun
    · exact h.confirm hc
  | some w =>
    dsimp only
    split_ifs with hpending
    · exact StoreLaws.startSeries (ps := { ps.confirm c.values with op := .writing w false }) (h.confirmOver hc hheld)
        (h.pending hpending) rfl false nofun
    · exact h.confirmOver hc hheld

theorem StoreLaws.countFailure (h : StoreLaws x ps) : StoreLaws x ps.countFailure :=
  { h with failures := satAdd_le _ _ _ }

/-- R183, R184: the third failure leaves a commit pending, and what was suspended goes on. -/
theorem StoreLaws.afterFailedSeries {held : Option StoreWrite} (h : StoreLaws x ps) (hr : ps.reserved.isSome = true)
    (hheld : ps.op.write? = held) : StoreLaws x ({ ps with commitPending := true }.afterFailedSeries held) := by
  have hpending : StoreLaws x { ps with commitPending := true } := { h with pending := fun _ => hr }
  unfold PersistentStore.afterFailedSeries
  cases held with
  | none => exact hpending.idle
  | some w => exact hpending.goOn hheld

/-- R179: at a device reset the counters restart from the block found. -/
theorem StoreLaws.reset (h : StoreLaws x ps) (landed : Bool) :
    StoreLaws .unloaded (PersistentStore.afterReset (ps.arrayAtReset landed)) := by
  have hcounters : ∀ v ∈ (ps.arrayAtReset landed).counters, v.batch ≤ Config.maxBatchCode ∧ v.roll ≤ Config.maxWord := by
    have hreserved : ∀ v : Counters, (∃ r ∈ ps.reserved, v.Le r) →
        v.batch ≤ Config.maxBatchCode ∧ v.roll ≤ Config.maxWord := by
      rintro v ⟨r, hr, hle⟩
      exact ⟨Nat.le_trans hle.1 (h.bounds r hr).1, Nat.le_trans hle.2 (h.bounds r hr).2⟩
    have hold : ∀ v ∈ ps.array.counters, v.batch ≤ Config.maxBatchCode ∧ v.roll ≤ Config.maxWord := fun v hv =>
      hreserved v (h.mirror v (h.block v hv))
    unfold PersistentStore.arrayAtReset
    split
    · exact hold
    · exact hold
    all_goals
      next hop =>
      split_ifs
      · intro v hv
        obtain rfl := Option.some.inj hv
        exact hreserved _ (h.series _ (by rw [hop]; rfl)).2.1
      · exact hold
  have harray : (ps.arrayAtReset landed).setup = ps.array.setup ∧ (ps.arrayAtReset landed).slots = ps.array.slots := by
    unfold PersistentStore.arrayAtReset
    split
    · exact ⟨rfl, rfl⟩
    · exact ⟨rfl, rfl⟩
    all_goals split_ifs <;> exact ⟨rfl, rfl⟩
  obtain ⟨hsetup, hslots⟩ := harray
  generalize ps.arrayAtReset landed = a at hcounters hsetup hslots
  exact {
    valid := by cases hc : a.counters <;> simp [PersistentStore.afterReset, hc]
    mirror := fun m hm => ⟨m, hm, Nat.le_refl _, Nat.le_refl _⟩
    series := forall_mem_none
    block := fun v hv => hv
    loaded := fun hne => absurd rfl hne
    bounds := hcounters
    failures := Nat.zero_le 255
    pending := nofun
    suspending := fun _ hop => StoreOp.noConfusion hop
    write := forall_mem_none
    stored := fun hst => by
      obtain ⟨u, hu⟩ := Option.isSome_iff_exists.mp hst
      simp [PersistentStore.afterReset, hu]
    recipe := forall_mem_none
    setup := by
      cases hu : a.setup with
      | none =>
        simp only [PersistentStore.afterReset, hu, Option.getD_none]
        unfold Setup.InRange
        decide
      | some u =>
        simp only [PersistentStore.afterReset, hu, Option.getD_some]
        exact h.arraySetup u (hsetup ▸ hu)
    slots := fun i r hr => by
      refine h.slots i r ?_
      unfold StoreArray.slot at *
      rwa [← hslots]
    arraySetup := fun u hu => h.arraySetup u (hsetup ▸ hu)
    target := forall_mem_none }

end

/-! ### Every effect -/

theorem storeSound_small (s t : State) (h : StoreSound s) (hst : Small s t) : StoreSound t := by
  rw [storeSound_iff] at h ⊢
  cases hst with
  | quiet _ hq =>
    obtain ⟨-, -, hps, -, -, hsession⟩ := hq
    rwa [hps, hsession]
  | log e =>
    rw [logEvent_ps]
    exact h
  | recover st =>
    rw [recoverStation_ps, fixedPart_session (recoverStation_fixedPart s st)]
    exact h
  | place c _ =>
    rw [(placeCut_frame s _).2.2.2.2.1, fixedPart_session (placeCut_frame s _).2.2.2.2.2]
    exact h
  | reserveRoll hloaded hroom => exact h.reserveRoll hloaded hroom
  | reserveBatch hloaded hroom => exact h.reserveBatch hloaded hroom
  | enter run r hr =>
    have hloaded : s.sc.session ≠ .unloaded := by
      intro hs
      rw [hs] at hr
      cases hr
    exact h.session (fun _ => h.loaded hloaded) fun y hy => h.recipe y (hr.trans hy)

/-- An effect that leaves the store, in a session whose recipe was loaded before. -/
theorem storeSound_of_session {s t : State} (h : StoreSound s) (hps : t.ps = s.ps)
    (hloaded : t.sc.session ≠ .unloaded → s.sc.session ≠ .unloaded)
    (hrecipe : ∀ r, t.sc.session.recipe? = some r → s.sc.session.recipe? = some r) : StoreSound t := by
  rw [storeSound_iff] at h ⊢
  rw [hps]
  exact h.session (fun hne => h.loaded (hloaded hne)) fun r hr => h.recipe r (hrecipe r hr)

theorem storeSound_releaseCut {s : State} (h : StoreSound s) : StoreSound (releaseCut s) := by
  have hreleased : StoreSound { s with ks := { s.ks with outstanding := none } } := h
  have hfired : StoreSound (fireIfDue { s with ks := { s.ks with outstanding := none } }) := by
    have hsession : (fireIfDue { s with ks := { s.ks with outstanding := none } }).sc.session =
        ({ s with ks := { s.ks with outstanding := none } } : State).sc.session := fixedPart_session (by simp)
    exact storeSound_of_session hreleased (by simp) (by rw [hsession]; exact id) (by rw [hsession]; exact fun _ => id)
  exact (drainTest_chain _).keeps storeSound_small hfired

/-- R182 to R184: the end of a commit attempt. -/
theorem storeLaws_endAttempt {s : State} {c : CommitSeries} {held : Option StoreWrite}
    (h : StoreLaws s.sc.session s.ps) (hc : s.ps.op.series? = some c) (hheld : s.ps.op.write? = held) (agrees : Bool) :
    StoreLaws s.sc.session (endAttempt s c held agrees).ps := by
  obtain ⟨hfailures, ⟨r, hr, -⟩, -, -, hseeded⟩ := h.series c hc
  have hreserved : s.ps.reserved.isSome = true := by rw [Option.mem_def.mp hr]; rfl
  unfold endAttempt
  split_ifs
  · have hps : (endSuccess s c held).ps = (s.ps.confirm c.values).afterSuccess held := by
      unfold endSuccess postSeed announceRecovery readinessTest
      split_ifs <;> simp
    rw [hps]
    exact h.afterSuccess hc hheld
  · unfold endFailure
    split_ifs with hretry
    · exact h.countFailure.startAttempt hreserved hheld (c.failures + 1) (by omega) c.seeded hseeded
    · have hps : (endSeries { s with ps := s.ps.countFailure } c held).ps =
          { s.ps.countFailure with commitPending := true }.afterFailedSeries held := by
        unfold endSeries postSeed
        split_ifs <;> simp
      rw [hps]
      exact h.countFailure.afterFailedSeries hreserved hheld

theorem storeLaws_endWrite {s : State} {w : StoreWrite} {b : Bool} (h : StoreLaws s.sc.session s.ps)
    (hop : s.ps.op = .writing w b) (agrees : Bool) :
    StoreLaws s.sc.session (endWrite s w b agrees).ps := by
  have hw : s.ps.op.write? = some w := by rw [hop]; rfl
  have hreserved : (s.ps.commitPending || b) = true → s.ps.reserved.isSome = true := by
    cases b with
    | true => exact fun _ => h.suspending w hop
    | false => simpa using h.pending
  unfold endWrite
  cases agrees with
  | true =>
    have hfinish : (s.ps.finishWrite w).commitPending = s.ps.commitPending ∧
        (s.ps.finishWrite w).reserved = s.ps.reserved := by
      unfold PersistentStore.finishWrite
      split <;> exact ⟨rfl, rfl⟩
    obtain ⟨hpending, hsame⟩ := hfinish
    exact StoreLaws.afterWrite (ps := s.ps.finishWrite w) (h.finishWrite hw) (by rwa [hpending, hsame])
  | false => exact StoreLaws.afterWrite (ps := s.ps) h.idle hreserved

theorem storeSound_direct (s t : State) (h : StoreSound s) (hd : Direct s t) : StoreSound t := by
  have hlaws := (storeSound_iff s).mp h
  cases hd with
  | reset cause landed => exact (storeSound_iff _).mpr (hlaws.reset landed)
  | lineEdge w _ =>
    have hsession : (knifeCompare { s with wpu := w }).sc.session = ({ s with wpu := w } : State).sc.session :=
      fixedPart_session (by simp)
    exact storeSound_of_session h (by simp) (by rw [hsession]; exact id) (by rw [hsession]; exact fun _ => id)
  | acknowledge o _ =>
    have hanswered : StoreSound (answerCut s o) := h
    have hdone := (completeRolls_chain (answerCut s o) o.cut.kind .acknowledged ⟨false, false, false⟩).keeps
      storeSound_small hanswered
    refine storeSound_releaseCut ?_
    split_ifs
    · exact hdone
    · exact storeSound_small _ _ hdone (.recover .knife)
  | timeout o _ =>
    have hanswered : StoreSound (answerCut s o) := h
    exact storeSound_releaseCut
      (((Chain.log (answerCut s o) _).trans (completeRolls_chain _ o.cut.kind .timedOut _)).keeps storeSound_small hanswered)
  | suspend w hop =>
    exact (storeSound_iff _).mpr (hlaws.startSeries (hlaws.suspending w hop) (by rw [hop]) false nofun)
  | writeEnd w suspending agrees hop =>
    have hsession : (endWrite s w suspending agrees).sc.session = s.sc.session := by
      unfold endWrite
      split_ifs <;> rfl
    rw [storeSound_iff, hsession]
    exact storeLaws_endWrite hlaws hop agrees
  | attemptEnd c held agrees hc hheld =>
    obtain ⟨-, -, -, -, -, -, hsession, -, -⟩ := endAttempt_frame s c held agrees
    rw [storeSound_iff, hsession]
    exact storeLaws_endAttempt hlaws hc hheld agrees
  | resume =>
    rw [storeSound_iff]
    change StoreLaws s.sc.session s.ps.retryPending
    unfold PersistentStore.retryPending
    split_ifs with hpending
    · split
      · exact hlaws.requestCommit (hlaws.pending hpending)
      · exact hlaws.requestCommit (hlaws.pending hpending)
      · exact hlaws
      · exact hlaws
    · exact hlaws
  | clear run r hs =>
    refine storeSound_of_session h ?_ (fun _ => by rw [hs]; nofun) fun y hy => ?_
    · simp [clearNow, clearRolls_frame, clearKnife, clearQueue_frame]
    · rw [hs]
      exact hy
  | load i r _ hvalid _ hslot =>
    rw [storeSound_iff]
    have hps : (loadNow s r).ps = s.ps := by simp [loadNow]
    rw [hps]
    exact hlaws.session (fun _ => hvalid) fun y hy => Option.some.inj hy ▸ hlaws.slots i r hslot
  | startRun r hs _ =>
    refine storeSound_of_session h ?_ (fun _ => by rw [hs]; nofun) fun y hy => ?_
    · simp [startRunNow]
    · rw [hs]
      exact hy
  | writeRecipe i port image hstruct _ =>
    exact (storeSound_iff _).mpr (hlaws.startWrite (w := ⟨port, .recipe i (clampedRecipe image), recipeWasClamped image⟩)
      (clampedRecipe_inRange ((structuralOk_iff image).mp hstruct)) nofun)
  | writeSetup port args g hidle =>
    have hforce : StoreLaws s.sc.session { s.ps with setup := clampedSetup args g, setupStored := false } :=
      { hlaws with
        stored := nofun
        setup := clampedSetup_inRange args g
        write := by
          rw [hidle]
          exact forall_mem_none }
    refine (storeSound_iff _).mpr (hforce.startWrite (w := ⟨port, .setup (clampedSetup args g), setupWasClamped args g⟩)
      (clampedSetup_inRange args g) fun u hu => ?_)
    cases hu
    exact ⟨rfl, rfl⟩
  | seed batch roll hinvalid hbatch hroll hidle =>
    rw [storeSound_iff]
    have hmirror : s.ps.mirror = none := by
      cases hm : s.ps.mirror with
      | none => rfl
      | some m =>
        have hvalid := hlaws.valid.mpr (by rw [hm]; rfl)
        rw [hinvalid] at hvalid
        cases hvalid
    have hseeded : StoreLaws s.sc.session { s.ps with reserved := some ⟨batch, roll⟩ } :=
      { hlaws with
        mirror := by
          rw [hmirror]
          exact forall_mem_none
        series := by
          rw [hidle]
          exact forall_mem_none
        bounds := fun r hr => by
          obtain rfl := Option.some.inj hr
          exact ⟨hbatch, hroll⟩
        pending := fun _ => rfl
        suspending := fun _ _ => rfl }
    exact hseeded.startSeries rfl (by rw [hidle]) true fun _ => hinvalid
  | clearEvents => exact h

theorem storeSound_ofLawPart : OfLawPart StoreSound := fun _ => Iff.rfl

/-- Settles O57: every small operation and every effect on a whole block keeps the counters in their order and what is
written within its ranges. -/
theorem everyStepKeepsTheStoreLaws : Obligations.EveryStepKeepsTheStoreLaws :=
  keptByStep_of_effects storeSound_ofLawPart (effect_keeps storeSound_small storeSound_direct)

end Sys2Proof.Proofs
end

section
/-! PROOFS. The counts of the Batch Table: each batch counts the rolls and the records that name it. -/

namespace Sys2Proof.Proofs

open Sys2Proof Sys2Proof.Machine

/-- What the Batch Table counts of a roll: its serial and its batch. -/
def rollKey (x : Roll) : Nat × Nat := (x.serial, x.batch)

/-- The keys of both tables and the counts of the Batch Table (R100, R102, R110, R175), over the keys of the rolls and
the verdicts of the records. A spent batch is held only where `spare` allows it: between the fall of a count and the
freeing test that follows it (R101, R104). -/
structure CountLaws (spare : Nat → Prop) (keys : List (Nat × Nat)) (shades : List ShadeVerdict) (bs : List BatchEntry)
    (reserved : Option Counters) : Prop where
  rollRoom : keys.length ≤ Config.rollCapacity
  rollOrder : keys.Pairwise fun x y => x.1 < y.1
  serials : ∀ x ∈ keys, 1 ≤ x.1 ∧ ∃ r ∈ reserved, x.1 ≤ r.roll
  batchRoom : bs.length ≤ Config.batchCapacity
  batchOrder : bs.Pairwise fun x y => x.code < y.code
  codes : ∀ b ∈ bs, 1 ≤ b.code ∧ ∃ r ∈ reserved, b.code ≤ r.batch
  rolls : ∀ b ∈ bs, b.rolls = keys.countP fun x => x.2 == b.code
  queued : ∀ b ∈ bs, b.queued = shades.countP fun v => v == .batch b.code
  spent : ∀ b ∈ bs, b.isSpent = true → spare b.code
  rollBatch : ∀ x ∈ keys, ∃ b ∈ bs, b.code = x.2
  recordBatch : ∀ v ∈ shades, v.HeldIn bs

theorem heldIn_map {v : ShadeVerdict} {bs : List BatchEntry} {g : BatchEntry → BatchEntry}
    (hcode : ∀ b, (g b).code = b.code) (h : v.HeldIn bs) : v.HeldIn (bs.map g) := by
  cases v with
  | pending => trivial
  | noBatch => trivial
  | batch code =>
    obtain ⟨b, hb, hbc⟩ := h
    exact ⟨g b, List.mem_map_of_mem hb, (hcode b).trans hbc⟩

section
variable {spare spare' : Nat → Prop} {keys : List (Nat × Nat)} {shades : List ShadeVerdict} {bs : List BatchEntry}
  {reserved : Option Counters}

theorem CountLaws.mono (h : CountLaws spare keys shades bs reserved) (himp : ∀ n, spare n → spare' n) :
    CountLaws spare' keys shades bs reserved :=
  { h with spent := fun b hb hs => himp _ (h.spent b hb hs) }

theorem CountLaws.nodup (h : CountLaws spare keys shades bs reserved) : (bs.map BatchEntry.code).Nodup :=
  List.Pairwise.imp Nat.ne_of_lt (List.pairwise_map.mpr h.batchOrder)

/-- An entry is the only one of its code. -/
theorem CountLaws.unique (h : CountLaws spare keys shades bs reserved) {a b : BatchEntry} (ha : a ∈ bs) (hb : b ∈ bs)
    (hab : a.code = b.code) : a = b :=
  List.inj_on_of_nodup_map h.nodup ha hb hab

/-- A change of entries, of the rolls that leave and of the verdicts, under which the counts stay right. -/
theorem CountLaws.change (h : CountLaws spare keys shades bs reserved) {keys' : List (Nat × Nat)}
    {shades' : List ShadeVerdict} {g : BatchEntry → BatchEntry} (hcode : ∀ b, (g b).code = b.code)
    (hkeys : keys'.Sublist keys) (hshades : ∀ v ∈ shades', v.HeldIn bs)
    (hrolls : ∀ b ∈ bs, b.rolls = (keys.countP fun x => x.2 == b.code) →
      (g b).rolls = keys'.countP fun x => x.2 == b.code)
    (hqueued : ∀ b ∈ bs, b.queued = (shades.countP fun v => v == .batch b.code) →
      (g b).queued = shades'.countP fun v => v == .batch b.code)
    (hspent : ∀ b ∈ bs, (g b).isSpent = true → (b.isSpent = true → spare b.code) → spare' b.code) :
    CountLaws spare' keys' shades' (bs.map g) reserved := by
  refine ⟨hkeys.length_le.trans h.rollRoom, h.rollOrder.sublist hkeys, fun x hx => h.serials x (hkeys.subset hx),
    (List.length_map g).trans_le h.batchRoom, ?_, ?_, ?_, ?_, ?_, ?_, fun v hv => heldIn_map hcode (hshades v hv)⟩
  · rw [List.pairwise_map]
    exact h.batchOrder.imp fun {a b} hab => by rwa [hcode a, hcode b]
  · intro y hy
    obtain ⟨b, hb, rfl⟩ := List.mem_map.mp hy
    rw [hcode]
    exact h.codes b hb
  · intro y hy
    obtain ⟨b, hb, rfl⟩ := List.mem_map.mp hy
    rw [hcode]
    exact hrolls b hb (h.rolls b hb)
  · intro y hy
    obtain ⟨b, hb, rfl⟩ := List.mem_map.mp hy
    rw [hcode]
    exact hqueued b hb (h.queued b hb)
  · intro y hy hs
    obtain ⟨b, hb, rfl⟩ := List.mem_map.mp hy
    rw [hcode]
    exact hspent b hb hs (h.spent b hb)
  · intro x hx
    obtain ⟨b, hb, hbx⟩ := h.rollBatch x (hkeys.subset hx)
    exact ⟨g b, List.mem_map_of_mem hb, (hcode b).trans hbx⟩

/-- Entries that count nothing leave. -/
theorem CountLaws.filter (h : CountLaws spare keys shades bs reserved) {p : BatchEntry → Bool}
    (hunnamed : ∀ b ∈ bs, p b = false → b.rolls = 0 ∧ b.queued = 0)
    (hspent : ∀ b ∈ bs, p b = true → b.isSpent = true → spare' b.code) :
    CountLaws spare' keys shades (bs.filter p) reserved := by
  have hkept : ∀ b ∈ bs, 0 < b.rolls ∨ 0 < b.queued → b ∈ bs.filter p := by
    intro b hb hnamed
    refine List.mem_filter.mpr ⟨hb, ?_⟩
    by_contra hp
    have hzero := hunnamed b hb (by simpa using hp)
    omega
  refine ⟨h.rollRoom, h.rollOrder, h.serials, (List.length_filter_le _ _).trans h.batchRoom,
    h.batchOrder.sublist List.filter_sublist, fun b hb => h.codes b (List.mem_of_mem_filter hb),
    fun b hb => h.rolls b (List.mem_of_mem_filter hb), fun b hb => h.queued b (List.mem_of_mem_filter hb), ?_, ?_, ?_⟩
  · intro b hb hs
    obtain ⟨hb, hp⟩ := List.mem_filter.mp hb
    exact hspent b hb hp hs
  · intro x hx
    obtain ⟨b, hb, hbx⟩ := h.rollBatch x hx
    refine ⟨b, hkept b hb (.inl ?_), hbx⟩
    rw [h.rolls b hb]
    exact List.countP_pos_iff.mpr ⟨x, hx, by simp [hbx]⟩
  · intro v hv
    cases v with
    | pending => trivial
    | noBatch => trivial
    | batch code =>
      obtain ⟨b, hb, hbc⟩ := h.recordBatch _ hv
      refine ⟨b, hkept b hb (.inr ?_), hbc⟩
      rw [h.queued b hb]
      exact List.countP_pos_iff.mpr ⟨_, hv, by simp [hbc]⟩

/-- R104: the freeing test of the batch that may be spent. -/
theorem CountLaws.free {code : Nat} (h : CountLaws (fun n => spare n ∨ n = code) keys shades bs reserved) :
    CountLaws spare keys shades (freeSpent code bs) reserved := by
  have hkept : (∀ b ∈ bs, b.code = code → b.isSpent = false) → CountLaws spare keys shades bs reserved := fun hnone =>
    { h with
      spent := fun b hb hs => (h.spent b hb hs).resolve_right fun hc => by
        rw [hnone b hb hc] at hs
        cases hs }
  unfold freeSpent
  split
  · next b hfind =>
    have hb := List.mem_of_find?_eq_some hfind
    have hbc : b.code = code := by simpa using List.find?_some hfind
    have honly : ∀ y ∈ bs, y.code = code → y = b := fun y hy hyc => h.unique hy hb (hyc.trans hbc.symm)
    split_ifs with hs
    · obtain ⟨-, hqueued, hrolls⟩ := hs
      refine h.filter (fun y hy hp => ?_) fun y hy hp hys => (h.spent y hy hys).resolve_right (by simpa using hp)
      obtain rfl := honly y hy (by simpa using hp)
      exact ⟨hrolls, hqueued⟩
    · refine hkept fun y hy hyc => ?_
      obtain rfl := honly y hy hyc
      exact Bool.eq_false_iff.mpr fun hys => hs ((isSpent_iff y).mp hys)
  · next hfind =>
    exact hkept fun y hy hyc => absurd hyc (by simpa using List.find?_eq_none.mp hfind y hy)

/-- Only the batches and the counts matter of the verdicts. -/
theorem CountLaws.reshade {shades' : List ShadeVerdict} (h : CountLaws spare keys shades bs reserved)
    (hmem : ∀ v ∈ shades', v = .pending ∨ v ∈ shades)
    (hcount : ∀ code, (shades'.countP fun v => v == .batch code) = shades.countP fun v => v == .batch code) :
    CountLaws spare keys shades' bs reserved :=
  { h with
    queued := fun b hb => (h.queued b hb).trans (hcount b.code).symm
    recordBatch := fun v hv => by
      rcases hmem v hv with rfl | hv
      · trivial
      · exact h.recordBatch v hv }

/-- R175: the reserved counters rise. -/
theorem CountLaws.reserve {r r' : Counters} (h : CountLaws spare keys shades bs reserved) (hr : reserved = some r)
    (hle : r.Le r') : CountLaws spare keys shades bs (some r') := by
  obtain ⟨hbatch, hroll⟩ := hle
  subst hr
  refine { h with serials := fun x hx => ?_, codes := fun b hb => ?_ }
  · obtain ⟨hlow, y, hy, hxy⟩ := h.serials x hx
    obtain rfl := Option.some.inj hy
    exact ⟨hlow, r', rfl, hxy.trans hroll⟩
  · obtain ⟨hlow, y, hy, hxy⟩ := h.codes b hb
    obtain rfl := Option.some.inj hy
    exact ⟨hlow, r', rfl, hxy.trans hbatch⟩

/-! ### Records -/

/-- R36: a record without a reading joins. -/
theorem CountLaws.joinRecord (h : CountLaws spare keys shades bs reserved) :
    CountLaws spare keys (shades ++ [.pending]) bs reserved := by
  refine h.reshade (fun v hv => ?_) fun code => by simp
  rcases List.mem_append.mp hv with hv | hv
  · exact .inr hv
  · exact .inl (List.mem_singleton.mp hv)

/-- R54 step 2, R100: the head record leaves, and the queued count of its batch falls. -/
theorem CountLaws.popRecord {k : RepeatRecord} (h : CountLaws spare keys (k.shade :: shades) bs reserved) :
    CountLaws (fun n => spare n ∨ k.shade = .batch n) keys shades (bs.map fun b => b.unqueued [k]) reserved := by
  refine h.change (fun _ => rfl) (List.Sublist.refl _) (fun v hv => h.recordBatch v (List.mem_cons_of_mem _ hv))
    (fun b _ hrolls => hrolls) (fun b _ hqueued => ?_) fun b _ hs hspare => ?_
  · simp only [BatchEntry.unqueued, hqueued, List.countP_cons, List.countP_nil]
    omega
  · by_cases hk : k.shade = .batch b.code
    · exact .inr hk
    · refine .inl (hspare ?_)
      have hsame : b.unqueued [k] = b := by simp [BatchEntry.unqueued, hk]
      rwa [hsame] at hs

/-- R87, R91: a reading that a batch wins. -/
theorem CountLaws.win (h : CountLaws spare keys shades bs reserved) {w : BatchEntry} (hw : w ∈ bs)
    {g : BatchEntry → BatchEntry} (hcode : ∀ b, (g b).code = b.code) (hrolls : ∀ b, (g b).rolls = b.rolls)
    (hqueued : ∀ b, (g b).queued = b.queued + 1) :
    CountLaws spare keys (.batch w.code :: shades) (updateBy BatchEntry.code w.code g bs) reserved := by
  have hcode' : ∀ b : BatchEntry, (if b.code = w.code then g b else b).code = b.code := by
    intro b
    split_ifs
    · exact hcode b
    · rfl
  refine h.change hcode' (List.Sublist.refl _) (fun v hv => ?_) (fun b _ hb => ?_) (fun b _ hb => ?_) fun b _ hs hspare => ?_
  · rcases List.mem_cons.mp hv with rfl | hv
    · exact ⟨w, hw, rfl⟩
    · exact h.recordBatch v hv
  · split_ifs
    · rw [hrolls, hb]
    · exact hb
  · rw [List.countP_cons]
    split_ifs with hbw hv hv
    · rw [hqueued, hb]
    · simp [hbw] at hv
    · simp [Ne.symm hbw] at hv
    · exact hb
  · split_ifs at hs with hbw
    · rw [isSpent_iff, hqueued] at hs
      obtain ⟨-, hzero, -⟩ := hs
      exact absurd hzero (Nat.succ_ne_zero _)
    · exact hspare hs

/-- R94: a reading without a batch. -/
theorem CountLaws.noBatch (h : CountLaws spare keys shades bs reserved) :
    CountLaws spare keys (.noBatch :: shades) bs reserved := by
  refine { h with queued := fun b hb => ?_, recordBatch := fun v hv => ?_ }
  · rw [h.queued b hb, List.countP_cons_of_neg (by simp)]
  · rcases List.mem_cons.mp hv with rfl | hv
    · trivial
    · exact h.recordBatch v hv

/-- R98, R99: a reading that opens a batch of the next code. -/
theorem CountLaws.openBatch {r : Counters} (h : CountLaws spare keys shades bs reserved) (hr : reserved = some r)
    (hroom : bs.length < Config.batchCapacity) {b : BatchEntry} (hcode : b.code = r.batch + 1) (hrolls : b.rolls = 0)
    (hqueued : b.queued = 1) :
    CountLaws spare keys (.batch b.code :: shades) (insertBy BatchEntry.code b bs)
      (some { r with batch := r.batch + 1 }) := by
  have hfresh : ∀ y ∈ bs, y.code < b.code := by
    intro y hy
    obtain ⟨-, x, hx, hyx⟩ := h.codes y hy
    obtain rfl := Option.some.inj (hr.symm.trans hx)
    omega
  have hraised := h.reserve hr (r' := { r with batch := r.batch + 1 }) ⟨Nat.le_succ _, Nat.le_refl _⟩
  have hold : ∀ v ∈ shades, v ≠ .batch b.code := by
    rintro v hv rfl
    obtain ⟨y, hy, hyb⟩ := h.recordBatch _ hv
    have hlt := hfresh y hy
    omega
  refine { hraised with
    batchRoom := by rw [length_insertBy]; exact hroom, batchOrder := ?_, codes := ?_, rolls := ?_, queued := ?_
    spent := ?_, rollBatch := ?_, recordBatch := ?_ }
  · exact pairwise_insertBy _ b bs h.batchOrder hfresh
  · simp only [mem_insertBy]
    rintro y (rfl | hy)
    · exact ⟨by omega, _, rfl, hcode.le⟩
    · exact hraised.codes y hy
  · simp only [mem_insertBy]
    rintro y (rfl | hy)
    · rw [hrolls, eq_comm, List.countP_eq_zero]
      intro x hx hxy
      obtain ⟨z, hz, hzx⟩ := h.rollBatch x hx
      have hlt := hfresh z hz
      rw [hzx, beq_iff_eq.mp hxy] at hlt
      exact Nat.lt_irrefl _ hlt
    · exact h.rolls y hy
  · simp only [mem_insertBy]
    rintro y (rfl | hy)
    · have hnone : (shades.countP fun v => v == .batch y.code) = 0 :=
        List.countP_eq_zero.mpr fun v hv hvy => hold v hv (beq_iff_eq.mp hvy)
      rw [hqueued, List.countP_cons, hnone]
      simp
    · have hlt := hfresh y hy
      rw [List.countP_cons_of_neg (by simpa using hlt.ne')]
      exact h.queued y hy
  · simp only [mem_insertBy]
    rintro y (rfl | hy) hs
    · rw [isSpent_iff, hqueued] at hs
      obtain ⟨-, hzero, -⟩ := hs
      cases hzero
    · exact h.spent y hy hs
  · intro x hx
    obtain ⟨y, hy, hyx⟩ := h.rollBatch x hx
    exact ⟨y, (mem_insertBy ..).mpr (.inr hy), hyx⟩
  · intro v hv
    rcases List.mem_cons.mp hv with rfl | hv
    · exact ⟨b, (mem_insertBy ..).mpr (.inl rfl), rfl⟩
    · cases v with
      | pending => trivial
      | noBatch => trivial
      | batch code =>
        obtain ⟨y, hy, hyc⟩ := h.recordBatch _ hv
        exact ⟨y, (mem_insertBy ..).mpr (.inr hy), hyc⟩

/-- R85, R96: one batch closes. -/
theorem CountLaws.close (h : CountLaws spare keys shades bs reserved) (code : Nat) :
    CountLaws (fun n => spare n ∨ n = code) keys shades (updateBy BatchEntry.code code BatchEntry.close bs) reserved := by
  have hsame : ∀ b : BatchEntry, (if b.code = code then b.close else b).rolls = b.rolls ∧
      (if b.code = code then b.close else b).queued = b.queued ∧
      (if b.code = code then b.close else b).code = b.code := by
    intro b
    split_ifs <;> exact ⟨rfl, rfl, rfl⟩
  refine h.change (fun b => (hsame b).2.2) (List.Sublist.refl _) h.recordBatch (fun b _ hb => ?_) (fun b _ hb => ?_)
    fun b _ hs hspare => ?_
  · rw [(hsame b).1, hb]
  · rw [(hsame b).2.1, hb]
  · by_cases hbc : b.code = code
    · exact .inr hbc
    · rw [if_neg hbc] at hs
      exact .inl (hspare hs)

/-- R101, R105: every batch closes, and those that count nothing leave. -/
theorem CountLaws.closeAll (h : CountLaws spare keys shades bs reserved) : CountLaws spare' keys shades
    ((bs.map BatchEntry.close).filter fun b => !(b.queued == 0 && b.rolls == 0)) reserved := by
  have hclosed : CountLaws (fun _ => True) keys shades (bs.map BatchEntry.close) reserved :=
    h.change (fun _ => rfl) (List.Sublist.refl _) h.recordBatch (fun b _ hb => hb) (fun b _ hb => hb)
      fun _ _ _ _ => trivial
  refine hclosed.filter (fun b _ hp => ?_) fun b _ hp hs => ?_
  · simp only [Bool.not_eq_false', Bool.and_eq_true, beq_iff_eq] at hp
    exact ⟨hp.2, hp.1⟩
  · obtain ⟨-, hqueued, hrolls⟩ := (isSpent_iff b).mp hs
    simp [hqueued, hrolls] at hp

/-! ### Rolls -/

/-- R102: a roll leaves, and the roll count of its batch falls; `g` lowers it. -/
theorem CountLaws.dropRoll {pre post : List (Nat × Nat)} {x : Nat × Nat} {g : BatchEntry → BatchEntry}
    (h : CountLaws spare (pre ++ x :: post) shades bs reserved) (hcode : ∀ b, (g b).code = b.code)
    (hrolls : ∀ b, (g b).rolls = b.rolls - 1) (hqueued : ∀ b, (g b).queued = b.queued) :
    CountLaws (fun n => spare n ∨ n = x.2) (pre ++ post) shades (updateBy BatchEntry.code x.2 g bs) reserved := by
  have hcode' : ∀ b : BatchEntry, (if b.code = x.2 then g b else b).code = b.code := by
    intro b
    split_ifs
    · exact hcode b
    · rfl
  refine h.change hcode' (List.Sublist.append_left (List.sublist_cons_self _ _) _) h.recordBatch (fun b _ hb => ?_)
    (fun b _ hb => ?_) fun b _ hs hspare => ?_
  · rw [List.countP_append, List.countP_cons] at hb
    rw [List.countP_append]
    split_ifs with hbx
    · rw [hrolls, hb, if_pos (by simp [hbx])]
      omega
    · rw [hb, if_neg (by simpa using Ne.symm hbx)]
      omega
  · split_ifs
    · rw [hqueued, hb]
    · exact hb
  · by_cases hbx : b.code = x.2
    · exact .inr hbx
    · rw [if_neg hbx] at hs
      exact .inl (hspare hs)

/-- R128: a roll of a held batch starts with the next serial. -/
theorem CountLaws.startRoll {r : Counters} {code : Nat} (h : CountLaws spare keys shades bs reserved)
    (hr : reserved = some r) (hroom : keys.length < Config.rollCapacity) (hheld : ∃ b ∈ bs, b.code = code) :
    CountLaws spare (keys ++ [(r.roll + 1, code)]) shades
      (updateBy BatchEntry.code code (fun b => { b with rolls := b.rolls + 1 }) bs)
      (some { r with roll := r.roll + 1 }) := by
  have hraised := h.reserve hr (r' := { r with roll := r.roll + 1 }) ⟨Nat.le_refl _, Nat.le_succ _⟩
  have hsame : ∀ b : BatchEntry, (if b.code = code then { b with rolls := b.rolls + 1 } else b).code = b.code ∧
      (if b.code = code then { b with rolls := b.rolls + 1 } else b).queued = b.queued := by
    intro b
    split_ifs <;> exact ⟨rfl, rfl⟩
  have hmem : ∀ y ∈ updateBy BatchEntry.code code (fun b => { b with rolls := b.rolls + 1 }) bs, ∃ b ∈ bs,
      y = if b.code = code then { b with rolls := b.rolls + 1 } else b := fun y hy => (mem_updateBy ..).mp hy
  have hheldIn : ∀ n, (∃ b ∈ bs, b.code = n) →
      ∃ y ∈ updateBy BatchEntry.code code (fun b => { b with rolls := b.rolls + 1 }) bs, y.code = n := by
    rintro n ⟨b, hb, rfl⟩
    exact ⟨_, (mem_updateBy ..).mpr ⟨b, hb, rfl⟩, (hsame b).1⟩
  refine ⟨by simpa using hroom, ?_, ?_, by rw [length_updateBy]; exact h.batchRoom,
    pairwise_updateBy _ _ _ (fun b => by rfl) _ h.batchOrder, ?_, ?_, ?_, ?_, ?_, ?_⟩
  · rw [List.pairwise_append]
    refine ⟨h.rollOrder, List.pairwise_singleton _ _, fun x hx y hy => ?_⟩
    obtain rfl := List.mem_singleton.mp hy
    obtain ⟨-, z, hz, hxz⟩ := h.serials x hx
    obtain rfl := Option.some.inj (hr.symm.trans hz)
    exact Nat.lt_succ_of_le hxz
  · intro x hx
    rcases List.mem_append.mp hx with hx | hx
    · exact hraised.serials x hx
    · obtain rfl := List.mem_singleton.mp hx
      exact ⟨Nat.succ_le_succ (Nat.zero_le _), _, rfl, Nat.le_refl _⟩
  · intro y hy
    obtain ⟨b, hb, rfl⟩ := hmem y hy
    rw [(hsame b).1]
    exact hraised.codes b hb
  · intro y hy
    obtain ⟨b, hb, rfl⟩ := hmem y hy
    rw [(hsame b).1, List.countP_append, ← h.rolls b hb, List.countP_singleton]
    by_cases hbc : b.code = code
    · simp [hbc]
    · simp [hbc, Ne.symm hbc]
  · intro y hy
    obtain ⟨b, hb, rfl⟩ := hmem y hy
    rw [(hsame b).1, (hsame b).2]
    exact h.queued b hb
  · intro y hy hs
    obtain ⟨b, hb, rfl⟩ := hmem y hy
    rw [(hsame b).1]
    by_cases hbc : b.code = code
    · rw [if_pos hbc, isSpent_iff] at hs
      obtain ⟨-, -, hzero⟩ := hs
      cases hzero
    · rw [if_neg hbc] at hs
      exact h.spent b hb hs
  · intro x hx
    rcases List.mem_append.mp hx with hx | hx
    · exact hheldIn _ (h.rollBatch x hx)
    · obtain rfl := List.mem_singleton.mp hx
      exact hheldIn _ hheld
  · intro v hv
    cases v with
    | pending => trivial
    | noBatch => trivial
    | batch n => exact hheldIn n (h.recordBatch _ hv)

end

end Sys2Proof.Proofs
end

section
/-! PROOFS. The laws of the Roll Table, the Batch Table and the labels as one structure, and the operations on one roll. -/

namespace Sys2Proof.Proofs

open Sys2Proof Sys2Proof.Machine

/-! ### Rolls and their states -/

/-- R111, R113, R143: the states of the rolls, over the serials that may be ENDING. -/
structure RollLaws (ending : Nat → Prop) (rolls : List Roll) (segment : Segment) : Prop where
  building : ∀ x ∈ rolls, x.state = .building ↔ segment = .roll x.serial
  named : ∀ n, segment = .roll n → ∃ x ∈ rolls, x.serial = n
  sound : ∀ x ∈ rolls, x.Sound
  waits : ∀ x ∈ rolls, x.state = .ending → ending x.serial

section
variable {ending ending' : Nat → Prop} {rolls : List Roll} {segment segment' : Segment}

theorem RollLaws.mono (h : RollLaws ending rolls segment) (himp : ∀ n, ending n → ending' n) :
    RollLaws ending' rolls segment :=
  { h with waits := fun x hx he => himp _ (h.waits x hx he) }

/-- A write to one roll, the segment following it. -/
theorem RollLaws.update (h : RollLaws ending rolls segment) (n : Nat) {f : Roll → Roll}
    (hserial : ∀ x, (f x).serial = x.serial)
    (hnew : ∀ x ∈ rolls, x.serial = n → x.Sound →
      ((f x).state = .building ↔ segment' = .roll n) ∧ (f x).Sound ∧ ((f x).state = .ending → ending' n))
    (hothers : ∀ m, m ≠ n → (segment' = .roll m ↔ segment = .roll m) ∧ (ending m → ending' m))
    (hnamed : segment' = .roll n → segment = .roll n) : RollLaws ending' (updateBy Roll.serial n f rolls) segment' := by
  have hcases : ∀ y ∈ updateBy Roll.serial n f rolls,
      (∃ x ∈ rolls, x.serial = n ∧ y = f x) ∨ (y ∈ rolls ∧ y.serial ≠ n) := by
    intro y hy
    obtain ⟨x, hx, rfl⟩ := (mem_updateBy ..).mp hy
    by_cases hxn : x.serial = n
    · exact .inl ⟨x, hx, hxn, if_pos hxn⟩
    · rw [if_neg hxn]
      exact .inr ⟨hx, hxn⟩
  refine ⟨fun y hy => ?_, fun m hm => ?_, fun y hy => ?_, fun y hy => ?_⟩
  · rcases hcases y hy with ⟨x, hx, hxn, rfl⟩ | ⟨hy, hyn⟩
    · rw [hserial, hxn]
      exact (hnew x hx hxn (h.sound x hx)).1
    · exact (h.building y hy).trans (hothers _ hyn).1.symm
  · have hold : segment = .roll m := by
      by_cases hmn : m = n
      · subst hmn
        exact hnamed hm
      · exact (hothers m hmn).1.mp hm
    obtain ⟨x, hx, hxm⟩ := h.named m hold
    refine ⟨_, (mem_updateBy ..).mpr ⟨x, hx, rfl⟩, ?_⟩
    split_ifs
    · exact (hserial x).trans hxm
    · exact hxm
  · rcases hcases y hy with ⟨x, hx, hxn, rfl⟩ | ⟨hy, -⟩
    · exact (hnew x hx hxn (h.sound x hx)).2.1
    · exact h.sound y hy
  · rcases hcases y hy with ⟨x, hx, hxn, rfl⟩ | ⟨hy, hyn⟩
    · rw [hserial, hxn]
      exact (hnew x hx hxn (h.sound x hx)).2.2
    · exact fun he => (hothers _ hyn).2 (h.waits y hy he)

/-- Rolls leave, the one of the segment with it. -/
theorem RollLaws.filter (h : RollLaws ending rolls segment) {p : Roll → Bool}
    (hothers : ∀ x ∈ rolls, p x = true → (segment' = .roll x.serial ↔ segment = .roll x.serial) ∧
      (x.state = .ending → ending x.serial → ending' x.serial))
    (hnamed : ∀ n, segment' = .roll n → ∃ x ∈ rolls, p x = true ∧ x.serial = n) :
    RollLaws ending' (rolls.filter p) segment' := by
  refine ⟨fun x hx => ?_, fun n hn => ?_, fun x hx => h.sound x (List.mem_of_mem_filter hx), fun x hx he => ?_⟩
  · obtain ⟨hx, hp⟩ := List.mem_filter.mp hx
    exact (h.building x hx).trans (hothers x hx hp).1.symm
  · obtain ⟨x, hx, hp, hxn⟩ := hnamed n hn
    exact ⟨x, List.mem_filter.mpr ⟨hx, hp⟩, hxn⟩
  · obtain ⟨hx, hp⟩ := List.mem_filter.mp hx
    exact (hothers x hx hp).2 he (h.waits x hx he)

/-- A roll leaves the table that is not BUILDING. -/
theorem RollLaws.erase (h : RollLaws ending rolls segment) {n : Nat} (hsegment : segment ≠ .roll n)
    (hothers : ∀ m, m ≠ n → ending m → ending' m) : RollLaws ending' (eraseBy Roll.serial n rolls) segment := by
  refine h.filter (fun x _ hp => ⟨Iff.rfl, fun _ => hothers _ (by simpa using hp)⟩) fun m hm => ?_
  obtain ⟨x, hx, hxm⟩ := h.named m hm
  refine ⟨x, hx, ?_, hxm⟩
  have hne : m ≠ n := by
    rintro rfl
    exact hsegment hm
  simpa [hxm] using hne

end

/-! ### Labels -/

/-- R157: the codes of a roll are persisted. -/
def Persisted (p : Nat × Nat) (mirror : Option Counters) : Prop := ∃ m ∈ mirror, p.2 ≤ m.batch ∧ p.1 ≤ m.roll

/-- R155 to R158: the laws of the Label Dispatcher, over the keys of the CLOSED rolls. -/
structure LabelLaws (closed : Nat × Nat → Prop) (ld : LabelDispatcher) (mirror : Option Counters) : Prop where
  nodup : ld.order.Nodup
  closed_of_mem : ∀ n ∈ ld.order, ∃ p, closed p ∧ p.1 = n
  mem_of_closed : ∀ p, closed p → p.1 ∈ ld.order
  outstanding : ∀ n ∈ ld.outstanding, ld.order.head? = some n ∧ ld.headReady = true
  ready : ld.headReady = true ↔ ∃ p, closed p ∧ ld.order.head? = some p.1 ∧ Persisted p mirror

section
variable {closed closed' : Nat × Nat → Prop} {ld : LabelDispatcher} {mirror : Option Counters}

theorem LabelLaws.congr (h : LabelLaws closed ld mirror) (hclosed : ∀ p, closed' p ↔ closed p) :
    LabelLaws closed' ld mirror := by
  have heq : closed' = closed := funext fun p => propext (hclosed p)
  exact heq ▸ h

/-- R155, R158: a roll joins the label order. -/
theorem LabelLaws.join (h : LabelLaws closed ld mirror) {p : Nat × Nat} (hnew : ∀ q, closed q → q.1 ≠ p.1)
    (hclosed : ∀ q, closed' q ↔ closed q ∨ q = p) {ld' : LabelDispatcher} (horder : ld'.order = ld.order ++ [p.1])
    (houtstanding : ld'.outstanding = ld.outstanding)
    (hready : ld'.headReady = true ↔ ld.headReady = true ∨ ld.order = [] ∧ Persisted p mirror) :
    LabelLaws closed' ld' mirror := by
  have hnot : p.1 ∉ ld.order := by
    intro hp
    obtain ⟨q, hq, hqp⟩ := h.closed_of_mem _ hp
    exact hnew q hq hqp
  refine ⟨?_, ?_, ?_, ?_, ?_⟩
  · rw [horder]
    exact h.nodup.append (List.nodup_singleton _) (by simpa using hnot)
  · rw [horder]
    intro n hn
    rcases List.mem_append.mp hn with hn | hn
    · obtain ⟨q, hq, hqn⟩ := h.closed_of_mem n hn
      exact ⟨q, (hclosed q).mpr (.inl hq), hqn⟩
    · exact ⟨p, (hclosed p).mpr (.inr rfl), (List.mem_singleton.mp hn).symm⟩
  · rw [horder]
    intro q hq
    rcases (hclosed q).mp hq with hq | rfl
    · exact List.mem_append_left _ (h.mem_of_closed q hq)
    · exact List.mem_append_right _ (List.mem_singleton.mpr rfl)
  · rw [horder, houtstanding]
    intro n hn
    obtain ⟨hhead, hr⟩ := h.outstanding n hn
    exact ⟨by rw [List.head?_append, hhead]; rfl, hready.mpr (.inl hr)⟩
  · rw [hready, h.ready, horder]
    cases ho : ld.order with
    | nil =>
      simp only [List.head?_nil, List.nil_append, List.head?_cons, reduceCtorEq, false_and, and_false, exists_false,
        false_or, true_and]
      constructor
      · exact fun hp => ⟨p, (hclosed p).mpr (.inr rfl), rfl, hp⟩
      · rintro ⟨q, hq, hhead, hp⟩
        rcases (hclosed q).mp hq with hq | rfl
        · exact absurd (Option.some.inj hhead).symm (hnew q hq)
        · exact hp
    | cons n rest =>
      simp only [List.cons_append, List.head?_cons, reduceCtorEq, false_and, or_false]
      constructor
      · rintro ⟨q, hq, hrest⟩
        exact ⟨q, (hclosed q).mpr (.inl hq), hrest⟩
      · rintro ⟨q, hq, hhead, hp⟩
        rcases (hclosed q).mp hq with hq | rfl
        · exact ⟨q, hq, hhead, hp⟩
        · rw [ho, ← Option.some.inj hhead] at hnot
          exact absurd List.mem_cons_self hnot

/-- R166: the roll at the head leaves, and the next head is tested. -/
theorem LabelLaws.pop (h : LabelLaws closed ld mirror) {n : Nat} {rest : List Nat} (ho : ld.order = n :: rest)
    (hclosed : ∀ q, closed' q ↔ closed q ∧ q.1 ≠ n) {ld' : LabelDispatcher} (horder : ld'.order = rest)
    (houtstanding : ld'.outstanding = none)
    (hready : ld'.headReady = true ↔ ∃ q, closed' q ∧ rest.head? = some q.1 ∧ Persisted q mirror) :
    LabelLaws closed' ld' mirror := by
  have hnodup := h.nodup
  rw [ho, List.nodup_cons] at hnodup
  obtain ⟨hnot, hrest⟩ := hnodup
  refine ⟨horder ▸ hrest, ?_, ?_, by rw [houtstanding]; exact forall_mem_none, by rwa [horder]⟩
  · rw [horder]
    intro m hm
    obtain ⟨q, hq, hqm⟩ := h.closed_of_mem m (ho ▸ List.mem_cons_of_mem n hm)
    refine ⟨q, (hclosed q).mpr ⟨hq, ?_⟩, hqm⟩
    rintro rfl
    exact hnot (hqm ▸ hm)
  · rw [horder]
    intro q hq
    obtain ⟨hq, hqn⟩ := (hclosed q).mp hq
    have hmem := h.mem_of_closed q hq
    rw [ho, List.mem_cons] at hmem
    exact hmem.resolve_left hqn

end

/-! ### The tables of a state -/

/-- The keys of the CLOSED rolls. -/
def ClosedKey (rolls : List Roll) (p : Nat × Nat) : Prop := ∃ x ∈ rolls, x.state = .closed ∧ rollKey x = p

/-- The laws of both tables and of the labels in a state, over the batches that may be spent and the serials that may be
ENDING. -/
structure TableLaws (spare ending : Nat → Prop) (s : State) : Prop where
  counts : CountLaws spare (s.rb.rolls.map rollKey) (s.rt.queue.map RepeatRecord.shade) s.batches s.ps.reserved
  rolls : RollLaws ending s.rb.rolls s.rb.segment
  labels : LabelLaws (ClosedKey s.rb.rolls) s.ld s.ps.mirror

/-- What the tables show outside a run, and while the counters are INVALID. -/
structure SessionLaws (s : State) : Prop where
  segment : s.rb.segment ≠ .none → s.sc.session.inRun = true
  active : (∃ b ∈ s.batches, b.active = true) → s.sc.session.inRun = true
  unknown : s.ps.validity = .invalid → s.rb.rolls = [] ∧ s.batches = []

/-- The states whose tables agree. -/
def SameTables (s t : State) : Prop :=
  t.rb.rolls = s.rb.rolls ∧ t.rb.segment = s.rb.segment ∧ t.batches = s.batches ∧
  t.rt.queue.map RepeatRecord.shade = s.rt.queue.map RepeatRecord.shade ∧ t.ld = s.ld ∧
  t.ps.reserved = s.ps.reserved ∧ t.ps.mirror = s.ps.mirror

section
variable {spare ending ending' : Nat → Prop} {s t : State}

theorem TableLaws.congr (h : TableLaws spare ending s) (hsame : SameTables s t) : TableLaws spare ending t := by
  obtain ⟨hrolls, hsegment, hbatches, hshades, hld, hreserved, hmirror⟩ := hsame
  obtain ⟨hc, hr, hl⟩ := h
  exact ⟨by rwa [hrolls, hbatches, hshades, hreserved], by rwa [hrolls, hsegment], by rwa [hrolls, hld, hmirror]⟩

theorem TableLaws.ends (h : TableLaws spare ending s) (himp : ∀ n, ending n → ending' n) :
    TableLaws spare ending' s :=
  { h with rolls := h.rolls.mono himp }

/-- R110: the rolls have distinct serials. -/
theorem TableLaws.nodup (h : TableLaws spare ending s) : (s.rb.rolls.map Roll.serial).Nodup := by
  have hkeys := h.counts.rollOrder
  rw [List.pairwise_map] at hkeys
  rw [List.Nodup, List.pairwise_map]
  exact hkeys.imp Nat.ne_of_lt

theorem TableLaws.unique (h : TableLaws spare ending s) {x y : Roll} (hx : x ∈ s.rb.rolls) (hy : y ∈ s.rb.rolls)
    (hxy : x.serial = y.serial) : x = y :=
  List.inj_on_of_nodup_map h.nodup hx hy hxy

theorem TableLaws.find (h : TableLaws spare ending s) {x : Roll} (hx : x ∈ s.rb.rolls) : s.findRoll x.serial = some x :=
  findBy_nodup _ _ x h.nodup hx

/-- R157: the test of the head speaks of the CLOSED roll at the head of the order. -/
theorem headIsReady_iff {u : State} (hnodup : (u.rb.rolls.map Roll.serial).Nodup)
    (hclosed : ∀ n ∈ u.ld.order, ∃ p, ClosedKey u.rb.rolls p ∧ p.1 = n) :
    u.headIsReady = true ↔
      ∃ p, ClosedKey u.rb.rolls p ∧ u.ld.order.head? = some p.1 ∧ Persisted p u.ps.mirror := by
  have hfound : ∀ x ∈ u.rb.rolls, u.findRoll x.serial = some x := fun x hx => findBy_nodup _ _ x hnodup hx
  unfold State.headIsReady State.labelHead
  cases ho : u.ld.order with
  | nil => simp
  | cons n rest =>
    obtain ⟨p, ⟨x, hx, hxc, rfl⟩, rfl⟩ := hclosed n (ho ▸ List.mem_cons_self)
    have hfind : u.findRoll (rollKey x).1 = some x := hfound x hx
    simp only [List.head?_cons, Option.bind_some, hfind, persisted_iff]
    constructor
    · exact fun hp => ⟨rollKey x, ⟨x, hx, hxc, rfl⟩, rfl, hp⟩
    · rintro ⟨q, ⟨y, hy, -, rfl⟩, hhead, hp⟩
      obtain rfl : x = y := List.inj_on_of_nodup_map hnodup hx hy (Option.some.inj hhead)
      exact hp

/-- The BUILDING rolls are the one that the segment names. -/
theorem building_iff {rolls : List Roll} (segment : Segment) (hnodup : (rolls.map Roll.serial).Nodup) :
    ((rolls.filter fun x => x.state == .building).map Roll.serial =
      (match segment with
        | .roll n => [n]
        | .none => []
        | .waste => []
        | .awaitA => [])) ↔
    (∀ x ∈ rolls, x.state = .building ↔ segment = .roll x.serial) ∧
      ∀ n, segment = .roll n → ∃ x ∈ rolls, x.serial = n := by
  have hmem : ∀ n, n ∈ (rolls.filter fun x => x.state == .building).map Roll.serial ↔
      ∃ x ∈ rolls, x.state = .building ∧ x.serial = n := by simp [and_assoc]
  have hnone : (∀ n, segment ≠ .roll n) → ((rolls.filter fun x => x.state == .building).map Roll.serial = [] ↔
      (∀ x ∈ rolls, x.state = .building ↔ segment = .roll x.serial) ∧
        ∀ n, segment = .roll n → ∃ x ∈ rolls, x.serial = n) := by
    intro hs
    constructor
    · intro hempty
      refine ⟨fun x hx => iff_of_false (fun hb => ?_) (hs _), fun n hn => absurd hn (hs n)⟩
      have hin := (hmem x.serial).mpr ⟨x, hx, hb, rfl⟩
      rw [hempty] at hin
      cases hin
    · rintro ⟨hbuilding, -⟩
      refine List.eq_nil_iff_forall_not_mem.mpr fun n hn => ?_
      obtain ⟨x, hx, hb, -⟩ := (hmem n).mp hn
      exact hs _ ((hbuilding x hx).mp hb)
  cases segment with
  | none => exact hnone (by simp)
  | waste => exact hnone (by simp)
  | awaitA => exact hnone (by simp)
  | roll n =>
    dsimp only
    simp only [Segment.roll.injEq]
    constructor
    · intro heq
      obtain ⟨y, hy, hyb, hyn⟩ := (hmem n).mp (heq ▸ List.mem_singleton.mpr rfl)
      refine ⟨fun x hx => ⟨fun hb => ?_, fun hxn => ?_⟩, fun m hm => ⟨y, hy, hyn.trans hm⟩⟩
      · have hin := (hmem x.serial).mpr ⟨x, hx, hb, rfl⟩
        rw [heq] at hin
        exact (List.mem_singleton.mp hin).symm
      · obtain rfl : y = x := List.inj_on_of_nodup_map hnodup hy hx (hyn.trans hxn)
        exact hyb
    · rintro ⟨hbuilding, hnamed⟩
      have hsub : ((rolls.filter fun x => x.state == .building).map Roll.serial).Nodup :=
        hnodup.sublist (List.Sublist.map _ List.filter_sublist)
      refine List.perm_singleton.mp ((List.perm_ext_iff_of_nodup hsub (List.nodup_singleton n)).mpr fun m => ?_)
      rw [hmem, List.mem_singleton]
      constructor
      · rintro ⟨x, hx, hb, rfl⟩
        exact ((hbuilding x hx).mp hb).symm
      · rintro rfl
        obtain ⟨x, hx, hxm⟩ := hnamed _ rfl
        exact ⟨x, hx, (hbuilding x hx).mpr hxm.symm, hxm⟩

/-- No batch may be spent. -/
def noneSpare : Nat → Prop := fun _ => False

/-- The four laws of the tables are the one structure. -/
theorem tablesSound_iff (s : State) :
    ((RollsSound s ∧ BatchesSound s) ∧ LabelsSound s ∧ RollStatesSound s) ↔
      TableLaws noneSpare (fun n => n ∈ s.ks.endings) s ∧ SessionLaws s := by
  constructor
  · rintro ⟨⟨⟨hroom, horder, hserials, hbuilding, hsegment, hrollsNone⟩,
      hbroom, hborder, hbatches, hrollBatch, hrecordBatch, hactive, hbatchesNone⟩,
      ⟨hnodup, hclosed, hmem, houtstanding, hready⟩, hsound, hwaits⟩
    have hserialNodup : (s.rb.rolls.map Roll.serial).Nodup :=
      List.pairwise_map.mpr (horder.imp Nat.ne_of_lt)
    obtain ⟨hb, hn⟩ := (building_iff _ hserialNodup).mp hbuilding
    have hkeys : ∀ n ∈ s.ld.order, ∃ p, ClosedKey s.rb.rolls p ∧ p.1 = n := by
      intro n hno
      obtain ⟨x, hx, hxn, hxc⟩ := hclosed n hno
      exact ⟨rollKey x, ⟨x, hx, hxc, rfl⟩, hxn⟩
    refine ⟨⟨⟨by simpa using hroom, List.pairwise_map.mpr horder, ?_, hbroom, hborder, ?_, ?_, ?_, ?_, ?_, ?_⟩,
      ⟨hb, hn, hsound, hwaits⟩, ⟨hnodup, hkeys, ?_, houtstanding, ?_⟩⟩,
      hsegment, hactive, fun hinv => ⟨hrollsNone hinv, hbatchesNone hinv⟩⟩
    · intro p hp
      obtain ⟨x, hx, rfl⟩ := List.mem_map.mp hp
      exact hserials x hx
    · exact fun b hbm => ⟨(hbatches b hbm).1, (hbatches b hbm).2.1⟩
    · intro b hbm
      obtain ⟨-, -, hrolls, -, -⟩ := hbatches b hbm
      rw [hrolls, List.countP_map]
      rfl
    · intro b hbm
      obtain ⟨-, -, -, hqueued, -⟩ := hbatches b hbm
      rw [hqueued, List.countP_map]
      rfl
    · intro b hbm hs
      obtain ⟨-, -, -, -, hunspent⟩ := hbatches b hbm
      rw [hs] at hunspent
      cases hunspent
    · intro p hp
      obtain ⟨x, hx, rfl⟩ := List.mem_map.mp hp
      exact hrollBatch x hx
    · intro v hv
      obtain ⟨k, hk, rfl⟩ := List.mem_map.mp hv
      exact hrecordBatch k hk
    · rintro p ⟨x, hx, hxc, rfl⟩
      exact hmem x hx hxc
    · rw [hready]
      exact headIsReady_iff hserialNodup hkeys
  · rintro ⟨⟨hcounts, hrolls, hlabels⟩, hsegment, hactive, hunknown⟩
    have hserialOrder := hcounts.rollOrder
    rw [List.pairwise_map] at hserialOrder
    have hserialNodup : (s.rb.rolls.map Roll.serial).Nodup :=
      List.pairwise_map.mpr (hserialOrder.imp Nat.ne_of_lt)
    refine ⟨⟨⟨by simpa using hcounts.rollRoom, hserialOrder, fun x hx => hcounts.serials _ (List.mem_map_of_mem hx),
      (building_iff _ hserialNodup).mpr ⟨hrolls.building, hrolls.named⟩, hsegment, fun hinv => (hunknown hinv).1⟩,
      hcounts.batchRoom, hcounts.batchOrder, fun b hb => ?_, fun x hx => hcounts.rollBatch _ (List.mem_map_of_mem hx),
      fun k hk => hcounts.recordBatch _ (List.mem_map_of_mem hk), hactive, fun hinv => (hunknown hinv).2⟩,
      ⟨hlabels.nodup, fun n hn => ?_, fun x hx hxc => hlabels.mem_of_closed _ ⟨x, hx, hxc, rfl⟩, hlabels.outstanding, ?_⟩,
      hrolls.sound, hrolls.waits⟩
    · obtain ⟨hlow, hhigh⟩ := hcounts.codes b hb
      have hcount := hcounts.rolls b hb
      have hqueued := hcounts.queued b hb
      rw [List.countP_map] at hcount hqueued
      exact ⟨hlow, hhigh, hcount, hqueued, Bool.eq_false_iff.mpr (hcounts.spent b hb)⟩
    · obtain ⟨p, ⟨x, hx, hxc, rfl⟩, hxn⟩ := hlabels.closed_of_mem n hn
      exact ⟨x, hx, hxn, hxc⟩
    · rw [Bool.eq_iff_iff, hlabels.ready, headIsReady_iff hserialNodup hlabels.closed_of_mem]

end

end Sys2Proof.Proofs
end

section
/-! PROOFS. What the operations on one roll, one batch and one cut do to the laws of the tables. -/

namespace Sys2Proof.Proofs

open Sys2Proof Sys2Proof.Machine

theorem eraseBy_split {α : Type} (key : α → Nat) {l : List α} {x : α} (hnodup : (l.map key).Nodup) (hx : x ∈ l) :
    ∃ pre post, l = pre ++ x :: post ∧ eraseBy key (key x) l = pre ++ post := by
  obtain ⟨pre, post, rfl⟩ := List.append_of_mem hx
  rw [List.map_append, List.map_cons, List.nodup_append] at hnodup
  obtain ⟨-, htail, hdisjoint⟩ := hnodup
  rw [List.nodup_cons] at htail
  obtain ⟨hpost, -⟩ := htail
  have hkept : ∀ m : List α, (∀ y ∈ m, key y ≠ key x) → eraseBy key (key x) m = m := fun m hm =>
    List.filter_eq_self.mpr fun y hy => by simpa using hm y hy
  refine ⟨pre, post, rfl, ?_⟩
  have hsplit : eraseBy key (key x) (pre ++ x :: post) = eraseBy key (key x) pre ++ eraseBy key (key x) post := by
    simp [eraseBy, List.filter_append]
  rw [hsplit, hkept pre, hkept post]
  · exact fun y hy heq => hpost (heq ▸ List.mem_map_of_mem hy)
  · exact fun y hy => hdisjoint _ (List.mem_map_of_mem hy) _ List.mem_cons_self

/-- Everything but the Roll Builder agrees. -/
def SameBeside (s t : State) : Prop :=
  t.batches = s.batches ∧ t.rt.queue.map RepeatRecord.shade = s.rt.queue.map RepeatRecord.shade ∧ t.ld = s.ld ∧
  t.ps.reserved = s.ps.reserved ∧ t.ps.mirror = s.ps.mirror

section
variable {spare ending ending' : Nat → Prop} {s t : State}

/-! ### Batches -/

theorem TableLaws.freeTest {code : Nat} (h : TableLaws (fun n => spare n ∨ n = code) ending s) :
    TableLaws spare ending (freeTest s code) := by
  obtain ⟨hcounts, hrolls, hlabels⟩ := h
  exact ⟨by simpa only [freeTest_frame, freeTest_batches] using hcounts.free, by simpa only [freeTest_frame] using hrolls,
    by simpa only [freeTest_frame] using hlabels⟩

/-- R101: the freeing test of the batch that a record named. -/
theorem TableLaws.freeTestOf {v : ShadeVerdict} (h : TableLaws (fun n => spare n ∨ v = .batch n) ending s) :
    TableLaws spare ending (freeTestOf s v) := by
  have hnone : (∀ n, v ≠ .batch n) → TableLaws spare ending s := fun hv =>
    { h with counts := h.counts.mono fun n hn => hn.resolve_right (hv n) }
  cases v with
  | pending => exact hnone (by simp)
  | noBatch => exact hnone (by simp)
  | batch code =>
    refine TableLaws.freeTest { h with counts := h.counts.mono fun n hn => hn.imp_right fun heq => ?_ }
    exact (ShadeVerdict.batch.inj heq).symm

/-- R54 steps 1 and 2: the head record leaves the queue, and its batch counts it no more. -/
theorem TableLaws.popRecord {k : RepeatRecord} {rest : List RepeatRecord} (h : TableLaws spare ending s)
    (hq : s.rt.queue = k :: rest) :
    TableLaws (fun n => spare n ∨ k.shade = .batch n) ending
      (lowerQueued { s with rt := { s.rt with queue := s.rt.queue.tail } } k.shade) := by
  obtain ⟨hcounts, hrolls, hlabels⟩ := h
  rw [hq, List.map_cons] at hcounts
  refine ⟨?_, by simpa using hrolls, by simpa using hlabels⟩
  have hbatches := lowerQueued_batches { s with rt := { s.rt with queue := s.rt.queue.tail } } k
  rw [hbatches]
  simpa [hq] using hcounts.popRecord

/-! ### Changes of one roll -/

theorem map_rollKey_updateBy {n : Nat} {f : Roll → Roll} (hkey : ∀ x, rollKey (f x) = rollKey x) (l : List Roll) :
    (updateBy Roll.serial n f l).map rollKey = l.map rollKey := by
  unfold updateBy
  rw [List.map_map]
  refine List.map_congr_left fun x _ => ?_
  simp only [Function.comp]
  split_ifs
  · exact hkey x
  · rfl

theorem closedKey_updateBy {n : Nat} {f : Roll → Roll} {l : List Roll} (hkey : ∀ x, rollKey (f x) = rollKey x)
    (hclosed : ∀ x ∈ l, x.serial = n → ((f x).state = .closed ↔ x.state = .closed)) (p : Nat × Nat) :
    ClosedKey (updateBy Roll.serial n f l) p ↔ ClosedKey l p := by
  have hone : ∀ x ∈ l, (((if x.serial = n then f x else x).state = .closed) ↔ x.state = .closed) ∧
      rollKey (if x.serial = n then f x else x) = rollKey x := by
    intro x hx
    split_ifs with hxn
    · exact ⟨hclosed x hx hxn, hkey x⟩
    · exact ⟨Iff.rfl, rfl⟩
  constructor
  · rintro ⟨y, hy, hyc, hyp⟩
    obtain ⟨x, hx, rfl⟩ := (mem_updateBy ..).mp hy
    exact ⟨x, hx, (hone x hx).1.mp hyc, (hone x hx).2 ▸ hyp⟩
  · rintro ⟨x, hx, hxc, hxp⟩
    exact ⟨_, (mem_updateBy ..).mpr ⟨x, hx, rfl⟩, (hone x hx).1.mpr hxc, (hone x hx).2.trans hxp⟩

/-- A write to one roll that keeps its key and whether it is CLOSED. -/
theorem TableLaws.update (h : TableLaws spare ending s) {n : Nat} {f : Roll → Roll}
    (hrolls : t.rb.rolls = updateBy Roll.serial n f s.rb.rolls) (hbeside : SameBeside s t)
    (hkey : ∀ x, rollKey (f x) = rollKey x)
    (hclosed : ∀ x ∈ s.rb.rolls, x.serial = n → ((f x).state = .closed ↔ x.state = .closed))
    (hstates : RollLaws ending' (updateBy Roll.serial n f s.rb.rolls) t.rb.segment) : TableLaws spare ending' t := by
  obtain ⟨hbatches, hshades, hld, hreserved, hmirror⟩ := hbeside
  refine ⟨?_, hrolls ▸ hstates, ?_⟩
  · rw [hrolls, map_rollKey_updateBy hkey, hbatches, hshades, hreserved]
    exact h.counts
  · rw [hrolls, hld, hmirror]
    exact h.labels.congr (closedKey_updateBy hkey hclosed)

theorem serial_of_key {f : Roll → Roll} (hkey : ∀ x, rollKey (f x) = rollKey x) (x : Roll) :
    (f x).serial = x.serial := congrArg Prod.fst (hkey x)

/-- A write to one roll that keeps its key and its state. -/
theorem TableLaws.rewrite (h : TableLaws spare ending s) (n : Nat) {f : Roll → Roll}
    (hkey : ∀ x, rollKey (f x) = rollKey x) (hstate : ∀ x, (f x).state = x.state) (hsound : ∀ x, x.Sound → (f x).Sound) :
    TableLaws spare ending (s.updateRoll n f) := by
  refine h.update (n := n) (f := f) rfl ⟨rfl, rfl, rfl, rfl, rfl⟩ hkey (fun x _ _ => by rw [hstate])
    (h.rolls.update n (serial_of_key hkey) (fun x hx hxn hs => ⟨?_, hsound x hs, ?_⟩) (fun m _ => ⟨Iff.rfl, id⟩) id)
  · rw [hstate, ← hxn]
    exact h.rolls.building x hx
  · rw [hstate, ← hxn]
    exact h.rolls.waits x hx

/-- A record folded, a fire position recorded: the fields that the laws read stay. -/
theorem TableLaws.rewriteSame (h : TableLaws spare ending s) (n : Nat) {f : Roll → Roll}
    (hsame : ∀ x, (f x).serial = x.serial ∧ (f x).batch = x.batch ∧ (f x).state = x.state ∧ (f x).cls = x.cls ∧
      (f x).hold = x.hold ∧ (f x).accepted = x.accepted) : TableLaws spare ending (s.updateRoll n f) := by
  refine h.rewrite n (fun x => ?_) (fun x => (hsame x).2.2.1) fun x hx => ?_
  · obtain ⟨hserial, hbatch, -⟩ := hsame x
    rw [rollKey, hserial, hbatch, rollKey]
  · obtain ⟨-, -, hstate, hcls, hhold, haccepted⟩ := hsame x
    unfold Roll.Sound
    rwa [hstate, hcls, hhold, haccepted]

/-- R143 step 1: hold flags on a roll that is BUILDING or ENDING. -/
theorem roll_addHold_keeps (x : Roll) (g : HoldFlags) :
    rollKey (x.addHold g) = rollKey x ∧ (x.addHold g).state = x.state ∧ (x.Sound → (x.addHold g).Sound) := by
  unfold Roll.addHold
  split_ifs with hstate
  · refine ⟨rfl, rfl, fun hx => ?_⟩
    obtain ⟨hcls, hremnant, -, -⟩ := hx
    refine ⟨hcls, hremnant, fun hheld => ?_, fun hclosed => ?_⟩
    · rcases hstate with hs | hs <;> rw [hs] at hheld <;> cases hheld
    · rcases hstate with hs | hs <;> rw [hs] at hclosed <;> cases hclosed
  · exact ⟨rfl, rfl, id⟩

theorem TableLaws.holdOne (h : TableLaws spare ending s) (n : Nat) (g : HoldFlags) :
    TableLaws spare ending (s.updateRoll n fun x => x.addHold g) :=
  h.rewrite n (fun x => (roll_addHold_keeps x g).1) (fun x => (roll_addHold_keeps x g).2.1)
    fun x => (roll_addHold_keeps x g).2.2

theorem TableLaws.addHold (h : TableLaws spare ending s) (n : Option Nat) (g : HoldFlags) :
    TableLaws spare ending (addHold s n g) := by
  cases n with
  | none => exact h
  | some n => exact h.holdOne n g

theorem TableLaws.recordPositions (h : TableLaws spare ending s) (c : Cut) :
    TableLaws spare ending (recordPositions s c) := by
  have hstarts : ∀ {u : State} (n : Nat), TableLaws spare ending u →
      TableLaws spare ending (u.updateRoll n fun x => { x with startPos := c.pos }) := fun n hu =>
    hu.rewriteSame n fun _ => ⟨rfl, rfl, rfl, rfl, rfl, rfl⟩
  have hends : ∀ {u : State} (n : Nat), TableLaws spare ending u →
      TableLaws spare ending (u.updateRoll n fun x => { x with endPos := some c.pos }) := fun n hu =>
    hu.rewriteSame n fun _ => ⟨rfl, rfl, rfl, rfl, rfl, rfl⟩
  unfold Machine.recordPositions
  cases c.kind with
  | ends e => exact hends e h
  | starts n => exact hstarts n h
  | endStart e n => exact hends e (hstarts n h)

/-- R121, R134: the BUILDING roll becomes ENDING and the segment names no roll. -/
theorem TableLaws.markEnding {n : Nat} {cls : RollClass} (h : TableLaws spare ending s)
    (hsegment : s.rb.segment = .roll n) (hrolls : t.rb.rolls = (markEnding s n cls).rb.rolls)
    (hbeside : SameBeside s t) (ht : ∀ m, t.rb.segment ≠ .roll m) :
    TableLaws spare (fun m => ending m ∨ m = n) t := by
  refine h.update hrolls hbeside (fun _ => rfl) (fun x hx hxn => iff_of_false nofun fun hc => ?_)
    (h.rolls.update n (fun _ => rfl) (fun x _ _ _ => ⟨iff_of_false nofun (ht n), ?_, fun _ => .inr rfl⟩)
      (fun m hm => ⟨iff_of_false (ht m) fun hs => hm ?_, .inl⟩) fun hs => absurd hs (ht n))
  · have hb := (h.rolls.building x hx).mpr (hsegment.trans (by rw [hxn]))
    rw [hb] at hc
    cases hc
  · exact ⟨iff_of_false nofun nofun, fun hs => hs.elim nofun nofun, nofun, nofun⟩
  · rw [hsegment] at hs
    exact (Segment.roll.inj hs).symm

/-! ### Rolls that leave and labels -/

/-- R102, R103: the counts without a roll; `g` lowers the roll count of its batch. -/
theorem counts_eraseRoll {x : Roll} {g : BatchEntry → BatchEntry} {shades : List ShadeVerdict} {rolls : List Roll}
    {bs : List BatchEntry} {reserved : Option Counters} (h : CountLaws spare (rolls.map rollKey) shades bs reserved)
    (hnodup : (rolls.map Roll.serial).Nodup) (hx : x ∈ rolls) (hcode : ∀ b, (g b).code = b.code)
    (hrolls : ∀ b, (g b).rolls = b.rolls - 1) (hqueued : ∀ b, (g b).queued = b.queued) :
    CountLaws (fun n => spare n ∨ n = x.batch) ((eraseBy Roll.serial x.serial rolls).map rollKey) shades
      (updateBy BatchEntry.code x.batch g bs) reserved := by
  obtain ⟨pre, post, hsplit, herase⟩ := eraseBy_split Roll.serial hnodup hx
  rw [herase, List.map_append]
  rw [hsplit, List.map_append, List.map_cons] at h
  exact h.dropRoll (x := rollKey x) hcode hrolls hqueued

/-- R102: a roll that is not CLOSED leaves the table, and its batch is tested. -/
theorem TableLaws.erase {x : Roll} (h : TableLaws spare ending s) (hx : x ∈ s.rb.rolls) (hstate : x.state ≠ .closed)
    (hrolls : t.rb.rolls = eraseBy Roll.serial x.serial s.rb.rolls)
    (hbatches : t.batches = (dropRoll s x).batches)
    (hshades : t.rt.queue.map RepeatRecord.shade = s.rt.queue.map RepeatRecord.shade) (hld : t.ld = s.ld)
    (hps : t.ps = s.ps) (hstates : RollLaws ending' t.rb.rolls t.rb.segment) : TableLaws spare ending' t := by
  have hclosed : ∀ p, ClosedKey (eraseBy Roll.serial x.serial s.rb.rolls) p ↔ ClosedKey s.rb.rolls p := by
    intro p
    constructor
    · rintro ⟨y, hy, hrest⟩
      exact ⟨y, ((mem_eraseBy ..).mp hy).1, hrest⟩
    · rintro ⟨y, hy, hyc, hyp⟩
      refine ⟨y, (mem_eraseBy ..).mpr ⟨hy, fun heq => hstate ?_⟩, hyc, hyp⟩
      rw [← h.unique hy hx heq]
      exact hyc
  refine ⟨?_, hstates, ?_⟩
  · rw [hrolls, hbatches, hshades, hps, dropRoll_batches]
    exact (counts_eraseRoll (g := fun b => { b with rolls := b.rolls - 1 }) h.counts h.nodup hx (fun _ => rfl)
      (fun _ => rfl) fun _ => rfl).free
  · rw [hrolls, hld, hps]
    exact h.labels.congr hclosed

theorem dropRoll_rb (s : State) (x : Roll) :
    (dropRoll s x).rb = { s.rb with rolls := eraseBy Roll.serial x.serial s.rb.rolls } := by
  simp [dropRoll, lowerRolls, State.eraseRoll, State.updateBatch]

theorem TableLaws.dropRoll {x : Roll} (h : TableLaws spare ending s) (hx : x ∈ s.rb.rolls) (hclosed : x.state ≠ .closed)
    (hbuilding : x.state ≠ .building) (hends : ∀ m, m ≠ x.serial → ending m → ending' m) :
    TableLaws spare ending' (dropRoll s x) := by
  have hsegment : s.rb.segment ≠ .roll x.serial := fun hs => hbuilding ((h.rolls.building x hx).mpr hs)
  refine h.erase hx hclosed (by rw [dropRoll_rb]) rfl (by simp) (by simp) (by simp) ?_
  rw [dropRoll_rb]
  exact h.rolls.erase hsegment hends

/-- R143 step 2, R155, R170: a roll becomes CLOSED and joins the label order. -/
theorem TableLaws.joinClosed {x : Roll} {f : Roll → Roll} (h : TableLaws spare ending s) (hx : x ∈ s.rb.rolls)
    (hbuilding : x.state ≠ .building) (hopen : x.state ≠ .closed) (hkey : ∀ y, rollKey (f y) = rollKey y)
    (hf : (f x).state = .closed) (hsound : x.Sound → (f x).Sound) (hends : ∀ m, m ≠ x.serial → ending m → ending' m) :
    TableLaws spare ending' (joinOrder (s.updateRoll x.serial f) x.serial) := by
  have hrb : (joinOrder (s.updateRoll x.serial f) x.serial).rb = (s.updateRoll x.serial f).rb := by simp
  obtain ⟨horder, houtstanding⟩ := joinOrder_ld (s.updateRoll x.serial f) x.serial
  have honly : ∀ y ∈ s.rb.rolls, y.serial = x.serial → y = x := fun y hy hyx => h.unique hy hx hyx
  have hmem : f x ∈ updateBy Roll.serial x.serial f s.rb.rolls :=
    (mem_updateBy ..).mpr ⟨x, hx, (if_pos rfl).symm⟩
  have hnodup : ((updateBy Roll.serial x.serial f s.rb.rolls).map Roll.serial).Nodup := by
    rw [map_key_updateBy _ _ _ (serial_of_key hkey)]
    exact h.nodup
  have hclosed : ∀ q, ClosedKey (updateBy Roll.serial x.serial f s.rb.rolls) q ↔
      ClosedKey s.rb.rolls q ∨ q = rollKey x := by
    intro q
    constructor
    · rintro ⟨y, hy, hyc, rfl⟩
      obtain ⟨z, hz, rfl⟩ := (mem_updateBy ..).mp hy
      split_ifs at hyc ⊢ with hzx
      · obtain rfl := honly z hz hzx
        exact .inr (hkey z)
      · exact .inl ⟨z, hz, hyc, rfl⟩
    · rintro (⟨y, hy, hyc, rfl⟩ | rfl)
      · refine ⟨y, (mem_updateBy ..).mpr ⟨y, hy, ?_⟩, hyc, rfl⟩
        rw [if_neg]
        intro hyx
        obtain rfl := honly y hy hyx
        exact hopen hyc
      · exact ⟨f x, hmem, hf, hkey x⟩
  have hready := joinOrder_headReady (s.updateRoll x.serial f) x.serial (f x) (by
    have hfind := findBy_nodup Roll.serial _ (f x) hnodup hmem
    rw [serial_of_key hkey] at hfind
    exact hfind)
  refine ⟨?_, ?_, ?_⟩
  · have hcounts : CountLaws spare ((updateBy Roll.serial x.serial f s.rb.rolls).map rollKey)
        (s.rt.queue.map RepeatRecord.shade) s.batches s.ps.reserved := by
      rw [map_rollKey_updateBy hkey]
      exact h.counts
    simpa [State.updateRoll] using hcounts
  · rw [hrb]
    refine h.rolls.update x.serial (serial_of_key hkey) (fun y hy hyx hys => ?_) (fun m hm => ⟨Iff.rfl, hends m hm⟩) id
    obtain rfl := honly y hy hyx
    refine ⟨iff_of_false (by rw [hf]; nofun) fun hs => hbuilding ((h.rolls.building y hy).mpr hs), hsound hys, ?_⟩
    rw [hf]
    exact nofun
  · have hlabels : LabelLaws (ClosedKey (updateBy Roll.serial x.serial f s.rb.rolls))
        (joinOrder (s.updateRoll x.serial f) x.serial).ld s.ps.mirror := by
      refine h.labels.join (p := rollKey x) ?_ hclosed horder houtstanding ?_
      · rintro q ⟨y, hy, hyc, rfl⟩ heq
        obtain rfl := honly y hy heq
        exact hopen hyc
      · have hkeyx := hkey x
        unfold rollKey at hkeyx
        rw [Prod.mk.injEq] at hkeyx
        rw [hready, hkeyx.1, hkeyx.2]
        rfl
    simpa [State.updateRoll] using hlabels

/-! ### The completion of a cut -/

/-- R143: an ENDING roll is completed, and waits for no cut any more. -/
theorem TableLaws.completeEnding {n : Nat} (h : TableLaws spare ending s) (o : CutOutcome)
    (hends : ∀ m, m ≠ n → ending m → ending' m) : TableLaws spare ending' (completeEnding s n o) := by
  have hleft : (∀ x ∈ s.rb.rolls, x.serial = n → x.state ≠ .ending) → TableLaws spare ending' s := fun hnone =>
    { h with
      rolls := { h.rolls with
        waits := fun x hx he => by
          by_cases hxn : x.serial = n
          · exact absurd he (hnone x hx hxn)
          · exact hends _ hxn (h.rolls.waits x hx he) } }
  unfold Machine.completeEnding
  split
  · next x hfind =>
    obtain ⟨hx, hxn⟩ := findBy_mem _ _ _ _ hfind
    subst hxn
    split_ifs with hstate hremnant hhold
    · have hdropped : TableLaws spare ending' (Machine.dropRoll s x) :=
        h.dropRoll hx (by rw [hstate]; nofun) (by rw [hstate]; nofun) hends
      exact hdropped.congr ⟨rfl, rfl, rfl, rfl, rfl, rfl, rfl⟩
    · refine h.update (n := x.serial) (f := fun r => { r with state := .held }) rfl ⟨rfl, rfl, rfl, rfl, rfl⟩
        (fun _ => rfl) (fun y hy hyx => ?_) (h.rolls.update x.serial (fun _ => rfl) (fun y hy hyx hys => ?_)
          (fun m hm => ⟨Iff.rfl, hends m hm⟩) id)
      · rw [h.unique hy hx hyx, hstate]
        exact iff_of_false nofun nofun
      · obtain rfl := h.unique hy hx hyx
        have hcls : y.cls ≠ none := fun hc => by
          have hb := hys.1.mpr hc
          rw [hstate] at hb
          cases hb
        refine ⟨iff_of_false nofun fun hs => ?_, ⟨iff_of_false nofun hcls, fun _ => hremnant, fun _ => hhold, nofun⟩, nofun⟩
        have hb := (h.rolls.building y hy).mpr hs
        rw [hstate] at hb
        cases hb
    · refine h.joinClosed (f := fun r => { r with state := .closed }) hx (by rw [hstate]; nofun) (by rw [hstate]; nofun)
        (fun _ => rfl) rfl (fun hxs => ?_) hends
      have hcls : x.cls ≠ none := fun hc => by
        have hb := hxs.1.mpr hc
        rw [hstate] at hb
        cases hb
      exact ⟨iff_of_false nofun hcls, fun _ => hremnant, nofun, fun _ hany => absurd hany hhold⟩
    · exact hleft fun y hy hyx => by rwa [h.unique hy hx hyx]
  · next hfind => exact hleft fun y hy hyn => absurd hyn ((findBy_none ..).mp hfind y hy)

/-- R143, R147, R148: the rolls of a cut are completed. -/
theorem TableLaws.completeRolls (h : TableLaws spare ending s) (k : CutKind) (o : CutOutcome) (g : HoldFlags)
    (hends : ∀ m, k.ending ≠ some m → ending m → ending' m) : TableLaws spare ending' (completeRolls s k o g) := by
  have hheld := (h.addHold k.starting g).addHold k.ending g
  unfold Machine.completeRolls
  dsimp only
  split
  · next n hn =>
    have hdone : TableLaws spare ending' (Machine.completeEnding
        (Machine.addHold (Machine.addHold s k.starting g) k.ending g) n o) :=
      hheld.completeEnding o fun m hm => hends m fun heq => hm (Option.some.inj (heq.symm.trans hn))
    exact hdone.congr ⟨rfl, rfl, rfl, rfl, rfl, rfl, rfl⟩
  · next hn =>
    exact (hheld.ends fun m => hends m (by rw [hn]; nofun)).congr ⟨rfl, rfl, rfl, rfl, rfl, rfl, rfl⟩

end

end Sys2Proof.Proofs
end

section
/-! PROOFS. What queued cuts, hand-overs and drain completion do to the laws of the tables. -/

namespace Sys2Proof.Proofs

open Sys2Proof Sys2Proof.Machine

/-! ### The cuts that end a roll -/

theorem mem_endings (ks : KnifeSequencer) (n : Nat) : n ∈ ks.endings ↔
    (∃ c ∈ ks.queue, c.kind.ending = some n) ∨ ∃ o ∈ ks.outstanding, o.cut.kind.ending = some n := by
  unfold KnifeSequencer.endings
  simp only [List.mem_filterMap, List.mem_append, or_and_right, exists_or]
  refine or_congr Iff.rfl ?_
  cases ks.outstanding <;> simp

/-- R145: a cut that fires is still a cut that its roll waits for. -/
theorem fireIfDue_endings (s : State) (n : Nat) : n ∈ (fireIfDue s).ks.endings ↔ n ∈ s.ks.endings := by
  unfold fireIfDue
  split
  · next c rest hq ho _ =>
    have hks := (markLate_frame (reachTest { s with
      ks := { s.ks with queue := rest, outstanding := some (s.outstandingOf c), knifeReq := true }
      wpu := { s.wpu with reach := false } }) (s.outstandingOf c)).2.2.2.1
    dsimp only
    rw [hks, mem_endings, mem_endings, hq, ho]
    simp only [reachTest, Option.mem_def, Option.some.injEq, List.mem_cons, reduceCtorEq, false_and, exists_false, or_false,
      exists_eq_left', exists_eq_or_imp]
    exact or_comm
  · exact Iff.rfl

theorem knifeCompare_endings (s : State) (n : Nat) : n ∈ (knifeCompare s).ks.endings ↔ n ∈ s.ks.endings :=
  fireIfDue_endings (reachTest s) n

theorem raised_kind (ks : KnifeSequencer) (c : Cut) : (ks.raised c).kind = c.kind := by
  unfold KnifeSequencer.raised
  split
  · split_ifs <;> rfl
  · rfl

/-- R142: the roll that a placed cut ends waits for it. -/
theorem placeCut_endings (s : State) (c : Cut) (n : Nat) :
    n ∈ (placeCut s c).ks.endings ↔ n ∈ s.ks.endings ∨ c.kind.ending = some n := by
  have hplaced : n ∈ (recordPositions { s with ks := { s.ks with queue := s.ks.queue ++ [c] } } c).ks.endings ↔
      n ∈ s.ks.endings ∨ c.kind.ending = some n := by
    rw [recordPositions_ks, mem_endings, mem_endings]
    simp only [List.mem_append, List.mem_singleton, or_and_right, exists_or, exists_eq_left]
    exact or_right_comm
  unfold placeCut
  dsimp only
  split_ifs
  · exact (knifeCompare_endings _ n).trans hplaced
  · exact hplaced

section
variable {spare ending ending' : Nat → Prop} {s t : State}

theorem TableLaws.fireIfDue (h : TableLaws spare ending s) : TableLaws spare ending (fireIfDue s) := by
  unfold Machine.fireIfDue
  split
  · next c rest _ _ _ =>
    have hreached : TableLaws spare ending (reachTest { s with
        ks := { s.ks with queue := rest, outstanding := some (s.outstandingOf c), knifeReq := true }
        wpu := { s.wpu with reach := false } }) := h.congr ⟨rfl, rfl, rfl, rfl, rfl, rfl, rfl⟩
    dsimp only
    unfold markLate
    split_ifs
    · refine TableLaws.addHold ?_ _ _
      exact hreached.congr ⟨rfl, rfl, rfl, rfl, rfl, rfl, rfl⟩
    · exact hreached
  · exact h

theorem TableLaws.knifeCompare (h : TableLaws spare ending s) : TableLaws spare ending (knifeCompare s) :=
  TableLaws.fireIfDue (h.congr (t := reachTest s) ⟨rfl, rfl, rfl, rfl, rfl, rfl, rfl⟩)

/-- R142, R144: a cut handed over is queued, and its ending roll waits for it; or it is refused, and the roll is
completed. -/
theorem TableLaws.queueCut {c : Cut} (h : TableLaws spare (fun n => n ∈ s.ks.endings ∨ c.kind.ending = some n) s) :
    TableLaws spare (fun n => n ∈ (queueCut s c).ks.endings) (queueCut s c) := by
  unfold Machine.queueCut
  split_ifs
  · have hplaced : TableLaws spare (fun n => n ∈ s.ks.endings ∨ c.kind.ending = some n)
        (placeCut s (s.ks.raised c)) := by
      have hqueued : TableLaws spare (fun n => n ∈ s.ks.endings ∨ c.kind.ending = some n)
          { s with ks := { s.ks with queue := s.ks.queue ++ [s.ks.raised c] } } :=
        h.congr ⟨rfl, rfl, rfl, rfl, rfl, rfl, rfl⟩
      unfold placeCut
      dsimp only
      split_ifs
      · exact (hqueued.recordPositions _).knifeCompare
      · exact hqueued.recordPositions _
    refine hplaced.ends fun n hn => ?_
    rwa [placeCut_endings, raised_kind]
  · have hrefused : (refuseCut s c).ks = s.ks := by simp
    rw [hrefused]
    refine TableLaws.completeRolls ?_ _ _ _ fun m hm hwait => Or.resolve_right hwait hm
    exact (h.recordPositions c).congr ⟨rfl, rfl, rfl, rfl, rfl, rfl, rfl⟩

/-! ### What a cut leaves of the Roll Builder -/

theorem addHold_segment (s : State) (n : Option Nat) (g : HoldFlags) : (addHold s n g).rb.segment = s.rb.segment := by
  cases n <;> rfl

theorem recordPositions_segment (s : State) (c : Cut) : (recordPositions s c).rb.segment = s.rb.segment := by
  unfold recordPositions
  cases c.kind <;> rfl

theorem completeEnding_segment (s : State) (n : Nat) (o : CutOutcome) :
    (completeEnding s n o).rb.segment = s.rb.segment := by
  unfold completeEnding
  split
  · split_ifs
    · change (dropRoll s _).rb.segment = s.rb.segment
      rw [dropRoll_rb]
    · rfl
    · simp [closeRoll]
    · rfl
  · rfl

theorem completeRolls_segment (s : State) (k : CutKind) (o : CutOutcome) (g : HoldFlags) :
    (completeRolls s k o g).rb.segment = s.rb.segment := by
  unfold completeRolls
  dsimp only
  split
  · change (completeEnding _ _ o).rb.segment = _
    rw [completeEnding_segment, addHold_segment, addHold_segment]
  · change (addHold _ _ g).rb.segment = _
    rw [addHold_segment, addHold_segment]

theorem fireIfDue_segment (s : State) : (fireIfDue s).rb.segment = s.rb.segment := by
  unfold fireIfDue
  split
  · dsimp only
    unfold markLate
    split_ifs
    · rw [addHold_segment]
      rfl
    · rfl
  · rfl

theorem queueCut_segment (s : State) (c : Cut) : (queueCut s c).rb.segment = s.rb.segment := by
  unfold queueCut placeCut refuseCut
  dsimp only
  split_ifs
  · unfold knifeCompare
    rw [fireIfDue_segment]
    change (recordPositions _ _).rb.segment = _
    rw [recordPositions_segment]
  · rw [recordPositions_segment]
  · rw [completeRolls_segment]
    change (recordPositions _ _).rb.segment = _
    rw [recordPositions_segment]

/-! ### Starts -/

/-- R123: the segment changes while no roll builds. -/
theorem TableLaws.resegment (h : TableLaws spare ending s) (hs : ∀ n, s.rb.segment ≠ .roll n)
    (hrolls : t.rb.rolls = s.rb.rolls) (hbeside : SameBeside s t) (ht : ∀ n, t.rb.segment ≠ .roll n) :
    TableLaws spare ending t := by
  obtain ⟨hbatches, hshades, hld, hreserved, hmirror⟩ := hbeside
  obtain ⟨hcounts, ⟨hbuilding, -, hsound, hwaits⟩, hlabels⟩ := h
  refine ⟨by rwa [hrolls, hbatches, hshades, hreserved], ?_, by rwa [hrolls, hld, hmirror]⟩
  rw [hrolls]
  exact ⟨fun x hx => (hbuilding x hx).trans (iff_of_false (hs _) (ht _)), fun n hn => absurd hn (ht n), hsound, hwaits⟩

theorem TableLaws.goWaste (h : TableLaws spare ending s) (hs : ∀ n, s.rb.segment ≠ .roll n) :
    TableLaws spare ending (goWaste s) :=
  h.resegment hs rfl ⟨rfl, rfl, rfl, rfl, rfl⟩ nofun

theorem reserveRoll_counters (ps : PersistentStore) :
    ps.reserveRoll.reserved = some { ps.reservedNow with roll := ps.reservedNow.roll + 1 } ∧
    ps.reserveRoll.mirror = ps.mirror := by
  unfold PersistentStore.reserveRoll PersistentStore.requestCommit
  split <;> exact ⟨rfl, rfl⟩

theorem reserveBatch_counters (ps : PersistentStore) :
    ps.reserveBatch.reserved = some { ps.reservedNow with batch := ps.reservedNow.batch + 1 } ∧
    ps.reserveBatch.mirror = ps.mirror := by
  unfold PersistentStore.reserveBatch PersistentStore.requestCommit
  split <;> exact ⟨rfl, rfl⟩

/-- R128: a roll starts with the next serial. -/
theorem TableLaws.startRoll (h : TableLaws spare ending s) (r : Recipe) (k : RepeatRecord) (c : Word) {code : Nat}
    (hs : ∀ n, s.rb.segment ≠ .roll n) (hroom : s.rb.rolls.length < Config.rollCapacity)
    (hheld : ∃ b ∈ s.batches, b.code = code) : TableLaws spare ending (startRoll s r k c code).1 := by
  obtain ⟨v, hv⟩ : ∃ v, s.ps.reserved = some v := by
    obtain ⟨b, hb, -⟩ := hheld
    obtain ⟨-, v, hv, -⟩ := h.counts.codes b hb
    exact ⟨v, hv⟩
  obtain ⟨hreserved, hmirror⟩ := reserveRoll_counters s.ps
  rw [reservedNow_of_some hv] at hreserved
  have hfresh : ∀ x ∈ s.rb.rolls, x.serial ≤ v.roll := by
    intro x hx
    obtain ⟨-, y, hy, hxy⟩ := h.counts.serials _ (List.mem_map_of_mem hx)
    obtain rfl := Option.some.inj (hv.symm.trans hy)
    exact hxy
  generalize hroll : newRoll r k c (s.ps.reservedNow.roll + 1) code (s.rb.startPhase r) = x
  have hserial : x.serial = v.roll + 1 := by rw [← hroll, ← reservedNow_of_some hv]; rfl
  have hbatch : x.batch = code := by rw [← hroll]; rfl
  have hstate : x.state = .building ∧ x.cls = none := by rw [← hroll]; exact ⟨rfl, rfl⟩
  have hinsert : insertBy Roll.serial x s.rb.rolls = s.rb.rolls ++ [x] :=
    insertBy_last _ _ _ fun y hy => by rw [hserial]; exact (hfresh y hy).trans (Nat.le_succ _)
  have hstarted : TableLaws spare ending (State.updateBatch { s with
      ps := s.ps.reserveRoll
      rb := { s.rb with
        rolls := insertBy Roll.serial x s.rb.rolls
        segment := .roll x.serial
        pendingDrop := false } } code fun b => { b with rolls := b.rolls + 1 }) := by
    refine ⟨?_, ?_, ?_⟩
    · change CountLaws spare ((insertBy Roll.serial x s.rb.rolls).map rollKey) _ _ s.ps.reserveRoll.reserved
      rw [hinsert, List.map_append, hreserved]
      have hkey : [x].map rollKey = [(v.roll + 1, code)] := by rw [List.map_singleton, rollKey, hserial, hbatch]
      rw [hkey]
      exact h.counts.startRoll hv (by simpa using hroom) hheld
    · change RollLaws ending (insertBy Roll.serial x s.rb.rolls) (.roll x.serial)
      rw [hinsert]
      refine ⟨fun y hy => ?_, fun n hn => ⟨x, by simp, Segment.roll.inj hn⟩, fun y hy => ?_, fun y hy => ?_⟩
      all_goals
        rcases List.mem_append.mp hy with hy | hy
        rotate_left
        · obtain rfl := List.mem_singleton.mp hy
          simp only [hstate.1, hstate.2, Roll.Sound, reduceCtorEq, IsEmpty.forall_iff, or_self, iff_self, and_self]
      · refine (h.rolls.building y hy).trans (iff_of_false (hs _) fun heq => ?_)
        have hle := hfresh y hy
        have heq' := Segment.roll.inj heq
        omega
      · exact h.rolls.sound y hy
      · exact h.rolls.waits y hy
    · change LabelLaws (ClosedKey (insertBy Roll.serial x s.rb.rolls)) s.ld s.ps.reserveRoll.mirror
      rw [hinsert, hmirror]
      refine h.labels.congr fun p => ⟨?_, ?_⟩
      · rintro ⟨y, hy, hyc, hyp⟩
        rcases List.mem_append.mp hy with hy | hy
        · exact ⟨y, hy, hyc, hyp⟩
        · obtain rfl := List.mem_singleton.mp hy
          rw [hstate.1] at hyc
          cases hyc
      · rintro ⟨y, hy, hrest⟩
        exact ⟨y, List.mem_append_left _ hy, hrest⟩
  unfold Machine.startRoll warnTableLow
  dsimp only
  rw [hroll]
  split_ifs
  · exact hstarted.congr ⟨rfl, rfl, rfl, rfl, rfl, rfl, rfl⟩
  · exact hstarted

theorem startRoll_ks (s : State) (r : Recipe) (k : RepeatRecord) (c : Word) (code : Nat) :
    (startRoll s r k c code).1.ks = s.ks := by
  unfold startRoll warnTableLow
  dsimp only
  split_ifs <;> rfl

/-- R123, R125: a record decided on its own. -/
theorem TableLaws.decideOwn (h : TableLaws spare ending s) (r : Recipe) (k : RepeatRecord) (c : Word)
    (hs : ∀ n, s.rb.segment ≠ .roll n) (hheld : k.shade.HeldIn s.batches) :
    TableLaws spare ending (decideOwn s r k c).1 := by
  have hwaste := h.goWaste hs
  unfold Machine.decideOwn
  split
  · next code hk =>
    rw [hk] at hheld
    split_ifs
    · unfold tryStart
      split_ifs with hfull
      · exact hwaste.congr ⟨rfl, rfl, rfl, rfl, rfl, rfl, rfl⟩
      · exact hwaste
      · exact hwaste.congr ⟨rfl, rfl, rfl, rfl, rfl, rfl, rfl⟩
      · exact h.startRoll r k c hs (Nat.lt_of_not_le hfull) hheld
    · exact hwaste
  · exact hwaste
  · exact hwaste

theorem decideOwn_ks (s : State) (r : Recipe) (k : RepeatRecord) (c : Word) : (decideOwn s r k c).1.ks = s.ks := by
  unfold decideOwn
  split
  · split_ifs
    · unfold tryStart
      split_ifs
      · rfl
      · rfl
      · rfl
      · exact startRoll_ks ..
    · rfl
  · rfl
  · rfl

/-! ### Closes -/

/-- R132: the cuts of a hand-over at which a roll closed. -/
theorem TableLaws.queueClose {x : Roll} (h : TableLaws spare (fun n => n ∈ s.ks.endings ∨ n = x.serial) s) (pos : Word)
    (started : Option Roll) :
    TableLaws spare (fun n => n ∈ (queueClose s x pos started).ks.endings) (queueClose s x pos started) := by
  have hend : ∀ c : Cut, c.kind.ending = some x.serial →
      TableLaws spare (fun n => n ∈ (Machine.queueCut s c).ks.endings) (Machine.queueCut s c) := fun c hc =>
    TableLaws.queueCut (h.ends fun n hn => hn.imp_right fun heq => by rw [heq, hc])
  unfold Machine.queueClose
  split
  · exact hend _ rfl
  · split_ifs
    · exact hend _ rfl
    · exact TableLaws.queueCut ((hend (endCut pos x.serial) rfl).ends fun _ => .inl)

theorem turnDrop_same (s : State) (r : Recipe) (ph : Phase) (cls : RollClass) : SameTables s (turnDrop s r ph cls) := by
  unfold turnDrop
  split_ifs <;> exact ⟨rfl, rfl, rfl, rfl, rfl, rfl, rfl⟩

/-- R121: the BUILDING roll closes. -/
theorem TableLaws.closeAt {x : Roll} (h : TableLaws spare (fun n => n ∈ s.ks.endings) s) (r : Recipe) (k : RepeatRecord)
    (c : Word) (cls : RollClass) (hs : s.rb.segment = .roll x.serial) (hheld : k.shade.HeldIn s.batches) :
    TableLaws spare (fun n => n ∈ (closeAt s r k c x cls).ks.endings) (closeAt s r k c x cls) := by
  obtain ⟨hrolls, -, hbatches, hshades, hld, hreserved, hmirror⟩ :=
    turnDrop_same (Machine.markEnding s x.serial cls) r x.phase cls
  have hks : (turnDrop (Machine.markEnding s x.serial cls) r x.phase cls).ks = s.ks := by
    unfold turnDrop
    split_ifs <;> rfl
  unfold Machine.closeAt
  dsimp only
  split_ifs
  · refine TableLaws.queueClose ?_ _ none
    rw [show (({ turnDrop (Machine.markEnding s x.serial cls) r x.phase cls with
      rb := { (turnDrop (Machine.markEnding s x.serial cls) r x.phase cls).rb with
        segment := .awaitA, pendingDrop := true } } : State).ks) = s.ks from hks]
    exact h.markEnding hs hrolls ⟨hbatches, hshades, hld, hreserved, hmirror⟩ nofun
  · refine TableLaws.queueClose ?_ _ _
    have hwaste : TableLaws spare (fun m => m ∈ s.ks.endings ∨ m = x.serial)
        (Machine.goWaste (turnDrop (Machine.markEnding s x.serial cls) r x.phase cls)) :=
      h.markEnding hs hrolls ⟨hbatches, hshades, hld, hreserved, hmirror⟩ nofun
    rw [decideOwn_ks, show (Machine.goWaste (turnDrop (Machine.markEnding s x.serial cls) r x.phase cls)).ks = s.ks from hks]
    exact hwaste.decideOwn r k c nofun (by rw [show (Machine.goWaste (turnDrop (Machine.markEnding s x.serial cls) r x.phase
      cls)).batches = s.batches from hbatches]; exact hheld)

theorem TableLaws.fold (h : TableLaws spare ending s) (n : Nat) (k : RepeatRecord) (len : Nat) :
    TableLaws spare ending (s.updateRoll n fun x => x.fold k len) :=
  h.rewriteSame n fun _ => ⟨rfl, rfl, rfl, rfl, rfl, rfl⟩

/-- R116 to R118, R123: the RB takes a record and decides. -/
theorem TableLaws.builderTake (h : TableLaws spare (fun n => n ∈ s.ks.endings) s) (r : Recipe) (k : RepeatRecord)
    (c : Word) (hheld : k.shade.HeldIn s.batches) :
    TableLaws spare (fun n => n ∈ (builderTake s r k c).ks.endings) (builderTake s r k c) := by
  have htaken : TableLaws spare (fun n => n ∈ s.ks.endings)
      { s with rb := { s.rb with lastHandOver := some ⟨c, k.creditedLen r⟩ } } := h.congr ⟨rfl, rfl, rfl, rfl, rfl, rfl, rfl⟩
  unfold Machine.builderTake
  dsimp only
  split
  · next x hx =>
    have hsegment : s.rb.segment = .roll x.serial := by
      unfold State.buildingRoll at hx
      split at hx
      · next n hn =>
        obtain ⟨-, rfl⟩ := findBy_mem _ _ _ _ hx
        exact hn
      all_goals cases hx
    unfold decideBuilding
    split_ifs
    · exact TableLaws.closeAt (htaken.holdOne x.serial _) r k c .full hsegment hheld
    · exact TableLaws.closeAt htaken r k c .full hsegment hheld
    · exact (htaken.fold x.serial k _).holdOne x.serial _
    · exact htaken.fold x.serial k _
    · exact TableLaws.closeAt htaken r k c _ hsegment hheld
  · next hnone =>
    have hsegment : ∀ n, s.rb.segment ≠ .roll n := by
      intro n hn
      obtain ⟨x, hx, rfl⟩ := h.rolls.named n hn
      unfold State.buildingRoll at hnone
      dsimp only at hnone
      rw [hn] at hnone
      exact absurd (hnone.symm.trans (h.find hx)) nofun
    have hdecided := htaken.decideOwn r k c hsegment hheld
    unfold decideAlone
    dsimp only
    split
    · refine TableLaws.queueCut (hdecided.ends fun n hn => .inl ?_)
      rwa [decideOwn_ks]
    · rwa [decideOwn_ks]

/-- R41, R54: the head record is handed over. -/
theorem TableLaws.handOver {q k : RepeatRecord} {rest : List RepeatRecord}
    (h : TableLaws noneSpare (fun n => n ∈ s.ks.endings) s) (hq : s.rt.queue = q :: rest) (hk : k.shade = q.shade)
    (r : Recipe) (c : Word) : TableLaws noneSpare (fun n => n ∈ (handOver s r k c).ks.endings) (handOver s r k c) := by
  have hover : ∃ u k', overtake s k = (u, k') ∧ SameTables s u ∧ u.rt.queue = s.rt.queue ∧ u.ks = s.ks ∧
      k'.shade = k.shade := by
    unfold overtake
    split_ifs
    · exact ⟨_, _, rfl, ⟨rfl, rfl, rfl, rfl, rfl, rfl, rfl⟩, rfl, rfl, rfl⟩
    · exact ⟨_, _, rfl, ⟨rfl, rfl, rfl, rfl, rfl, rfl, rfl⟩, rfl, rfl, rfl⟩
  obtain ⟨u, k', hover, hsame, huq, huks, hshade⟩ := hover
  have hheld : k.shade.HeldIn u.batches := by
    obtain ⟨-, -, hbatches, -⟩ := hsame
    rw [hbatches, hk]
    exact h.counts.recordBatch _ (by rw [hq]; exact List.mem_cons_self)
  have hpopped := (h.congr hsame).popRecord (huq.trans hq)
  rw [← hk] at hpopped
  unfold Machine.handOver
  dsimp only
  rw [hover]
  have hlowered : (lowerQueued { u with rt := { u.rt with queue := u.rt.queue.tail } } k.shade).ks = s.ks := by
    simp [huks]
  have htaken := TableLaws.builderTake (s := lowerQueued { u with rt := { u.rt with queue := u.rt.queue.tail } } k.shade)
    (by rwa [hlowered]) r k' c (by
      rw [hshade, lowerQueued_batches]
      exact heldIn_map (fun _ => rfl) hheld)
  have hks : ∀ v : State, (Machine.freeTestOf v k.shade).ks = v.ks := by simp
  rw [hks]
  exact htaken.freeTestOf

/-! ### The end of a run -/

theorem TableLaws.closeBatches (h : TableLaws noneSpare ending s) : TableLaws noneSpare ending (closeBatches s) := by
  have hbatches := closeBatches_left s fun b hb => Bool.eq_false_iff.mpr (h.counts.spent b hb)
  obtain ⟨hcounts, hrolls, hlabels⟩ := h
  refine ⟨?_, by simpa using hrolls, by simpa using hlabels⟩
  rw [hbatches]
  simpa using hcounts.closeAll (spare' := noneSpare)

theorem closeBatches_inactive (s : State) (h : ∀ b ∈ s.batches, b.isSpent = false) :
    ∀ b ∈ (closeBatches s).batches, b.active = false := by
  rw [closeBatches_left s h]
  intro b hb
  obtain ⟨y, -, rfl⟩ := List.mem_map.mp (List.mem_of_mem_filter hb)
  rfl

theorem ercOff_same (s : State) : SameTables s (ercOff s) ∧ (ercOff s).ks = s.ks := by
  rw [ercOff_eq]
  exact ⟨⟨rfl, rfl, rfl, rfl, rfl, rfl, rfl⟩, rfl⟩

theorem TableLaws.endSegment (h : TableLaws spare ending s) (hs : ∀ n, s.rb.segment ≠ .roll n) :
    TableLaws spare ending (endSegment s) :=
  h.resegment hs rfl ⟨rfl, rfl, rfl, rfl, rfl⟩ nofun

/-- The BUILDING roll is the one that the segment names. -/
theorem TableLaws.buildingRoll_cases (h : TableLaws spare ending s) :
    (s.buildingRoll = none ∧ ∀ n, s.rb.segment ≠ .roll n) ∨
    ∃ x ∈ s.rb.rolls, s.buildingRoll = some x ∧ s.rb.segment = .roll x.serial ∧ x.state = .building := by
  unfold State.buildingRoll
  split
  · next n hn =>
    obtain ⟨x, hx, rfl⟩ := h.rolls.named n hn
    exact .inr ⟨x, hx, h.find hx, hn, (h.rolls.building x hx).mpr hn⟩
  all_goals
    next hn =>
    exact .inl ⟨rfl, fun n => by rw [hn]; nofun⟩

/-- R134: the close at drain completion. -/
theorem TableLaws.drainClose (h : TableLaws spare (fun n => n ∈ s.ks.endings) s) (r : Recipe) :
    TableLaws spare (fun n => n ∈ (drainClose s r).1.ks.endings) (drainClose s r).1 ∧
      (drainClose s r).1.rb.segment = .none := by
  unfold Machine.drainClose
  rcases h.buildingRoll_cases with ⟨hnone, hs⟩ | ⟨x, hx, hsome, hs, -⟩
  · rw [hnone]
    exact ⟨h.endSegment hs, rfl⟩
  · rw [hsome]
    obtain ⟨hrolls, -, hbatches, hshades, hld, hreserved, hmirror⟩ :=
      turnDrop_same (Machine.markEnding s x.serial (x.drainClass r)) r x.phase (x.drainClass r)
    have hks : (Machine.endSegment (turnDrop (Machine.markEnding s x.serial (x.drainClass r)) r x.phase
        (x.drainClass r))).ks = s.ks := by
      unfold turnDrop
      split_ifs <;> rfl
    refine ⟨TableLaws.queueCut ?_, queueCut_segment _ _⟩
    rw [hks]
    have hmarked : TableLaws spare (fun m => m ∈ s.ks.endings ∨ m = x.serial)
        (Machine.endSegment (turnDrop (Machine.markEnding s x.serial (x.drainClass r)) r x.phase (x.drainClass r))) :=
      h.markEnding hs hrolls ⟨hbatches, hshades, hld, hreserved, hmirror⟩ nofun
    exact hmarked.ends fun n hn => hn.imp_right fun heq => congrArg some heq.symm

/-- R24: drain completion. -/
theorem TableLaws.drainNow (h : TableLaws noneSpare (fun n => n ∈ s.ks.endings) s) (r : Recipe) :
    TableLaws noneSpare (fun n => n ∈ (drainNow s r).ks.endings) (drainNow s r) ∧
      (drainNow s r).rb.segment = .none ∧ ∀ b ∈ (drainNow s r).batches, b.active = false := by
  obtain ⟨hclosed, hsegment⟩ := h.drainClose r
  obtain ⟨hsame, hks⟩ := ercOff_same (Machine.closeBatches (Machine.drainClose s r).1)
  have hbatchKs : (Machine.closeBatches (Machine.drainClose s r).1).ks = (Machine.drainClose s r).1.ks := by simp
  have hended : TableLaws noneSpare (fun n => n ∈ (Machine.drainClose s r).1.ks.endings) (Machine.drainNow s r) :=
    (hclosed.closeBatches.congr hsame).congr ⟨rfl, rfl, rfl, rfl, rfl, rfl, rfl⟩
  have hdrained : (Machine.drainNow s r).ks = (Machine.drainClose s r).1.ks := hks.trans hbatchKs
  obtain ⟨-, hseg, hbatches, -⟩ := hsame
  refine ⟨by rwa [hdrained], ?_, ?_⟩
  · refine hseg.trans ?_
    rw [← hsegment]
    simp
  · have hinactive := closeBatches_inactive (Machine.drainClose s r).1
      fun b hb => Bool.eq_false_iff.mpr (hclosed.counts.spent b hb)
    intro b hb
    exact hinactive b (hbatches ▸ hb)

end

end Sys2Proof.Proofs
end

section
/-! PROOFS. Every step from a sound state keeps the laws of the tables, of the labels and of the roll states. -/

namespace Sys2Proof.Proofs

open Sys2Proof Sys2Proof.Machine

/-- The laws of the tables in a state between steps. -/
structure TablesSound (s : State) : Prop where
  tables : TableLaws noneSpare (fun n => n ∈ s.ks.endings) s
  session : SessionLaws s

section
variable {spare ending ending' : Nat → Prop} {s t : State}

/-- A change of neither table, neither label law nor what they depend on. -/
theorem TablesSound.same (h : TablesSound s) (hsame : SameTables s t) (hks : t.ks = s.ks)
    (hrun : t.sc.session.inRun = s.sc.session.inRun) (hvalidity : t.ps.validity = s.ps.validity) : TablesSound t := by
  have htables := h.tables.congr hsame
  obtain ⟨hrolls, hsegment, hbatches, -⟩ := hsame
  obtain ⟨-, hseg, hactive, hunknown⟩ := h
  exact ⟨hks ▸ htables, by rwa [hsegment, hrun], by rwa [hbatches, hrun], by rwa [hvalidity, hrolls, hbatches]⟩

/-- Within a run of a part whose counters are VALID only the table laws are left to prove. -/
theorem TablesSound.ofRun (h : TableLaws noneSpare (fun n => n ∈ t.ks.endings) t) (hrun : t.sc.session.inRun = true)
    (hvalid : t.ps.validity = .valid) : TablesSound t :=
  ⟨h, fun _ => hrun, fun _ => hrun, fun hinv => absurd (hvalid.symm.trans hinv) nofun⟩

theorem small_validity (s t : State) (h : Small s t) : t.ps.validity = s.ps.validity := by
  have hreserve : ∀ ps : PersistentStore, ps.requestCommit.validity = ps.validity := by
    intro ps
    unfold PersistentStore.requestCommit
    split <;> rfl
  cases h with
  | quiet _ hq =>
    obtain ⟨-, -, hps, -⟩ := hq
    rw [hps]
  | log e => rfl
  | recover st => rw [recoverStation_ps]
  | place c _ => rw [(placeCut_frame s _).2.2.2.2.1]
  | reserveRoll _ _ => exact hreserve _
  | reserveBatch _ _ => exact hreserve _
  | enter run r _ => rfl

theorem Chain.validity (h : Chain s t) : t.ps.validity = s.ps.validity := by
  induction h with
  | refl => rfl
  | tail _ hstep ih => exact (small_validity _ _ hstep).trans ih

/-- R24: the drain completion test. -/
theorem TablesSound.drainTest (h : TablesSound s) (hloaded : s.sc.session ≠ .unloaded → s.ps.validity = .valid) :
    TablesSound (drainTest s) := by
  rcases drainTest_cases s with hsame | ⟨r, hs, -, hnow⟩
  · exact hsame.symm ▸ h
  · obtain ⟨htables, hsegment, hinactive⟩ := h.tables.drainNow r
    have hvalid : (Machine.drainNow s r).ps.validity = .valid := by
      have hsame : (Machine.drainTest s).ps.validity = s.ps.validity := (drainTest_chain s).validity
      rw [hnow] at hsame
      exact hsame.trans (hloaded (by rw [hs]; nofun))
    rw [hnow]
    refine ⟨htables, fun hne => absurd hsegment hne, ?_, fun hinv => absurd (hvalid.symm.trans hinv) nofun⟩
    rintro ⟨b, hb, ha⟩
    rw [hinactive b hb] at ha
    cases ha

/-! ### Flush and clear -/

theorem TableLaws.flushRecords (ks : List RepeatRecord) (h : TableLaws noneSpare ending s) (hq : s.rt.queue = ks) :
    TableLaws noneSpare ending (ks.foldl flushRecord s) := by
  induction ks generalizing s with
  | nil => exact h
  | cons k ks ih =>
    refine ih (s := flushRecord s k) (h.popRecord hq).freeTestOf ?_
    simp [flushRecord, hq]

theorem earlyClass_ne_full (x : Roll) (r : Recipe) : x.earlyClass r ≠ .full := by
  unfold Roll.earlyClass
  split_ifs <;> nofun

/-- R135: the close at FLUSH RUN. -/
theorem TableLaws.flushClose (h : TableLaws noneSpare ending s) (r : Recipe) :
    TableLaws noneSpare ending (flushClose s r).1 ∧ (flushClose s r).1.rb.segment = .none := by
  unfold Machine.flushClose
  rcases h.buildingRoll_cases with ⟨hnone, hs⟩ | ⟨x, hx, hsome, hs, hbuilding⟩
  · rw [hnone]
    exact ⟨h.endSegment hs, rfl⟩
  · rw [hsome]
    refine ⟨?_, rfl⟩
    dsimp only
    have hothers : ∀ m, m ≠ x.serial → (Segment.none = .roll m ↔ s.rb.segment = .roll m) := by
      intro m hm
      rw [hs]
      exact iff_of_false nofun fun heq => hm (Segment.roll.inj heq).symm
    have hmarked : ∀ f : Roll → Roll, (s.updateRoll x.serial f).batches = s.batches := fun _ => rfl
    have herased : ∀ f : Roll → Roll, (∀ y, (f y).serial = y.serial) →
        (Machine.dropRoll (s.updateRoll x.serial f) x).rb.rolls = eraseBy Roll.serial x.serial s.rb.rolls := by
      intro f hf
      rw [dropRoll_rb]
      exact eraseBy_updateBy _ _ _ _ hf
    cases hcls : x.earlyClass r with
    | full => exact absurd hcls (earlyClass_ne_full x r)
    | remnant =>
      refine h.erase hx (by rw [hbuilding]; nofun) ?_ ?_ (by simp [Machine.endSegment]) (by simp [Machine.endSegment])
        (by simp [Machine.endSegment]) ?_
      · exact herased _ fun _ => rfl
      · change (Machine.dropRoll (s.updateRoll x.serial _) x).batches = _
        rw [dropRoll_batches, dropRoll_batches, hmarked]
      · refine Eq.mpr (congrArg (RollLaws ending · Segment.none) (herased _ fun _ => rfl)) ?_
        exact h.rolls.filter (fun y _ hy => ⟨hothers _ (by simpa using hy), fun _ => id⟩) nofun
    | short =>
      refine h.update (n := x.serial) (f := fun y => { y with
          cls := some .short, hold := y.hold.join HoldFlags.ofCutFault, state := .held })
        (updateBy_updateBy _ _ _ _ _ fun _ => rfl) ⟨rfl, rfl, rfl, rfl, rfl⟩ (fun _ => rfl) (fun y hy hyx => ?_)
        (h.rolls.update x.serial (fun _ => rfl) (fun y hy hyx hys => ?_) (fun m hm => ⟨hothers m hm, id⟩) nofun)
      · rw [h.unique hy hx hyx, hbuilding]
        exact iff_of_false nofun nofun
      · refine ⟨iff_of_false nofun nofun, ⟨iff_of_false nofun nofun, fun _ => nofun, fun _ => ?_, nofun⟩, nofun⟩
        simp [HoldFlags.any, HoldFlags.join, HoldFlags.ofCutFault]

/-- R25: a flush. -/
theorem TablesSound.flushNow (h : TablesSound s) (r : Recipe) (hs : s.sc.session = .loaded .draining r)
    (hvalid : s.ps.validity = .valid) : TablesSound (flushNow s r) := by
  obtain ⟨hclosed, hsegment⟩ := (h.tables.flushRecords s.rt.queue rfl).flushClose r
  obtain ⟨hsame, hks⟩ := ercOff_same (Machine.closeBatches (Machine.flushClose (s.rt.queue.foldl flushRecord s) r).1)
  have htables : TableLaws noneSpare (fun n => n ∈ s.ks.endings) (Machine.flushNow s r) :=
    (hclosed.closeBatches.congr hsame).congr ⟨rfl, rfl, rfl, rfl, rfl, rfl, rfl⟩
  have hsameKs : (Machine.flushNow s r).ks = s.ks := by
    simp [Machine.flushNow, foldl_flushRecord_frame]
  have hinactive := closeBatches_inactive (Machine.flushClose (s.rt.queue.foldl flushRecord s) r).1
    fun b hb => Bool.eq_false_iff.mpr (hclosed.counts.spent b hb)
  obtain ⟨-, hseg, hbatches, -⟩ := hsame
  refine ⟨by rwa [hsameKs], fun hne => absurd ?_ hne, ?_, fun hinv => ?_⟩
  · refine hseg.trans ?_
    rw [← hsegment]
    simp
  · rintro ⟨b, hb, ha⟩
    rw [hinactive b (hbatches ▸ hb)] at ha
    cases ha
  · have hsameValidity := (flushNow_chain s r hs).validity
    rw [hinv, hvalid] at hsameValidity
    cases hsameValidity

/-- R28, R29: CLEAR LINE. -/
theorem TablesSound.clearNow (h : TablesSound s) (r : Recipe) (hvalid : s.ps.validity = .valid) :
    TablesSound (clearNow s r) := by
  obtain ⟨hcounts, hrolls, hlabels⟩ := h.tables
  have hqueueBatches : (clearQueue s).batches = s.batches.map fun b => b.unqueued s.rt.queue :=
    foldl_lowerQueued s.rt.queue s
  have hrollBatches : (clearRolls (clearKnife (clearQueue s))).batches = (clearQueue s).batches.map fun b =>
      { b with rolls := b.rolls - ((clearQueue s).rb.rolls.filter Roll.inFlight).countP fun x => x.batch == b.code } :=
    foldl_lowerRolls _ _
  obtain ⟨hqrt, -, hqrb, -, hqld, hqps, -, -⟩ := clearQueue_frame s
  have hfields : (Machine.clearNow s r).rb = { s.rb with
        rolls := s.rb.rolls.filter fun x => !x.inFlight, segment := .none, nextDrop := .a, pendingDrop := false } ∧
      (Machine.clearNow s r).rt.queue = [] ∧ (Machine.clearNow s r).ld = s.ld ∧ (Machine.clearNow s r).ps = s.ps ∧
      (Machine.clearNow s r).ks = ⟨[], none, false, .waste⟩ ∧ (Machine.clearNow s r).batches =
        (closeAndFreeBatches (clearRolls (clearKnife (clearQueue s)))).batches := by
    refine ⟨?_, ?_, ?_, ?_, ?_, ?_⟩
    all_goals simp [Machine.clearNow, clearRolls_frame, clearKnife, clearQueue_frame]
  obtain ⟨hrb, hq, hld, hps, hks, hbatches⟩ := hfields
  have hstays : ∀ x : Roll, (!x.inFlight) = true ↔ x.state ≠ .building ∧ x.state ≠ .ending := by
    intro x
    unfold Roll.inFlight
    cases x.state <;> decide
  have hunqueued : CountLaws (fun _ => True) (s.rb.rolls.map rollKey) []
      (s.batches.map fun b => b.unqueued s.rt.queue) s.ps.reserved := by
    refine hcounts.change (fun _ => rfl) (List.Sublist.refl _) nofun (fun b _ hb => hb) (fun b _ hb => ?_)
      fun _ _ _ _ => trivial
    rw [List.countP_map] at hb
    change b.queued - _ = 0
    rw [hb]
    exact Nat.sub_self _
  have hcleared : CountLaws (fun _ => True) ((s.rb.rolls.filter fun x => !x.inFlight).map rollKey) []
      (clearRolls (clearKnife (clearQueue s))).batches s.ps.reserved := by
    rw [hrollBatches, hqueueBatches, hqrb]
    refine hunqueued.change (fun _ => rfl) (List.Sublist.map _ List.filter_sublist) nofun (fun b _ hb => ?_)
      (fun b _ hb => hb) fun _ _ _ _ => trivial
    rw [List.countP_map] at hb ⊢
    rw [List.countP_eq_countP_filter_add s.rb.rolls _ Roll.inFlight] at hb
    change b.rolls - _ = _
    rw [hb]
    exact Nat.add_sub_cancel_left _ _
  refine ⟨⟨?_, ?_, ?_⟩, fun hne => absurd (by rw [hrb]) hne, ?_, fun hinv => ?_⟩
  · rw [hrb, hq, hbatches, hps, closeAndFreeBatches_left]
    exact hcleared.closeAll
  · rw [hrb]
    refine hrolls.filter (fun x hx hp => ⟨iff_of_false nofun fun hs => ?_, fun he => ?_⟩) nofun
    · exact ((hstays x).mp hp).1 ((hrolls.building x hx).mpr hs)
    · exact absurd he ((hstays x).mp hp).2
  · rw [hrb, hld, hps]
    refine hlabels.congr fun p => ⟨?_, ?_⟩
    · rintro ⟨x, hx, hrest⟩
      exact ⟨x, List.mem_of_mem_filter hx, hrest⟩
    · rintro ⟨x, hx, hxc, hxp⟩
      exact ⟨x, List.mem_filter.mpr ⟨hx, (hstays x).mpr (by rw [hxc]; exact ⟨nofun, nofun⟩)⟩, hxc, hxp⟩
  · rintro ⟨b, hb, ha⟩
    rw [hbatches, closeAndFreeBatches_left] at hb
    obtain ⟨y, -, rfl⟩ := List.mem_map.mp (List.mem_of_mem_filter hb)
    cases ha
  · rw [hps, hvalid] at hinv
    cases hinv

end

end Sys2Proof.Proofs
end

section
/-! PROOFS. The winner of a reading, and readings and labels in the laws of the tables. -/

namespace Sys2Proof.Proofs

open Sys2Proof Sys2Proof.Machine

/-! ### The winner (R89, R90) -/

/-- Batch `e` is nearer to the reading than `y`, or as near with no greater code. -/
def Beats (x : Lab) (e y : BatchEntry) : Prop :=
  x.dist2 e.reference ≤ x.dist2 y.reference ∧ (x.dist2 e.reference = x.dist2 y.reference → e.code ≤ y.code)

theorem beats_refl (x : Lab) (e : BatchEntry) : Beats x e e := ⟨le_refl _, fun _ => le_refl _⟩

theorem Beats.trans {x : Lab} {a b c : BatchEntry} (h : Beats x a b) (h' : Beats x b c) : Beats x a c := by
  obtain ⟨hle, hcode⟩ := h
  obtain ⟨hle', hcode'⟩ := h'
  refine ⟨hle.trans hle', fun heq => ?_⟩
  have hab : x.dist2 a.reference = x.dist2 b.reference := le_antisymm hle (heq ▸ hle')
  exact (hcode hab).trans (hcode' (hab.symm.trans heq))

theorem nearer_cases (x : Lab) (a b : BatchEntry) :
    (nearer x a b = a ∨ nearer x a b = b) ∧ Beats x (nearer x a b) a ∧ Beats x (nearer x a b) b := by
  unfold nearer
  split_ifs with h
  · refine ⟨.inr rfl, ?_, beats_refl x b⟩
    rcases h with hlt | ⟨heq, hcode⟩
    · exact ⟨hlt.le, fun he => absurd he hlt.ne⟩
    · exact ⟨heq.le, fun _ => hcode.le⟩
  · rw [not_or, not_and] at h
    obtain ⟨hle, hcode⟩ := h
    exact ⟨.inl rfl, beats_refl x a, not_lt.mp hle, fun heq => not_lt.mp (hcode heq.symm)⟩

theorem foldl_nearer (x : Lab) (rest : List BatchEntry) (b : BatchEntry) :
    rest.foldl (nearer x) b ∈ b :: rest ∧ ∀ y ∈ b :: rest, Beats x (rest.foldl (nearer x) b) y := by
  induction rest generalizing b with
  | nil =>
    refine ⟨List.mem_singleton.mpr rfl, fun y hy => ?_⟩
    rw [List.mem_singleton.mp hy]
    exact beats_refl x b
  | cons c rest ih =>
    obtain ⟨hone, hb, hc⟩ := nearer_cases x b c
    obtain ⟨hmem, hbeats⟩ := ih (nearer x b c)
    have hfirst := hbeats _ List.mem_cons_self
    rw [List.foldl_cons]
    refine ⟨?_, fun y hy => ?_⟩
    · rcases List.mem_cons.mp hmem with heq | hrest
      · rw [heq]
        rcases hone with h | h <;> rw [h] <;> simp
      · exact List.mem_cons_of_mem _ (List.mem_cons_of_mem _ hrest)
    · rcases List.mem_cons.mp hy with rfl | hy
      · exact hfirst.trans hb
      · rcases List.mem_cons.mp hy with rfl | hy
        · exact hfirst.trans hc
        · exact hbeats y (List.mem_cons_of_mem _ hy)

theorem inReach_iff (b : BatchEntry) (x : Lab) (t : Nat) :
    b.inReach x t = true ↔ b.active = true ∧ x.dist2 b.reference ≤ (t : Int) ^ 2 := by
  simp [BatchEntry.inReach]

/-- R90: the winner is a candidate within reach that beats every other. -/
theorem winner_some {bs : List BatchEntry} {x : Lab} {t : Nat} {e : BatchEntry} (h : winner bs x t = some e) :
    e ∈ bs ∧ e.inReach x t = true ∧ ∀ y ∈ bs, y.inReach x t = true → Beats x e y := by
  unfold winner at h
  cases hl : bs.filter fun b => b.inReach x t with
  | nil =>
    rw [hl] at h
    cases h
  | cons b rest =>
    rw [hl] at h
    obtain ⟨hmem, hbeats⟩ := foldl_nearer x rest b
    rw [Option.some.inj h, ← hl] at hmem hbeats
    obtain ⟨he, hreach⟩ := List.mem_filter.mp hmem
    exact ⟨he, hreach, fun y hy hyr => hbeats y (List.mem_filter.mpr ⟨hy, hyr⟩)⟩

theorem winner_none (bs : List BatchEntry) (x : Lab) (t : Nat) :
    winner bs x t = none ↔ ∀ y ∈ bs, y.inReach x t = false := by
  unfold winner
  cases hl : bs.filter fun b => b.inReach x t with
  | nil => simpa using hl
  | cons b rest =>
    have hb : b ∈ bs.filter fun b => b.inReach x t := hl ▸ List.mem_cons_self
    obtain ⟨hmem, hreach⟩ := List.mem_filter.mp hb
    simp only [reduceCtorEq, false_iff, not_forall]
    exact ⟨b, hmem, by simpa using hreach⟩

/-- Settles O45: the fold over the candidates keeps the nearer one, the smaller code at a tie. -/
theorem nearestBatchWins : Obligations.NearestBatchWins := by
  intro bs x t
  refine ⟨fun e he => ?_, ?_⟩
  · obtain ⟨hmem, hreach, hbeats⟩ := winner_some he
    obtain ⟨hactive, hdist⟩ := (inReach_iff ..).mp hreach
    exact ⟨hmem, hactive, hdist, fun y hy hya hyd => hbeats y hy ((inReach_iff ..).mpr ⟨hya, hyd⟩)⟩
  · rw [winner_none]
    refine forall₂_congr fun y _ => ?_
    rw [← not_iff_not, Bool.not_eq_false, inReach_iff, Classical.not_imp, not_lt]

/-! ### Readings -/

section
variable {spare ending ending' : Nat → Prop} {s t : State} {keys : List (Nat × Nat)} {shades : List ShadeVerdict}

/-- R96: slot closure closes one batch and tests it. -/
theorem CountLaws.slotClosure (h : CountLaws spare keys shades s.batches s.ps.reserved) (r : Recipe) :
    CountLaws spare keys shades (slotClosure s r).batches s.ps.reserved := by
  unfold Machine.slotClosure
  split_ifs
  · split
    · rw [freeTest_batches]
      exact (h.close _).free
    · exact h
  · exact h

theorem win_keeps (b : BatchEntry) (n : Nat) (x : Lab) (m : Nat) :
    (b.win n x m).code = b.code ∧ (b.win n x m).rolls = b.rolls ∧ (b.win n x m).queued = b.queued + 1 := by
  unfold BatchEntry.win BatchEntry.learn
  dsimp only
  split <;> exact ⟨rfl, rfl, rfl⟩

/-- R87, R90, R94: a reading and its verdict, the record counted before it takes the verdict. -/
theorem CountLaws.classify {v : Counters} (h : CountLaws spare keys shades s.batches s.ps.reserved)
    (hv : s.ps.reserved = some v) (r : Recipe) (n : Nat) (x : Lab) :
    CountLaws spare keys ((classify s r n x).2 :: shades) (classify s r n x).1.batches
        (classify s r n x).1.ps.reserved ∧ (classify s r n x).1.ps.mirror = s.ps.mirror := by
  unfold Machine.classify
  split
  · next w hw =>
    obtain ⟨hmem, -, -⟩ := winner_some hw
    have hwin := h.win hmem (g := fun e => e.win n x r.nLearn) (fun b => (win_keeps b n x r.nLearn).1)
      (fun b => (win_keeps b n x r.nLearn).2.1) fun b => (win_keeps b n x r.nLearn).2.2
    unfold winBatch
    dsimp only
    split_ifs <;> exact ⟨hwin, rfl⟩
  · have hclosed := h.slotClosure r
    have hps : (Machine.slotClosure s r).ps = s.ps := by simp
    unfold Machine.openBatch
    dsimp only
    split_ifs with hcode hroom
    · exact ⟨h.noBatch, rfl⟩
    · refine ⟨?_, by simp⟩
      change CountLaws spare keys _ (Machine.slotClosure s r).batches (Machine.slotClosure s r).ps.reserved
      rw [hps]
      exact hclosed.noBatch
    · obtain ⟨hreserved, hmirror⟩ := reserveBatch_counters (Machine.slotClosure s r).ps
      refine ⟨?_, hmirror.trans (by rw [hps])⟩
      change CountLaws spare keys (.batch ((Machine.slotClosure s r).ps.reservedNow.batch + 1) :: shades)
        (insertBy BatchEntry.code _ (Machine.slotClosure s r).batches) (Machine.slotClosure s r).ps.reserveBatch.reserved
      rw [hreserved, hps, reservedNow_of_some hv]
      exact hclosed.openBatch (b := newBatch r (v.batch + 1) n x) hv (Nat.lt_of_not_le hroom) rfl rfl rfl

/-- R87: the record takes its verdict; no other record changes. -/
theorem CountLaws.shadeRecord {bs : List BatchEntry} {reserved : Option Counters} {q : List RepeatRecord}
    {k : RepeatRecord} {v : ShadeVerdict} {f : RepeatRecord → RepeatRecord}
    (h : CountLaws spare keys (v :: q.map RepeatRecord.shade) bs reserved) (hnodup : (q.map RepeatRecord.seq).Nodup)
    (hk : k ∈ q) (hpending : k.shade = .pending) (hf : ∀ y, (f y).shade = v) :
    CountLaws spare keys ((updateBy RepeatRecord.seq k.seq f q).map RepeatRecord.shade) bs reserved := by
  obtain ⟨pre, post, rfl⟩ := List.append_of_mem hk
  rw [List.map_append, List.map_cons, List.nodup_append, List.nodup_cons] at hnodup
  obtain ⟨-, ⟨hpost, -⟩, hdisjoint⟩ := hnodup
  have hsame : ∀ l : List RepeatRecord, (∀ y ∈ l, y.seq ≠ k.seq) → updateBy RepeatRecord.seq k.seq f l = l :=
    fun l hl => updateBy_same _ _ _ _ fun y hy hyk => absurd hyk (hl y hy)
  have hnew : updateBy RepeatRecord.seq k.seq f (pre ++ k :: post) = pre ++ f k :: post := by
    have hsplit : updateBy RepeatRecord.seq k.seq f (pre ++ k :: post) =
        updateBy RepeatRecord.seq k.seq f pre ++ f k :: updateBy RepeatRecord.seq k.seq f post := by simp [updateBy]
    rw [hsplit, hsame pre, hsame post]
    · exact fun y hy heq => hpost (heq ▸ List.mem_map_of_mem hy)
    · exact fun y hy => hdisjoint _ (List.mem_map_of_mem hy) _ List.mem_cons_self
  rw [hnew]
  refine h.reshade (fun w hw => .inr ?_) fun code => ?_
  · simp only [List.map_append, List.map_cons, List.mem_append, List.mem_cons, hf] at hw ⊢
    tauto
  · simp only [List.map_append, List.map_cons, List.countP_append, List.countP_cons, hf, hpending]
    simp only [beq_iff_eq, reduceCtorEq, if_false, Nat.add_zero]
    omega

theorem TableLaws.takeReading (h : TableLaws spare ending s) {v : Counters} (hv : s.ps.reserved = some v)
    (hnodup : (s.rt.queue.map RepeatRecord.seq).Nodup) {k : RepeatRecord} (hk : k ∈ s.rt.queue)
    (hpending : k.shade = .pending) (r : Recipe) (x : Lab) : TableLaws spare ending (takeReading s r k.seq x).1 := by
  obtain ⟨hcounts, hmirror⟩ := h.counts.classify hv r k.seq x
  have hrb : (Machine.takeReading s r k.seq x).1.rb = s.rb := by simp [Machine.takeReading]
  have hld : (Machine.takeReading s r k.seq x).1.ld = s.ld := by simp [Machine.takeReading]
  have hq : (Machine.takeReading s r k.seq x).1.rt.queue = updateBy RepeatRecord.seq k.seq
      (fun y => { y with reading := some x, shade := (Machine.classify s r k.seq x).2 }) s.rt.queue := by
    rw [takeReading_rt]
  refine ⟨?_, hrb ▸ h.rolls, ?_⟩
  · rw [hrb, hq]
    exact hcounts.shadeRecord hnodup hk hpending fun _ => rfl
  · rw [hrb, hld]
    exact hmirror ▸ h.labels

/-! ### Labels -/

/-- R163: the label of the ready head becomes outstanding. -/
theorem TableLaws.handLabel {n : Nat} {rest : List Nat} (h : TableLaws spare ending s) (ho : s.ld.order = n :: rest)
    (hr : s.ld.headReady = true) : TableLaws spare ending { s with ld := { s.ld with outstanding := some n } } := by
  obtain ⟨hcounts, hrolls, hlabels⟩ := h
  refine ⟨hcounts, hrolls, { hlabels with outstanding := fun m hm => ?_ }⟩
  obtain rfl := Option.some.inj hm
  exact ⟨by rw [ho]; rfl, hr⟩

/-- R103, R165, R166: the roll of the outstanding label leaves. -/
theorem TableLaws.removeLabelled {n : Nat} {x : Roll} (h : TableLaws spare ending s) (ho : s.ld.outstanding = some n)
    (hx : s.findRoll n = some x) : TableLaws spare ending (removeLabelled s x) := by
  obtain ⟨hmem, rfl⟩ := findBy_mem _ _ _ _ hx
  obtain ⟨hhead, -⟩ := h.labels.outstanding _ ho
  obtain ⟨rest, horder⟩ : ∃ rest, s.ld.order = x.serial :: rest := by
    cases hl : s.ld.order with
    | nil =>
      rw [hl] at hhead
      cases hhead
    | cons m rest =>
      rw [hl] at hhead
      exact ⟨rest, by rw [Option.some.inj hhead]⟩
  have hclosed : x.state = .closed := by
    obtain ⟨p, ⟨y, hy, hyc, rfl⟩, hyx⟩ := h.labels.closed_of_mem x.serial (by rw [horder]; exact List.mem_cons_self)
    rwa [h.unique hmem hy hyx.symm]
  have hclosedKey : ∀ p, ClosedKey (eraseBy Roll.serial x.serial s.rb.rolls) p ↔
      ClosedKey s.rb.rolls p ∧ p.1 ≠ x.serial := by
    intro p
    constructor
    · rintro ⟨y, hy, hyc, rfl⟩
      obtain ⟨hy, hyx⟩ := (mem_eraseBy ..).mp hy
      exact ⟨⟨y, hy, hyc, rfl⟩, hyx⟩
    · rintro ⟨⟨y, hy, hyc, rfl⟩, hyx⟩
      exact ⟨y, (mem_eraseBy ..).mpr ⟨hy, hyx⟩, hyc, rfl⟩
  have hfields : (Machine.removeLabelled s x).rb = { s.rb with rolls := eraseBy Roll.serial x.serial s.rb.rolls } ∧
      (Machine.removeLabelled s x).rt = s.rt ∧ (Machine.removeLabelled s x).ps = s.ps ∧
      (Machine.removeLabelled s x).batches =
        freeSpent x.batch (updateBy BatchEntry.code x.batch BatchEntry.labelRoll s.batches) := by
    refine ⟨by simp [Machine.removeLabelled, State.updateBatch, State.eraseRoll, State.popOrder],
      by simp [Machine.removeLabelled], by simp [Machine.removeLabelled], ?_⟩
    have hfreed := freeTest_batches ((s.popOrder.eraseRoll x.serial).updateBatch x.batch BatchEntry.labelRoll) x.batch
    rw [Machine.removeLabelled, (readinessTest_frame _).2.2.1, hfreed]
    rfl
  obtain ⟨hrb, hrt, hps, hbatches⟩ := hfields
  refine ⟨?_, ?_, ?_⟩
  · rw [hrb, hrt, hps, hbatches]
    exact (counts_eraseRoll (g := BatchEntry.labelRoll) h.counts h.nodup hmem (fun _ => rfl) (fun _ => rfl)
      fun _ => rfl).free
  · rw [hrb]
    refine h.rolls.erase (fun hs => ?_) fun _ _ => id
    have hb := (h.rolls.building x hmem).mpr hs
    rw [hclosed] at hb
    cases hb
  · rw [hrb, hps]
    have hbase : ∀ u : State, u.rb.rolls = eraseBy Roll.serial x.serial s.rb.rolls → u.ld = ⟨rest, none, false⟩ →
        u.ps = s.ps →
        LabelLaws (ClosedKey (eraseBy Roll.serial x.serial s.rb.rolls)) (readinessTest u).ld s.ps.mirror := by
      intro u hurolls huld hups
      have hld : (readinessTest u).ld.order = rest ∧ (readinessTest u).ld.outstanding = none := by
        unfold readinessTest
        split_ifs <;> simp [State.raiseAll, huld]
      have hnodup : (u.rb.rolls.map Roll.serial).Nodup := by
        rw [hurolls]
        exact h.nodup.sublist (List.Sublist.map _ List.filter_sublist)
      have horderNodup := h.labels.nodup
      rw [horder, List.nodup_cons] at horderNodup
      have hmemClosed : ∀ m ∈ u.ld.order, ∃ p, ClosedKey u.rb.rolls p ∧ p.1 = m := by
        rw [huld, hurolls]
        intro m hm
        obtain ⟨p, hp, hpm⟩ := h.labels.closed_of_mem m (by rw [horder]; exact List.mem_cons_of_mem _ hm)
        refine ⟨p, (hclosedKey p).mpr ⟨hp, fun heq => horderNodup.1 ?_⟩, hpm⟩
        rw [← heq, hpm]
        exact hm
      refine h.labels.pop horder hclosedKey hld.1 hld.2 ?_
      rw [readinessTest_headReady, huld, Bool.false_or, headIsReady_iff hnodup hmemClosed, hurolls, huld, hups]
    refine hbase _ ?_ ?_ ?_
    · simp [State.updateBatch, State.eraseRoll, State.popOrder]
    · simp [State.updateBatch, State.eraseRoll, State.popOrder, horder]
    · simp

/-- R170: a HELD roll is accepted. -/
theorem TableLaws.acceptRoll {n : Nat} {x : Roll} (h : TableLaws spare ending s) (hx : s.findRoll n = some x)
    (hheld : x.state = .held) : TableLaws spare ending (acceptRoll s x.serial) := by
  obtain ⟨hmem, rfl⟩ := findBy_mem _ _ _ _ hx
  refine h.joinClosed (f := fun y => { y with state := .closed, accepted := true }) hmem (by rw [hheld]; nofun)
    (by rw [hheld]; nofun) (fun _ => rfl) rfl (fun hs => ?_) fun _ _ => id
  have hcls : x.cls ≠ none := fun hc => by
    have hb := hs.1.mpr hc
    rw [hheld] at hb
    cases hb
  exact ⟨iff_of_false nofun hcls, fun _ => hs.2.1 (.inr hheld), nofun, fun _ _ => rfl⟩

/-- R171: a HELD roll is voided. -/
theorem TableLaws.voidRoll {n : Nat} {x : Roll} (h : TableLaws spare ending s) (hx : s.findRoll n = some x)
    (hheld : x.state = .held) : TableLaws spare ending (voidRoll s x) := by
  obtain ⟨hmem, rfl⟩ := findBy_mem _ _ _ _ hx
  have hdropped : TableLaws spare ending (Machine.dropRoll s x) :=
    h.dropRoll hmem (by rw [hheld]; nofun) (by rw [hheld]; nofun) fun _ _ => id
  exact hdropped.congr ⟨rfl, rfl, rfl, rfl, rfl, rfl, rfl⟩

/-- R157, R158, R182: the persisted counters rise, and the head is tested. -/
theorem TableLaws.confirm {v : Counters} {ps : PersistentStore} (h : TableLaws spare ending s)
    (hmirror : ps.mirror = some v) (hrise : ∀ m ∈ s.ps.mirror, m.Le v) (hreserved : ps.reserved = s.ps.reserved)
    (ht : SameTables (readinessTest { s with ps := ps }) t) : TableLaws spare ending t := by
  refine TableLaws.congr (s := readinessTest { s with ps := ps }) ?_ ht
  obtain ⟨hcounts, hrolls, hlabels⟩ := h
  have hld : (readinessTest { s with ps := ps }).ld.order = s.ld.order ∧
      (readinessTest { s with ps := ps }).ld.outstanding = s.ld.outstanding := by
    unfold readinessTest
    split_ifs <;> exact ⟨rfl, rfl⟩
  obtain ⟨horder, houtstanding⟩ := hld
  have hnodup : (s.rb.rolls.map Roll.serial).Nodup := by
    have hkeys := hcounts.rollOrder
    rw [List.pairwise_map] at hkeys
    exact List.pairwise_map.mpr (hkeys.imp Nat.ne_of_lt)
  have htested := readinessTest_headReady { s with ps := ps }
  have hready : ({ s with ps := ps } : State).headIsReady = true ↔
      ∃ p, ClosedKey s.rb.rolls p ∧ s.ld.order.head? = some p.1 ∧ Persisted p ps.mirror :=
    headIsReady_iff (u := { s with ps := ps }) hnodup hlabels.closed_of_mem
  have hstays : s.ld.headReady = true → ({ s with ps := ps } : State).headIsReady = true := by
    intro hold
    obtain ⟨p, hp, hhead, m, hm, hbatch, hserial⟩ := hlabels.ready.mp hold
    obtain ⟨hle, hle'⟩ := hrise m hm
    exact hready.mpr ⟨p, hp, hhead, v, hmirror, hbatch.trans hle, hserial.trans hle'⟩
  have hnew : (readinessTest { s with ps := ps }).ld.headReady = ({ s with ps := ps } : State).headIsReady := by
    rw [htested]
    cases hh : ({ s with ps := ps } : State).headIsReady with
    | true => rw [Bool.or_true]
    | false =>
      rw [Bool.or_false]
      by_contra hne
      have hold : s.ld.headReady = true := by simpa using hne
      rw [hstays hold] at hh
      cases hh
  refine ⟨?_, by simpa using hrolls, ⟨by rw [horder]; exact hlabels.nodup, ?_, ?_, ?_, ?_⟩⟩
  · rw [← hreserved] at hcounts
    simpa using hcounts
  · rw [horder]
    simpa using hlabels.closed_of_mem
  · rw [horder]
    simpa using hlabels.mem_of_closed
  · rw [horder, houtstanding, hnew]
    exact fun n hn => ⟨(hlabels.outstanding n hn).1, hstays (hlabels.outstanding n hn).2⟩
  · rw [hnew, hready, horder]
    simp

end

end Sys2Proof.Proofs
end

section
/-! PROOFS. Every effect from a sound state keeps the laws of the tables, and the labels handed out name persisted codes. -/

namespace Sys2Proof.Proofs

open Sys2Proof Sys2Proof.Machine

/-! ### What soundness gives -/

/-- The parts of soundness that the table laws use. -/
structure SoundParts (s : State) : Prop where
  queue : QueueState s
  store : StoreLaws s.sc.session s.ps
  tables : TablesSound s

theorem soundParts_of_sound {s : State} (h : Sound s) : SoundParts s := by
  obtain ⟨hfields, -, -, hqueue, hrecords, -, hcounters, hwrites, hrolls, hbatches, hlabels, hstates⟩ := h
  obtain ⟨htables, hsession⟩ := (tablesSound_iff s).mp ⟨⟨hrolls, hbatches⟩, hlabels, hstates⟩
  exact ⟨(queueState_iff s).mp ⟨hqueue, hrecords⟩, (storeSound_iff s).mp ⟨hcounters, hwrites, hfields⟩,
    htables, hsession⟩

section
variable {s t : State}

theorem SoundParts.validOfRun (h : SoundParts s) (hrun : s.sc.session.inRun = true) : s.ps.validity = .valid :=
  h.store.loaded (loaded_of_inRun hrun)

/-! ### Records and cut marks -/

/-- A write to records that keeps their verdicts. -/
theorem updateBy_shades {n : Nat} {f : RepeatRecord → RepeatRecord} (hf : ∀ k, (f k).shade = k.shade)
    (q : List RepeatRecord) :
    (updateBy RepeatRecord.seq n f q).map RepeatRecord.shade = q.map RepeatRecord.shade := by
  unfold updateBy
  rw [List.map_map]
  refine List.map_congr_left fun k _ => ?_
  simp only [Function.comp]
  split_ifs
  · exact hf k
  · rfl

theorem ercTake_same (u : State) (r : Recipe) (n : Nat) (ca : Angle) : SameTables u (ercTake u r n ca) := by
  obtain ⟨g, hrt, hg⟩ := ercTake_queue u r n ca
  refine ⟨by simp, by simp, by simp, ?_, by simp, by simp, by simp⟩
  rw [hrt]
  exact updateBy_shades (fun k => (hg k).2.2.1) _

theorem SameTables.trans {u v w : State} (h : SameTables u v) (h' : SameTables v w) : SameTables u w := by
  obtain ⟨h1, h2, h3, h4, h5, h6, h7⟩ := h
  obtain ⟨g1, g2, g3, g4, g5, g6, g7⟩ := h'
  exact ⟨g1.trans h1, g2.trans h2, g3.trans h3, g4.trans h4, g5.trans h5, g6.trans h6, g7.trans h7⟩

theorem matchedIn_shade (k : RepeatRecord) (c : Word) (m : Nat) : (k.matchedIn c m).shade = k.shade := by
  unfold RepeatRecord.matchedIn
  split <;> rfl

theorem addDefect_shade (k : RepeatRecord) (d : Defect) : (k.addDefect d).shade = k.shade := by
  unfold RepeatRecord.addDefect
  split_ifs <;> rfl

/-- A write to a record that keeps its verdict, and what the tables do not see beside it. -/
theorem updateRecord_same {u v : State} {n : Nat} {f : RepeatRecord → RepeatRecord} (hf : ∀ k, (f k).shade = k.shade)
    (hq : v.rt.queue = updateBy RepeatRecord.seq n f u.rt.queue)
    (hrest : v.rb = u.rb ∧ v.batches = u.batches ∧ v.ld = u.ld ∧ v.ps = u.ps) : SameTables u v := by
  obtain ⟨hrb, hbatches, hld, hps⟩ := hrest
  refine ⟨by rw [hrb], by rw [hrb], hbatches, ?_, hld, by rw [hps], by rw [hps]⟩
  rw [hq]
  exact updateBy_shades hf _

theorem embossLose_queue (s : State) (k : RepeatRecord) (le : Word) (m : Nat) : (embossLose s k le m).rt.queue =
    updateBy RepeatRecord.seq k.seq (fun x => x.untracked le) s.rt.queue := by
  simp [embossLose, State.updateRecord, State.putEmboss]

theorem embossLost_queue (s : State) (k : RepeatRecord) (le : Word) (b : Bool) : (embossLost s k le b).rt.queue =
    updateBy RepeatRecord.seq k.seq (fun x => x.untracked le) s.rt.queue := by
  unfold embossLost
  dsimp only
  split <;> simp [State.updateRecord, State.putEmboss]

/-- A change that the tables do not see, in an unchanged session. -/
theorem TablesSound.seen (h : TablesSound s) (hsame : SameTables s t) (hks : t.ks = s.ks)
    (hsession : t.sc.session = s.sc.session) (hvalidity : t.ps.validity = s.ps.validity) : TablesSound t :=
  h.same hsame hks (by rw [hsession]) hvalidity

/-- R54: hand-overs and the drain completion test end a cut mark. -/
theorem tablesSound_afterHandOver {q k : RepeatRecord} {rest : List RepeatRecord} (h : TablesSound s)
    (hrun : s.sc.session.inRun = true) (hvalid : s.ps.validity = .valid) (hq : s.rt.queue = q :: rest)
    (hk : k.shade = q.shade) (r : Recipe) (c : Word) : TablesSound (handOver s r k c) := by
  have hchain := handOver_chain s r k c (loaded_of_inRun hrun)
  exact .ofRun (h.tables.handOver hq hk r c) (by rw [handOver_session]; exact hrun) (hchain.validity.trans hvalid)

theorem tablesSound_knifeMark {q k : RepeatRecord} {rest : List RepeatRecord} (h : TablesSound s)
    (hrun : s.sc.session.inRun = true) (hvalid : s.ps.validity = .valid) (hq : s.rt.queue = q :: rest)
    (hk : k.shade = q.shade) (r : Recipe) (c : Word) : TablesSound (drainTest (handOver s r k c)) := by
  have hchain := handOver_chain s r k c (loaded_of_inRun hrun)
  exact (tablesSound_afterHandOver h hrun hvalid hq hk r c).drainTest fun _ => hchain.validity.trans hvalid

/-- R122: TRACKING_FAULT on the roll that builds when the knife point is lost. -/
theorem TableLaws.builderTrackLost {spare ending : Nat → Prop} (h : TableLaws spare ending s) :
    TableLaws spare ending (builderTrackLost s) := by
  unfold Machine.builderTrackLost
  split
  · exact h.holdOne _ _
  · exact h

theorem tablesSound_knifeLose (h : TablesSound s) {k : RepeatRecord} {rest : List RepeatRecord}
    (hrun : s.sc.session.inRun = true) (hvalid : s.ps.validity = .valid) (hq : s.rt.queue = k :: rest) (r : Recipe)
    (c : Word) (m : Nat) : TablesSound (knifeLose s r k c m) := by
  have hput : TableLaws noneSpare (fun n => n ∈ s.ks.endings) ((logTrackLost s .knife k.seq m).putKnife ⟨.lost, 0⟩) :=
    h.tables.congr ⟨rfl, rfl, rfl, rfl, rfl, rfl, rfl⟩
  have hks : (builderTrackLost ((logTrackLost s .knife k.seq m).putKnife ⟨.lost, 0⟩)).ks = s.ks := by
    unfold Machine.builderTrackLost
    split <;> rfl
  have hsession : (builderTrackLost ((logTrackLost s .knife k.seq m).putKnife ⟨.lost, 0⟩)).sc.session =
      s.sc.session := by
    unfold Machine.builderTrackLost
    split <;> rfl
  have hps : (builderTrackLost ((logTrackLost s .knife k.seq m).putKnife ⟨.lost, 0⟩)).ps = s.ps := by
    unfold Machine.builderTrackLost
    split <;> rfl
  have hqueue : (builderTrackLost ((logTrackLost s .knife k.seq m).putKnife ⟨.lost, 0⟩)).rt.queue = k :: rest := by
    rw [← hq]
    unfold Machine.builderTrackLost
    split <;> rfl
  have hmarked : TablesSound (builderTrackLost ((logTrackLost s .knife k.seq m).putKnife ⟨.lost, 0⟩)) :=
    .ofRun (by rw [hks]; exact hput.builderTrackLost) (by rw [hsession]; exact hrun) (by rw [hps]; exact hvalid)
  exact tablesSound_knifeMark hmarked (by rw [hsession]; exact hrun) (by rw [hps]; exact hvalid) hqueue
    (k := { k with untrackedAtKnife := true }) rfl r c

theorem tablesSound_knifeSkip (h : TablesSound s) {k n : RepeatRecord} {rest : List RepeatRecord}
    (hrun : s.sc.session.inRun = true) (hvalid : s.ps.validity = .valid) (hq : s.rt.queue = k :: n :: rest) (r : Recipe)
    (c : Word) : TablesSound (knifeSkip s r k n c) := by
  have hlogged : TablesSound (logEvent s { code := .knifeMissed, station := .knife, seq := some k.seq }) :=
    h.seen ⟨rfl, rfl, rfl, rfl, rfl, rfl, rfl⟩ rfl rfl rfl
  have hfirst := tablesSound_afterHandOver hlogged hrun hvalid hq (k := { k with knifeMissed := true }) rfl r
    (estimatedCapture r n c)
  have hchain := handOver_chain (logEvent s { code := .knifeMissed, station := .knife, seq := some k.seq }) r
    { k with knifeMissed := true } (estimatedCapture r n c) (loaded_of_inRun hrun)
  refine tablesSound_knifeMark (rest := rest) hfirst ?_ (hchain.validity.trans hvalid) ?_ rfl r c
  · rw [handOver_session]
    exact hrun
  · rw [handOver_rt]
    change s.rt.queue.tail = n :: rest
    rw [hq]
    rfl

theorem tablesSound_knifeLost (h : TablesSound s) {k : RepeatRecord} {rest : List RepeatRecord}
    (hrun : s.sc.session.inRun = true) (hvalid : s.ps.validity = .valid) (hq : s.rt.queue = k :: rest) (r : Recipe)
    (c : Word) (b : Bool) : TablesSound (knifeLost s r k c b) := by
  have hput : TablesSound (s.putKnife (s.rt.knife.afterLost b).1) :=
    h.seen ⟨rfl, rfl, rfl, rfl, rfl, rfl, rfl⟩ rfl rfl rfl
  have hdone := tablesSound_knifeMark hput hrun hvalid hq (k := { k with untrackedAtKnife := true }) rfl r c
  unfold knifeLost
  dsimp only
  split_ifs
  · exact hdone.seen ⟨rfl, rfl, rfl, rfl, rfl, rfl, rfl⟩ rfl rfl rfl
  · exact hdone

/-! ### What only leaves the tables -/

/-- No entry comes, no batch becomes active, and the segment stays. -/
structure Shrinks (s t : State) : Prop where
  active : (∃ b ∈ t.batches, b.active = true) → ∃ b ∈ s.batches, b.active = true
  batches : s.batches = [] → t.batches = []
  rolls : s.rb.rolls = [] → t.rb.rolls = []
  segment : t.rb.segment = s.rb.segment

theorem Shrinks.trans {u : State} (h : Shrinks s t) (h' : Shrinks t u) : Shrinks s u :=
  ⟨fun ha => h.active (h'.active ha), fun hb => h'.batches (h.batches hb), fun hr => h'.rolls (h.rolls hr),
    h'.segment.trans h.segment⟩

theorem shrinks_of_same (hsame : SameTables s t) : Shrinks s t := by
  obtain ⟨hrolls, hsegment, hbatches, -⟩ := hsame
  exact ⟨by rw [hbatches]; exact id, by rw [hbatches]; exact id, by rw [hrolls]; exact id, hsegment⟩

theorem shrinks_updateRoll (s : State) (n : Nat) (f : Roll → Roll) : Shrinks s (s.updateRoll n f) := by
  refine ⟨id, id, fun hr => ?_, rfl⟩
  change updateBy Roll.serial n f s.rb.rolls = []
  rw [hr]
  rfl

theorem shrinks_addHold (s : State) (n : Option Nat) (g : HoldFlags) : Shrinks s (addHold s n g) := by
  cases n with
  | none => exact shrinks_of_same ⟨rfl, rfl, rfl, rfl, rfl, rfl, rfl⟩
  | some n => exact shrinks_updateRoll s n _

theorem shrinks_joinOrder (s : State) (n : Nat) : Shrinks s (joinOrder s n) := by
  have hrb : (joinOrder s n).rb = s.rb := by simp
  have hbatches : (joinOrder s n).batches = s.batches := by simp
  exact ⟨by rw [hbatches]; exact id, by rw [hbatches]; exact id, by rw [hrb]; exact id, by rw [hrb]⟩

theorem shrinks_freeTest (s : State) (code : Nat) : Shrinks s (freeTest s code) := by
  have hrb : (freeTest s code).rb = s.rb := by simp
  have hsub : (freeTest s code).batches.Sublist s.batches := by
    rw [freeTest_batches]
    unfold freeSpent
    split
    · split_ifs
      · exact List.filter_sublist
      · exact List.Sublist.refl _
    · exact List.Sublist.refl _
  refine ⟨fun ⟨b, hb, ha⟩ => ⟨b, hsub.subset hb, ha⟩, fun hb => ?_, by rw [hrb]; exact id, by rw [hrb]⟩
  rw [hb] at hsub
  exact List.sublist_nil.mp hsub

/-- A roll leaves; `g` changes the counts of its batch. -/
theorem shrinks_eraseRoll (s : State) (n code : Nat) {g : BatchEntry → BatchEntry} (hg : ∀ b, (g b).state = b.state) :
    Shrinks s ((s.eraseRoll n).updateBatch code g) := by
  refine ⟨?_, fun hb => ?_, fun hr => ?_, rfl⟩
  · rintro ⟨y, hy, ha⟩
    obtain ⟨b, hb, rfl⟩ := (mem_updateBy ..).mp hy
    refine ⟨b, hb, ?_⟩
    split_ifs at ha
    · unfold BatchEntry.active at *
      rwa [hg] at ha
    · exact ha
  · change updateBy BatchEntry.code code g s.batches = []
    rw [hb]
    rfl
  · change eraseBy Roll.serial n s.rb.rolls = []
    rw [hr]
    rfl

theorem shrinks_dropRoll (s : State) (x : Roll) : Shrinks s (dropRoll s x) :=
  (shrinks_eraseRoll s x.serial x.batch (g := fun b => { b with rolls := b.rolls - 1 }) fun _ => rfl).trans
    (shrinks_freeTest _ _)

theorem shrinks_completeRolls (s : State) (k : CutKind) (o : CutOutcome) (g : HoldFlags) :
    Shrinks s (completeRolls s k o g) := by
  have hending : ∀ (u : State) (n : Nat), Shrinks u (completeEnding u n o) := by
    intro u n
    unfold completeEnding
    split
    · split_ifs
      · exact (shrinks_dropRoll u _).trans (shrinks_of_same ⟨rfl, rfl, rfl, rfl, rfl, rfl, rfl⟩)
      · exact (shrinks_updateRoll u _ _).trans (shrinks_of_same ⟨rfl, rfl, rfl, rfl, rfl, rfl, rfl⟩)
      · exact (shrinks_updateRoll u _ _).trans (shrinks_joinOrder _ _)
      · exact shrinks_of_same ⟨rfl, rfl, rfl, rfl, rfl, rfl, rfl⟩
    · exact shrinks_of_same ⟨rfl, rfl, rfl, rfl, rfl, rfl, rfl⟩
  have hheld := (shrinks_addHold s k.starting g).trans (shrinks_addHold _ k.ending g)
  unfold completeRolls
  dsimp only
  split
  · exact (hheld.trans (hending _ _)).trans (shrinks_of_same ⟨rfl, rfl, rfl, rfl, rfl, rfl, rfl⟩)
  · exact hheld.trans (shrinks_of_same ⟨rfl, rfl, rfl, rfl, rfl, rfl, rfl⟩)

theorem shrinks_fireIfDue (s : State) : Shrinks s (fireIfDue s) := by
  unfold fireIfDue
  split
  · dsimp only
    unfold markLate
    split_ifs
    · refine Shrinks.trans ?_ (shrinks_addHold _ _ _)
      exact shrinks_of_same ⟨rfl, rfl, rfl, rfl, rfl, rfl, rfl⟩
    · exact shrinks_of_same ⟨rfl, rfl, rfl, rfl, rfl, rfl, rfl⟩
  · exact shrinks_of_same ⟨rfl, rfl, rfl, rfl, rfl, rfl, rfl⟩

/-- The laws of the tables in a state that shrank, its session and its counter validity as before. -/
theorem TablesSound.shrink (h : TablesSound s) (htables : TableLaws noneSpare (fun n => n ∈ t.ks.endings) t)
    (hshrinks : Shrinks s t) (hsession : t.sc.session = s.sc.session) (hvalidity : t.ps.validity = s.ps.validity) :
    TablesSound t := by
  obtain ⟨-, hseg, hactive, hunknown⟩ := h
  obtain ⟨ha, hb, hr, hsegment⟩ := hshrinks
  refine ⟨htables, by rwa [hsegment, hsession], fun he => by rw [hsession]; exact hactive (ha he), fun hinv => ?_⟩
  rw [hvalidity] at hinv
  obtain ⟨hrolls, hbatches⟩ := hunknown hinv
  exact ⟨hr hrolls, hb hbatches⟩

/-! ### Cuts that end -/

theorem TablesSound.fireIfDue (h : TablesSound s) : TablesSound (fireIfDue s) := by
  have hsession : (Machine.fireIfDue s).sc.session = s.sc.session := fixedPart_session (by simp)
  exact h.shrink (h.tables.fireIfDue.ends fun n hn => (fireIfDue_endings s n).mpr hn) (shrinks_fireIfDue s) hsession
    (by simp)

/-- R147, R148: the rolls of the outstanding cut are completed, and it goes. -/
theorem tablesSound_endCut {o : Outstanding} {u : State} {e : CutOutcome} {g : HoldFlags} (h : SoundParts s)
    (ho : s.ks.outstanding = some o) (hu : SameTables s u) (hks : u.ks.queue = s.ks.queue)
    (hsession : u.sc.session = s.sc.session) (hps : u.ps = s.ps)
    (ht : SameTables (completeRolls u o.cut.kind e g) t) (htks : t.ks = u.ks) (htsession : t.sc.session = u.sc.session)
    (htps : t.ps = u.ps) : TablesSound (releaseCut t) := by
  have hreleased : ∀ n, n ∈ ({ t.ks with outstanding := none } : KnifeSequencer).endings ↔
      ∃ c ∈ s.ks.queue, c.kind.ending = some n := by
    intro n
    rw [mem_endings, htks, hks]
    simp
  have hdone : TableLaws noneSpare (fun n => n ∈ ({ t.ks with outstanding := none } : KnifeSequencer).endings)
      (completeRolls u o.cut.kind e g) := by
    refine (h.tables.tables.congr hu).completeRolls o.cut.kind e g fun m hm hmem => ?_
    rw [hreleased]
    rcases (mem_endings ..).mp hmem with hqueued | ⟨o', ho', hending⟩
    · exact hqueued
    · obtain rfl := Option.some.inj (ho.symm.trans ho')
      exact absurd hending hm
  have hbefore : TablesSound { t with ks := { t.ks with outstanding := none } } := by
    refine h.tables.shrink ?_ ?_ (htsession.trans hsession) (congrArg PersistentStore.validity (htps.trans hps))
    · exact (hdone.congr ht).congr ⟨rfl, rfl, rfl, rfl, rfl, rfl, rfl⟩
    · exact ((shrinks_of_same hu).trans (shrinks_completeRolls u o.cut.kind e g)).trans (shrinks_of_same ht)
  refine hbefore.fireIfDue.drainTest fun hne => ?_
  have hsame : (Machine.fireIfDue { t with ks := { t.ks with outstanding := none } }).sc.session = s.sc.session :=
    (fixedPart_session (t := { t with ks := { t.ks with outstanding := none } }) (by simp)).trans
      (htsession.trans hsession)
  rw [hsame] at hne
  have hvalid := h.store.loaded hne
  simpa [htps, hps] using hvalid

theorem readinessTest_ld (u : State) :
    (readinessTest u).ld = { u.ld with headReady := u.ld.headReady || u.headIsReady } := by
  unfold readinessTest
  split_ifs with hready
  · rw [Bool.and_eq_true, Bool.not_eq_true'] at hready
    obtain ⟨hold, hnew⟩ := hready
    simp [State.raiseAll, hold, hnew]
  · have hsame : (u.ld.headReady || u.headIsReady) = u.ld.headReady := by
      revert hready
      cases u.ld.headReady <;> cases u.headIsReady <;> simp
    rw [hsame]

/-- R182 to R184: the end of a commit attempt. -/
theorem tablesSound_endAttempt {c : CommitSeries} {held : Option StoreWrite} (h : SoundParts s)
    (hc : s.ps.op.series? = some c) (agrees : Bool) : TablesSound (endAttempt s c held agrees) := by
  obtain ⟨-, -, hrise, -, -⟩ := h.store.series c hc
  obtain ⟨hrt, -, hbatches, hrb, hks, -, hsession, -⟩ := endAttempt_frame s c held agrees
  have hafter : ∀ ps : PersistentStore, (ps.afterSuccess held).reserved = ps.reserved ∧
      (ps.afterSuccess held).mirror = ps.mirror ∧ (ps.afterSuccess held).validity = ps.validity := by
    intro ps
    unfold PersistentStore.afterSuccess
    split_ifs
    · exact ⟨rfl, rfl, rfl⟩
    · split <;> exact ⟨rfl, rfl, rfl⟩
  have hyes : endAttempt s c held true = endSuccess s c held := if_pos rfl
  have hno : endAttempt s c held false = endFailure s c held := if_neg Bool.false_ne_true
  cases agrees with
  | true =>
    obtain ⟨hres, hmir, hval⟩ := hafter (s.ps.confirm c.values)
    have hps : (endAttempt s c held true).ps = (s.ps.confirm c.values).afterSuccess held := by
      rw [hyes]
      unfold endSuccess postSeed announceRecovery readinessTest
      split_ifs <;> rfl
    have hld : (endAttempt s c held true).ld = (readinessTest { s with ps := s.ps.confirm c.values }).ld := by
      have hposted : (endAttempt s c held true).ld =
          (readinessTest (announceRecovery { s with ps := s.ps.confirm c.values })).ld := by
        rw [hyes]
        unfold endSuccess postSeed
        split_ifs <;> rfl
      rw [hposted, readinessTest_ld, readinessTest_ld]
      unfold announceRecovery
      split_ifs <;> rfl
    have hsame : SameTables (readinessTest { s with ps := s.ps.confirm c.values }) (endAttempt s c held true) :=
      ⟨by simp [hrb], by simp [hrb], by simp [hbatches], by simp [hrt], hld, by rw [hps, hres]; simp,
        by rw [hps, hmir]; simp⟩
    have htables := h.tables.tables.confirm (ps := s.ps.confirm c.values) rfl hrise rfl hsame
    refine ⟨hks ▸ htables, ?_, ?_, fun hinv => ?_⟩
    · rw [hrb, hsession]
      exact h.tables.session.segment
    · rw [hbatches, hsession]
      exact h.tables.session.active
    · rw [hps, hval] at hinv
      cases hinv
  | false =>
    have hfields : (endAttempt s c held false).ps.reserved = s.ps.reserved ∧
        (endAttempt s c held false).ps.mirror = s.ps.mirror ∧
        (endAttempt s c held false).ps.validity = s.ps.validity ∧ (endAttempt s c held false).ld = s.ld := by
      rw [hno]
      unfold endFailure endSeries postSeed PersistentStore.afterFailedSeries
      cases held <;> split_ifs <;> exact ⟨rfl, rfl, rfl, rfl⟩
    obtain ⟨hreserved, hmirror, hvalidity, hld⟩ := hfields
    exact h.tables.seen ⟨by rw [hrb], by rw [hrb], hbatches, by rw [hrt], hld, hreserved, hmirror⟩ hks hsession hvalidity

/-! ### Every effect -/

theorem tablesSound_empty (hrolls : t.rb.rolls = []) (hsegment : t.rb.segment = .none) (hbatches : t.batches = [])
    (hq : t.rt.queue = []) (hld : t.ld = ⟨[], none, false⟩) : TablesSound t := by
  refine ⟨⟨?_, ?_, ?_⟩, fun hne => absurd hsegment hne, ?_, fun _ => ⟨hrolls, hbatches⟩⟩
  · rw [hrolls, hbatches, hq]
    refine ⟨Nat.zero_le _, List.Pairwise.nil, ?_, Nat.zero_le _, List.Pairwise.nil, ?_, ?_, ?_, ?_, ?_, ?_⟩
    all_goals simp
  · rw [hrolls, hsegment]
    refine ⟨?_, ?_, ?_, ?_⟩
    all_goals simp
  · rw [hrolls, hld]
    refine ⟨List.nodup_nil, by simp, ?_, by simp, iff_of_false (by simp) ?_⟩
    · rintro p ⟨x, hx, -⟩
      cases hx
    · rintro ⟨p, -, hhead, -⟩
      cases hhead
  · rw [hbatches]
    rintro ⟨b, hb, -⟩
    cases hb

theorem tablesSound_direct (h : SoundParts s) (hd : Direct s t) : TablesSound t := by
  have hseen := fun (u : State) (hps : u.ps.reserved = s.ps.reserved ∧ u.ps.mirror = s.ps.mirror ∧
      u.ps.validity = s.ps.validity) (hrb : u.rb = s.rb ∧ u.batches = s.batches ∧ u.rt = s.rt ∧ u.ld = s.ld ∧
      u.ks = s.ks ∧ u.sc.session = s.sc.session) => show TablesSound u from
    h.tables.seen ⟨by rw [hrb.1], by rw [hrb.1], hrb.2.1, by rw [hrb.2.2.1], hrb.2.2.2.1, hps.1, hps.2.1⟩
      hrb.2.2.2.2.1 hrb.2.2.2.2.2 hps.2.2
  cases hd with
  | reset cause landed => exact tablesSound_empty rfl rfl rfl rfl rfl
  | lineEdge w _ =>
    have hmoved : TablesSound (reachTest { s with wpu := w }) :=
      h.tables.seen ⟨rfl, rfl, rfl, rfl, rfl, rfl, rfl⟩ rfl rfl rfl
    exact hmoved.fireIfDue
  | acknowledge o ho =>
    unfold acknowledgeCut
    dsimp only
    have hks : (completeRolls (answerCut s o) o.cut.kind .acknowledged ⟨false, false, false⟩).ks = (answerCut s o).ks := by
      simp
    have hps : (completeRolls (answerCut s o) o.cut.kind .acknowledged ⟨false, false, false⟩).ps = (answerCut s o).ps := by
      simp
    have hsession : (completeRolls (answerCut s o) o.cut.kind .acknowledged ⟨false, false, false⟩).sc.session =
        (answerCut s o).sc.session := fixedPart_session (by simp)
    split_ifs
    · exact tablesSound_endCut (u := answerCut s o) h ho ⟨rfl, rfl, rfl, rfl, rfl, rfl, rfl⟩ rfl rfl rfl
        ⟨rfl, rfl, rfl, rfl, rfl, rfl, rfl⟩ hks hsession hps
    · exact tablesSound_endCut (u := answerCut s o) h ho ⟨rfl, rfl, rfl, rfl, rfl, rfl, rfl⟩ rfl rfl rfl
        ⟨rfl, rfl, rfl, rfl, rfl, rfl, rfl⟩ hks hsession hps
  | timeout o ho =>
    unfold failCut
    dsimp only
    exact tablesSound_endCut (u := logEvent (answerCut s o) _) h ho ⟨rfl, rfl, rfl, rfl, rfl, rfl, rfl⟩ rfl rfl rfl
      ⟨rfl, rfl, rfl, rfl, rfl, rfl, rfl⟩ (by simp) (fixedPart_session (by simp)) (by simp)
  | suspend w _ => exact hseen _ ⟨rfl, rfl, rfl⟩ ⟨rfl, rfl, rfl, rfl, rfl, rfl⟩
  | writeEnd w suspending agrees _ =>
    unfold endWrite PersistentStore.finishWrite PersistentStore.afterWrite
    dsimp only
    split_ifs
    all_goals
      try split
      all_goals exact hseen _ ⟨rfl, rfl, rfl⟩ ⟨rfl, rfl, rfl, rfl, rfl, rfl⟩
  | attemptEnd c held agrees hc _ => exact tablesSound_endAttempt h hc agrees
  | resume =>
    refine hseen _ ?_ ⟨rfl, rfl, rfl, rfl, rfl, rfl⟩
    change s.ps.retryPending.reserved = _ ∧ s.ps.retryPending.mirror = _ ∧ s.ps.retryPending.validity = _
    unfold PersistentStore.retryPending PersistentStore.requestCommit
    split_ifs
    · split
      all_goals
        try split
        all_goals exact ⟨rfl, rfl, rfl⟩
    · exact ⟨rfl, rfl, rfl⟩
  | clear run r hs => exact h.tables.clearNow r (h.store.loaded (by rw [hs]; nofun))
  | load i r hrun _ _ _ =>
    obtain ⟨hsame, hks⟩ := ercOff_same s
    refine h.tables.same (hsame.trans ⟨rfl, rfl, rfl, rfl, rfl, rfl, rfl⟩) hks ?_ (by simp [loadNow])
    rw [hrun]
    rfl
  | startRun r hs _ =>
    have hsegment : s.rb.segment = .none := by
      by_contra hne
      have hrun := h.tables.session.segment hne
      rw [hs] at hrun
      cases hrun
    have hvalid := h.store.loaded (by rw [hs]; nofun)
    refine .ofRun ?_ rfl (by simpa [startRunNow] using hvalid)
    have hks : (startRunNow s r).ks = s.ks := by simp [startRunNow]
    rw [hks]
    exact h.tables.tables.congr ⟨by simp [startRunNow], by simp [startRunNow, hsegment], by simp [startRunNow],
      by simp [startRunNow], by simp [startRunNow], by simp [startRunNow], by simp [startRunNow]⟩
  | writeRecipe i port image _ _ => exact hseen _ ⟨rfl, rfl, rfl⟩ ⟨rfl, rfl, rfl, rfl, rfl, rfl⟩
  | writeSetup port args g _ => exact hseen _ ⟨rfl, rfl, rfl⟩ ⟨rfl, rfl, rfl, rfl, rfl, rfl⟩
  | seed batch roll hinvalid _ _ _ =>
    obtain ⟨hrolls, hbatches⟩ := h.tables.session.unknown hinvalid
    obtain ⟨⟨hcounts, hr, hl⟩, hsession⟩ := h.tables
    refine ⟨⟨{ hcounts with serials := ?_, codes := ?_ }, hr, hl⟩, hsession.segment, hsession.active, hsession.unknown⟩
    · change ∀ x ∈ s.rb.rolls.map rollKey, _
      rw [hrolls]
      nofun
    · change ∀ b ∈ s.batches, _
      rw [hbatches]
      nofun
  | clearEvents => exact h.tables.seen ⟨rfl, rfl, rfl, rfl, rfl, rfl, rfl⟩ rfl rfl rfl

theorem tablesSound_effect (h : SoundParts s) (he : Effect s t) : TablesSound t := by
  have htables := h.tables
  have hvalid := h.validOfRun
  cases he with
  | idle => exact htables
  | event e => exact htables.seen ⟨rfl, rfl, rfl, rfl, rfl, rfl, rfl⟩ rfl rfl rfl
  | record r prev c hs _ _ =>
    have hrun : (createRecord s r prev c).sc.session.inRun = true := by
      change s.sc.advanceSeq.session.inRun = true
      have hsame : s.sc.advanceSeq.session = s.sc.session := by
        unfold SessionControl.advanceSeq
        split_ifs <;> rfl
      rw [hsame, hs]
      rfl
    refine .ofRun ⟨?_, htables.tables.rolls, htables.tables.labels⟩ hrun (hvalid (by rw [hs]; rfl))
    change CountLaws noneSpare _ ((s.rt.queue ++ [newRecord s r prev c]).map RepeatRecord.shade) _ _
    rw [List.map_append]
    exact htables.tables.counts.joinRecord
  | embossSeek r k rest le ca _ _ _ _ =>
    have hwritten : SameTables s ((s.updateRecord k.seq fun x => x.matchedBare le).putEmboss ⟨.sync, s.rt.emboss.regain⟩) :=
      updateRecord_same (f := fun x => x.matchedBare le) (fun _ => rfl) rfl ⟨rfl, rfl, rfl, rfl⟩
    exact htables.seen (hwritten.trans (ercTake_same _ r _ ca)) (by simp [embossSeek])
      (fixedPart_session (by simp [embossSeek])) (by simp [embossSeek])
  | embossMatch r k rest le ca m _ _ _ _ =>
    have hwritten : SameTables s (s.updateRecord k.seq fun x => x.matchedIn le m) :=
      updateRecord_same (f := fun x => x.matchedIn le m) (fun x => matchedIn_shade x le m) rfl ⟨rfl, rfl, rfl, rfl⟩
    exact htables.seen (hwritten.trans (ercTake_same _ r _ ca)) (by simp [embossMatch])
      (fixedPart_session (by simp [embossMatch])) (by simp [embossMatch])
  | embossSkip r k n rest le ca _ _ _ _ =>
    have hmissed : SameTables s (logEmbossMissed (s.updateRecord k.seq RepeatRecord.missed) k.seq 0) :=
      updateRecord_same (f := RepeatRecord.missed) (fun _ => rfl) rfl ⟨rfl, rfl, rfl, rfl⟩
    have hwritten : SameTables (logEmbossMissed (s.updateRecord k.seq RepeatRecord.missed) k.seq 0)
        ((logEmbossMissed (s.updateRecord k.seq RepeatRecord.missed) k.seq 0).updateRecord n.seq fun x =>
          x.matchedBare le) := updateRecord_same (f := fun x => x.matchedBare le) (fun _ => rfl) rfl ⟨rfl, rfl, rfl, rfl⟩
    exact htables.seen ((hmissed.trans hwritten).trans (ercTake_same _ r _ ca)) (by simp [embossSkip])
      (fixedPart_session (by simp [embossSkip])) (by simp [embossSkip])
  | embossLose k rest le m _ _ _ =>
    exact htables.seen (updateRecord_same (f := fun x => x.untracked le) (fun _ => rfl) (embossLose_queue s k le m)
      (by simp [embossLose])) (by simp [embossLose]) (fixedPart_session (by simp)) (by simp [embossLose])
  | embossLost k rest le b _ _ _ =>
    exact htables.seen (updateRecord_same (f := fun x => x.untracked le) (fun _ => rfl) (embossLost_queue s k le b)
      (by simp)) (by simp)
      (fixedPart_session (by simp)) (by simp)
  | knifeSeek r k rest c hrun _ hq =>
    have hput : TablesSound (s.putKnife ⟨.sync, s.rt.knife.regain⟩) :=
      htables.seen ⟨rfl, rfl, rfl, rfl, rfl, rfl, rfl⟩ rfl rfl rfl
    exact tablesSound_knifeMark hput hrun (hvalid hrun) hq rfl r c
  | knifeMatch r k rest c hrun _ hq => exact tablesSound_knifeMark htables hrun (hvalid hrun) hq rfl r c
  | knifeSkip r k n rest c hrun _ hq => exact tablesSound_knifeSkip htables hrun (hvalid hrun) hq r c
  | knifeLose r k rest c m hrun _ hq => exact tablesSound_knifeLose htables hrun (hvalid hrun) hq r c m
  | knifeLost r k rest c b hrun _ hq => exact tablesSound_knifeLost htables hrun (hvalid hrun) hq r c b
  | splice =>
    unfold flagTail
    split
    · next n _ =>
      have hwritten : SameTables s (s.updateRecord n fun k => { k with splice := true }) :=
        updateRecord_same (f := fun k => { k with splice := true }) (fun _ => rfl) rfl ⟨rfl, rfl, rfl, rfl⟩
      exact htables.seen hwritten rfl rfl rfl
    · exact htables
  | periodEnd => exact htables.seen ⟨rfl, rfl, rfl, rfl, rfl, rfl, rfl⟩ rfl rfl rfl
  | endRun r hs =>
    have hentered : TablesSound (s.enter .draining r) :=
      .ofRun (htables.tables.congr ⟨rfl, rfl, rfl, rfl, rfl, rfl, rfl⟩) rfl (hvalid (by rw [hs]; rfl))
    exact hentered.drainTest fun _ => hvalid (by rw [hs]; rfl)
  | flush r hs => exact htables.flushNow r hs (hvalid (by rw [hs]; rfl))
  | defect n d =>
    have hwritten : SameTables s (s.updateRecord n fun k => k.addDefect d) :=
      updateRecord_same (f := fun k => k.addDefect d) (fun k => addDefect_shade k d) rfl ⟨rfl, rfl, rfl, rfl⟩
    exact htables.seen hwritten rfl rfl rfl
  | reading r n k x hrun _ hfind hnone =>
    obtain ⟨hk, rfl⟩ := findBy_mem _ _ _ _ hfind
    obtain ⟨v, hv⟩ := h.store.reserved_of_valid (hvalid hrun)
    obtain ⟨-, -, -, -, -, hshade, -⟩ := h.queue.laws.sound k hk
    have hpending : k.shade = .pending := by
      by_contra hne
      have hsome := hshade.mpr hne
      rw [hnone] at hsome
      cases hsome
    have hsession : (takeReading s r k.seq x).1.sc.session = s.sc.session :=
      fixedPart_session (takeReading_fixedPart ..)
    have hks : (takeReading s r k.seq x).1.ks = s.ks := by simp [takeReading]
    refine .ofRun ?_ (by rw [hsession]; exact hrun) ((takeReading_chain s r k.seq x (loaded_of_inRun hrun)).validity.trans
      (hvalid hrun))
    rw [hks]
    exact htables.tables.takeReading hv h.queue.laws.nodup hk hpending r x
  | handLabel n rest _ ho hr =>
    exact ⟨htables.tables.handLabel ho hr, htables.session.segment, htables.session.active, htables.session.unknown⟩
  | labelDone n x ho hx =>
    have hks : (removeLabelled s x).ks = s.ks := by simp [removeLabelled]
    refine htables.shrink (by rw [hks]; exact htables.tables.removeLabelled ho hx) ?_
      (fixedPart_session (removeLabelled_fixedPart ..)) (by simp [removeLabelled])
    have herased := shrinks_eraseRoll s.popOrder x.serial x.batch (g := BatchEntry.labelRoll) fun _ => rfl
    have hpopped : Shrinks s s.popOrder := ⟨id, id, id, rfl⟩
    refine ((hpopped.trans herased).trans (shrinks_freeTest _ x.batch)).trans ?_
    unfold removeLabelled readinessTest
    dsimp only
    split_ifs <;> exact ⟨id, id, id, rfl⟩
  | accept n x hx hheld =>
    have hks : (acceptRoll s x.serial).ks = s.ks := by simp [acceptRoll]
    exact htables.shrink (by rw [hks]; exact htables.tables.acceptRoll hx hheld)
      ((shrinks_updateRoll s x.serial _).trans (shrinks_joinOrder _ _)) (fixedPart_session (acceptRoll_fixedPart ..))
      (by simp [acceptRoll])
  | void n x hx hheld =>
    have hks : (voidRoll s x).ks = s.ks := by simp [voidRoll]
    exact htables.shrink (by rw [hks]; exact htables.tables.voidRoll hx hheld)
      ((shrinks_dropRoll s x).trans ⟨id, id, id, rfl⟩) (fixedPart_session (voidRoll_fixedPart ..)) (by simp [voidRoll])
  | direct _ hd => exact tablesSound_direct h hd

/-- From a sound state every step keeps the laws of the tables. -/
theorem tablesSound_step (h : Sound s) (hst : step s = .next t) :
    (RollsSound t ∧ BatchesSound t) ∧ LabelsSound t ∧ RollStatesSound t := by
  refine step_leads (P := Sound) (Q := fun u => (RollsSound u ∧ BatchesSound u) ∧ LabelsSound u ∧ RollStatesSound u)
    (fun _ => Iff.rfl) (fun _ => Iff.rfl) (fun u v hu he => ?_) s t h hst
  obtain ⟨htables, hsession⟩ := tablesSound_effect (soundParts_of_sound hu) he
  exact (tablesSound_iff v).mpr ⟨htables, hsession⟩

end

/-- Settles O58: every effect keeps the counts, the keys and the BUILDING roll; a spent batch is freed by the test that
follows the fall of its count. -/
theorem everyStepKeepsTheTableLaws : Obligations.EveryStepKeepsTheTableLaws :=
  fun _ _ hs hst => (tablesSound_step hs hst).1

/-- Settles O59: a roll is CLOSED exactly while it stands in the label order, the head is tested whenever it or the
persisted counters change, and an ENDING roll loses its cut only with its state. -/
theorem everyStepKeepsTheLabelLaws : Obligations.EveryStepKeepsTheLabelLaws :=
  fun _ _ hs hst => (tablesSound_step hs hst).2

end Sys2Proof.Proofs
end

section
/-! PROOFS. One command at a time: the step, the device reset, the encoders, splices and the timed commands of PWM and
store. -/

namespace Sys2Proof.Proofs

open Sys2Proof Sys2Proof.Machine

/-! ### The machine -/

/-- Settles O1. -/
theorem stepTakesTheFrontCommand : Obligations.StepTakesTheFrontCommand := by
  refine ⟨fun s c rest hs => ?_, fun s hs => ?_⟩
  · unfold step
    rw [hs]
  · unfold step
    rw [hs]

/-- Settles O4. -/
theorem deviceResetPutsEveryBlockInItsResetState : Obligations.DeviceResetPutsEveryBlockInItsResetState := by
  intro cause landed s arr harr
  have hfound : s.ps.arrayAtReset landed = arr := by
    rw [harr]
    unfold PersistentStore.arrayAtReset StoreOp.series?
    cases s.ps.op <;> rfl
  change Host.Outcome.next (s.afterDeviceReset cause landed) = _
  rw [State.afterDeviceReset, hfound]
  cases cause <;> rfl

/-! ### Encoders and splices -/

/-- Settles O5, by the sense of the edge of each encoder. -/
theorem printAndAngleEncodersCount : Obligations.PrintAndAngleEncodersCount := by
  intro a b s
  have hpe : exec (.encoderCount .pe a b) s = .next (countPe s ⟨a, b⟩) := rfl
  have hca : exec (.caCount a b) s = .next (countCa s ⟨a, b⟩) := rfl
  have hle : exec (.encoderCount .le a b) s = .next (countLe s ⟨a, b⟩) := rfl
  refine ⟨fun h => ?_, fun h => ?_, fun h h' => ?_, fun h => ?_, fun h => ?_, fun h h' => ?_, fun h h' => ?_⟩
  · rw [hpe, countPe, (quadSense_forward _ _).mpr h]
    rfl
  · rw [hpe, countPe, (quadSense_reverse _ _).mpr h]
    rfl
  · rw [hpe, countPe, quadSense_none _ _ h h']
  · rw [hca, countCa, (quadSense_forward _ _).mpr h]
    rfl
  · rw [hca, countCa, (quadSense_reverse _ _).mpr h]
    rfl
  · rw [hca, countCa, quadSense_none _ _ h h']
  · rw [hle, countLe, quadSense_none _ _ h h']

/-- An edge of the line encoder makes the knife compare on the new LE. -/
theorem exec_lineEdge {a b : Bool} {s : State} {d : Direction} {le : Word}
    (h : ForwardEdge s.wpu.leIn ⟨a, b⟩ ∧ d = .forward ∧ le = s.wpu.le + 1 ∨
      ReverseEdge s.wpu.leIn ⟨a, b⟩ ∧ d = .reverse ∧ le = s.wpu.le - 1) :
    exec (.encoderCount .le a b) s =
      .next (knifeCompare { s with wpu := { s.wpu with le := le, leDir := d, leIn := ⟨a, b⟩ } }) := by
  have hle : exec (.encoderCount .le a b) s = .next (countLe s ⟨a, b⟩) := rfl
  rw [hle, countLe]
  obtain ⟨he, rfl, rfl⟩ | ⟨he, rfl, rfl⟩ := h
  · rw [(quadSense_forward _ _).mpr he]
    rfl
  · rw [(quadSense_reverse _ _).mpr he]
    rfl

theorem knifeCompare_empty {s : State} (hq : s.ks.queue = []) :
    knifeCompare s = { s with wpu := { s.wpu with reach := false } } := by
  rw [knifeCompare_eq, hq]

/-- R14, R145: a head that is not reached, or that waits behind an outstanding cut, stays. -/
theorem knifeCompare_waits {s : State} {c : Cut} {rest : List Cut} (hq : s.ks.queue = c :: rest)
    (hwait : s.ks.outstanding.isSome = true ∨ (s.wpu.reach = false ∧ ¬isReached s.wpu.le c.pos)) :
    knifeCompare s = { s with wpu := { s.wpu with reach := s.wpu.reach || isReached s.wpu.le c.pos } } := by
  rw [knifeCompare_eq, hq]
  refine if_neg fun h => ?_
  obtain ho | ⟨hr, hpos⟩ := hwait
  · rw [h.2] at ho
    exact Bool.noConfusion ho
  · rw [hr, Bool.false_or] at h
    exact hpos h.1

/-- R145: a reached head fires when no cut is outstanding. -/
theorem knifeCompare_fires {s : State} {c : Cut} {rest : List Cut} (hq : s.ks.queue = c :: rest)
    (ho : s.ks.outstanding = none) (hreach : s.wpu.reach = true ∨ isReached s.wpu.le c.pos = true) :
    knifeCompare s = s.fired c rest := by
  rw [knifeCompare_eq, hq]
  exact if_pos ⟨by rw [Bool.or_eq_true]; exact hreach, ho⟩

/-- Settles O6, by what the knife's comparison does with an empty queue, a waiting head and a reached head. -/
theorem lineEncoderCountsAndFiresTheReachedHead : Obligations.LineEncoderCountsAndFiresTheReachedHead := by
  intro a b s d le hedge
  rw [exec_lineEdge hedge]
  exact ⟨fun hq => congrArg _ (knifeCompare_empty hq),
    fun c rest hq hwait => congrArg _ (knifeCompare_waits hq hwait),
    fun c rest hq ho hreach => congrArg _ (knifeCompare_fires hq ho hreach)⟩

/-- Settles O8: the record flagged is the one whose seq is the tail's. -/
theorem spliceFlagsTheNewestRecord : Obligations.SpliceFlagsTheNewestRecord := by
  intro s
  have hexec : exec .splice s = .next { flagTail s with wpu := { (flagTail s).wpu with spliceArm := true } } := rfl
  refine ⟨fun hq => ?_, fun q k hq hseq => ?_⟩
  · have hnone : s.tailSeq = none := by rw [State.tailSeq, hq]; rfl
    rw [hexec, flagTail, hnone]
  · have htail : s.tailSeq = some k.seq := by rw [State.tailSeq, hq, List.getLast?_concat]; rfl
    have hqueue : updateBy RepeatRecord.seq k.seq (fun x => { x with splice := true }) s.rt.queue =
        q ++ [{ k with splice := true }] := by
      rw [hq, updateBy, List.map_append]
      have hother : (q.map fun x => if x.seq = k.seq then { x with splice := true } else x) = q :=
        (List.map_congr_left fun x hx => if_neg (hseq x hx)).trans (List.map_id' q)
      rw [hother]
      simp
    rw [hexec, flagTail, htail]
    simp only [State.updateRecord, hqueue]

/-! ### PWM and store -/

/-- Settles O24. -/
theorem periodEndAppliesThePendingDuty : Obligations.PeriodEndAppliesThePendingDuty := fun _ => rfl

/-- Settles O25, by the operation of the store. -/
theorem suspensionStartsTheCommit : Obligations.SuspensionStartsTheCommit := by
  intro s
  have hexec : exec .writeSuspend s = execWriteSuspend s := rfl
  refine ⟨fun w c hop hres => ?_, fun hnone => ?_⟩
  · rw [hexec, execWriteSuspend, hop]
    dsimp only [PersistentStore.startSeries, PersistentStore.startAttempt, PersistentStore.reservedNow]
    rw [hres]
    rfl
  · rw [hexec, execWriteSuspend]
    cases hop : s.ps.op with
    | idle => rfl
    | committing c => rfl
    | committingOver c w => rfl
    | writing w due =>
      cases due with
      | false => rfl
      | true => exact absurd hop (hnone w)

/-- Settles O50, code by code where the fixed attributes of the codes speak. -/
theorem effectiveActionOfAnEvent : Obligations.EffectiveActionOfAnEvent := by
  intro c g
  refine ⟨fun h => ?_, fun h => ?_, fun h => ?_, rfl, rfl⟩
  · simp only [effectiveAction, h]
  · cases hn : c.nativeAction with
    | note => exact absurd hn h
    | flag => simp only [effectiveAction, hn, and_self]
    | stop => simp only [effectiveAction, hn, and_self]
  · unfold EventCode.defaultAction
    split
    · exact absurd rfl h
    · rfl

end Sys2Proof.Proofs
end

section
/-! PROOFS. The machine as a whole: every command answers and leaves the waiting commands, the state after reset is
sound, and the codes of an outstanding label survive a device reset. -/

namespace Sys2Proof.Proofs

open Sys2Proof Sys2Proof.Machine

/-! ### The waiting commands -/

theorem clearNow_pending (s : State) (r : Recipe) : (clearNow s r).pending = s.pending := by
  have hcleared : (ercOff (closeAndFreeBatches (clearRolls (clearKnife (clearQueue s))))).fixedPart =
      (clearKnife (clearQueue s)).fixedPart := by
    simp [clearRolls_frame]
  have hqueue : (clearQueue s).fixedPart = s.fixedPart := (clearQueue_frame s).2.2.2.2.2.2.2
  simp only [clearNow, State.raiseAll_pending, logEvent_pending, State.enter_pending]
  exact (fixedPart_pending hcleared).trans (fixedPart_pending hqueue)

theorem completeRolls_pending (s : State) (k : CutKind) (o : CutOutcome) (g : HoldFlags) :
    (completeRolls s k o g).pending = s.pending :=
  fixedPart_pending (by simp)

theorem releaseCut_pending (s : State) : (releaseCut s).pending = s.pending := by
  have hdrained : ∀ u : State, (drainTest u).pending = u.pending := fun u => outerPart_pending (by simp)
  have hfired : ∀ u : State, (fireIfDue u).pending = u.pending := fun u => fixedPart_pending (by simp)
  rw [releaseCut, hdrained, hfired]

theorem endWrite_pending (s : State) (w : StoreWrite) (b agrees : Bool) : (endWrite s w b agrees).pending = s.pending := by
  unfold endWrite
  cases agrees <;> rfl

theorem endAttempt_pending (s : State) (c : CommitSeries) (held : Option StoreWrite) (agrees : Bool) :
    (endAttempt s c held agrees).pending = s.pending := by
  have hseed : ∀ (u : State) (b : Bool) (st : Status), (postSeed u b st).pending = u.pending := fun u b st => by
    cases b <;> rfl
  unfold endAttempt
  split_ifs
  · have hready : ∀ u : State, (readinessTest u).pending = u.pending := fun u => fixedPart_pending (by simp)
    have hrecovered : ∀ u : State, (announceRecovery u).pending = u.pending := fun u => by
      unfold announceRecovery
      split_ifs
      · exact logEvent_pending u _
      · rfl
    simp only [endSuccess, hseed, hready, hrecovered]
  · unfold endFailure
    dsimp only
    split_ifs
    · rfl
    · simp only [endSeries, hseed, logEvent_pending]

/-- The effects on whole blocks leave the waiting commands. -/
theorem direct_pending {s t : State} (h : Direct s t) : t.pending = s.pending := by
  cases h with
  | reset cause landed => rfl
  | lineEdge w _ =>
    exact fixedPart_pending (t := { s with wpu := w }) (by simp)
  | acknowledge o _ =>
    unfold acknowledgeCut
    dsimp only
    rw [releaseCut_pending]
    split_ifs
    · exact completeRolls_pending ..
    · rw [recoverStation_pending]
      exact completeRolls_pending ..
  | timeout o _ =>
    unfold failCut
    dsimp only
    rw [releaseCut_pending, completeRolls_pending, logEvent_pending]
    rfl
  | suspend w _ => rfl
  | writeEnd w b agrees _ => exact endWrite_pending s w b agrees
  | attemptEnd c held agrees _ _ => exact endAttempt_pending s c held agrees
  | resume => rfl
  | clear run r _ => exact clearNow_pending s r
  | load i r _ _ _ _ => exact outerPart_pending (loadNow_outerPart s r)
  | startRun r _ _ => exact fixedPart_pending (s := ercStart s r) (by simp)
  | writeRecipe i port image _ _ => rfl
  | writeSetup port args g _ => rfl
  | seed b n _ _ _ _ => rfl
  | clearEvents => rfl

/-- Every effect leaves the waiting commands. -/
theorem effect_pending {s t : State} (h : Effect s t) : t.pending = s.pending := by
  cases h with
  | idle => rfl
  | event e => exact logEvent_pending s e
  | record r prev c _ _ _ => rfl
  | embossSeek r k rest le ca _ _ _ _ => exact fixedPart_pending (by simp)
  | embossMatch r k rest le ca m _ _ _ _ => exact fixedPart_pending (by simp)
  | embossSkip r k n rest le ca _ _ _ _ => exact fixedPart_pending (by simp)
  | embossLose k rest le m _ _ _ => exact fixedPart_pending (by simp)
  | embossLost k rest le b _ _ _ => exact fixedPart_pending (by simp)
  | knifeSeek r k rest c _ _ _ => exact outerPart_pending (by simp)
  | knifeMatch r k rest c _ _ _ => exact outerPart_pending (by simp)
  | knifeSkip r k n rest c _ _ _ => exact outerPart_pending (by simp)
  | knifeLose r k rest c m _ _ _ => exact outerPart_pending (by simp)
  | knifeLost r k rest c b _ _ _ => exact outerPart_pending (by simp)
  | splice => exact fixedPart_pending (by simp)
  | periodEnd => rfl
  | endRun r _ => exact outerPart_pending (endRun_outerPart s r)
  | flush r _ => exact outerPart_pending (flushNow_outerPart s r)
  | defect n d => rfl
  | reading r n k x _ _ _ _ => exact fixedPart_pending (takeReading_fixedPart s r n x)
  | handLabel n rest _ _ _ => rfl
  | labelDone n x _ _ => exact fixedPart_pending (removeLabelled_fixedPart s x)
  | accept n x _ _ => exact fixedPart_pending (acceptRoll_fixedPart s x.serial)
  | void n x _ _ => exact fixedPart_pending (voidRoll_fixedPart s x)
  | direct _ hd => exact direct_pending hd

theorem exec_pending {c : Instr} {s t : State} (h : exec c s = .next t) : t.pending = s.pending := by
  obtain ⟨s', u, hs, he, ht⟩ := exec_moves c s t h
  rw [workPart_pending ht, effect_pending he, workPart_pending hs]

/-- The outcome is a next state: the machine neither faults nor refuses. -/
def Answers (o : Host.Outcome State Fault Refusal) : Prop := ∃ t, o = .next t

theorem Answers.of_request (i : Instr) (s : State) : Answers (requestMeaning i s) := by
  cases i with
  | fetchReply port clocked =>
    change Answers (execFetchReply port clocked s)
    unfold execFetchReply
    dsimp only
    split_ifs <;> exact ⟨_, rfl⟩
  | _ => exact ⟨_, rfl⟩

theorem exec_answers (c : Instr) (s : State) : Answers (exec c s) := by
  cases c with
  | encoderCount encoder a b => cases encoder <;> exact ⟨_, rfl⟩
  | knifeAck =>
    change Answers (execKnifeAck s)
    unfold execKnifeAck
    split <;> exact ⟨_, rfl⟩
  | knifeTimeout =>
    change Answers (execKnifeTimeout s)
    unfold execKnifeTimeout
    split <;> exact ⟨_, rfl⟩
  | writeSuspend =>
    change Answers (execWriteSuspend s)
    unfold execWriteSuspend
    split <;> exact ⟨_, rfl⟩
  | storeWriteEnd agrees =>
    change Answers (execStoreWriteEnd agrees s)
    unfold execStoreWriteEnd
    split <;> exact ⟨_, rfl⟩
  | commitAttemptEnd agrees =>
    change Answers (execCommitAttemptEnd agrees s)
    unfold execCommitAttemptEnd
    split <;> exact ⟨_, rfl⟩
  | fetchReply port clocked => exact .of_request (.fetchReply port clocked) s
  | badFrame port f =>
    change Answers (execBadFrame port f s)
    unfold execBadFrame
    split_ifs
    · exact ⟨_, rfl⟩
    · exact ⟨_, rfl⟩
    · split
      · exact .of_request _ s
      · exact ⟨_, rfl⟩
  | _ => exact ⟨_, rfl⟩

/-- Settles O2: every command answers, and its effect leaves the waiting commands. -/
theorem everyCommandAnswersANextState : Obligations.EveryCommandAnswersANextState := by
  intro c s
  obtain ⟨t, ht⟩ := exec_answers c s
  exact ⟨t, ht, exec_pending ht⟩

/-! ### The state after reset -/

theorem eventsSound_reset : EventsSound State.reset := by
  unfold EventsSound
  decide

theorem storeSound_reset : StoreLaws State.reset.sc.session State.reset.ps := by
  have hslot : ∀ i, State.reset.ps.array.slot i = none := by decide
  have hsetup : Setup.InRange Setup.default := by
    unfold Setup.InRange
    decide
  refine ⟨by decide, ?_, ?_, ?_, fun h => absurd rfl h, ?_, by decide, fun h => Bool.noConfusion h, ?_, ?_,
    fun h => Bool.noConfusion h, ?_, hsetup, ?_, ?_, ?_⟩
  · exact forall_mem_none
  · exact forall_mem_none
  · exact forall_mem_none
  · exact forall_mem_none
  · exact fun _ h => StoreOp.noConfusion h
  · exact forall_mem_none
  · exact forall_mem_none
  · exact fun i r hr => by rw [hslot i] at hr; cases hr
  · exact forall_mem_none
  · exact forall_mem_none

/-- Settles O3, law by law: the tables and queues are empty, the counters unknown, the setup the default one. -/
theorem resetStateIsSound : Obligations.ResetStateIsSound := by
  obtain ⟨hcounters, hwrites, hfields⟩ := (storeSound_iff State.reset).mpr storeSound_reset
  obtain ⟨hqueue, hrecords⟩ := (queueState_iff State.reset).mpr queueState_reset
  obtain ⟨htables, hsession⟩ : TablesSound State.reset := tablesSound_empty rfl rfl rfl rfl rfl
  obtain ⟨⟨hrolls, hbatches⟩, hlabels, hstates⟩ := (tablesSound_iff State.reset).mpr ⟨htables, hsession⟩
  exact ⟨hfields, ercSound_reset, eventsSound_reset, hqueue, hrecords, knifeSound_emptied rfl rfl, hcounters, hwrites,
    hrolls, hbatches, hlabels, hstates⟩

/-! ### Labels and resets -/

/-- R158: the roll of a ready head is persisted in the mirror. -/
theorem readyHead_persisted {s : State} {n : Nat} (h : SoundParts s) (hhead : s.ld.order.head? = some n)
    (hready : s.ld.headReady = true) : ∃ x, s.findRoll n = some x ∧ Persisted (rollKey x) s.ps.mirror := by
  obtain ⟨p, ⟨x, hx, -, rfl⟩, hp, hpersisted⟩ := h.tables.tables.labels.ready.mp hready
  rw [hhead] at hp
  obtain rfl : n = (rollKey x).1 := Option.some.inj hp
  exact ⟨x, h.tables.tables.find hx, hpersisted⟩

/-- R163: so is the roll of an outstanding label, which is the ready head's. -/
theorem outstanding_persisted {s : State} {n : Nat} (h : SoundParts s) (ho : s.ld.outstanding = some n) :
    ∃ x, s.findRoll n = some x ∧ Persisted (rollKey x) s.ps.mirror :=
  have hhead := h.tables.tables.labels.outstanding n ho
  readyHead_persisted h hhead.1 hhead.2

/-- R185: what a device reset finds in the counter block is no less than the mirror. -/
theorem block_of_reset {x : Session} {ps : PersistentStore} (h : StoreLaws x ps) {m : Counters} (hm : ps.mirror = some m)
    (landed : Bool) : ∀ c ∈ (ps.arrayAtReset landed).counters, m.Le c := by
  have hblock : ∀ c ∈ ps.array.counters, m.Le c := fun c hc => by
    have heq := h.block c hc
    rw [hm] at heq
    obtain rfl := Option.some.inj heq
    exact ⟨le_refl _, le_refl _⟩
  have hseries : ∀ c : CommitSeries, ps.op.series? = some c →
      ∀ v ∈ (if landed then { ps.array with counters := some c.values } else ps.array).counters, m.Le v := by
    intro c hc v hv
    split_ifs at hv
    · obtain rfl := Option.some.inj hv
      exact (h.series c hc).2.2.1 m hm
    · exact hblock v hv
  unfold PersistentStore.arrayAtReset
  split
  · exact hblock
  · exact hblock
  · next c hop => exact hseries c (by rw [hop]; rfl)
  · next c w hop => exact hseries c (by rw [hop]; rfl)

/-! ### GET LABEL -/

theorem permitted_getLabel : permitted (commandCode (.getLabel .portQ)) .portQ = true := rfl

/-- R164: the outstanding label is handed out again. -/
theorem exec_getLabel_again {s : State} {n : Nat} (ho : s.ld.outstanding = some n) :
    exec (.getLabel .portQ) s = .next (s.answered .portQ (.getLabel .portQ) .done (s.labelOf n)) := by
  have hbody : ∀ u : State, u.ld.outstanding = some n → getLabelBody u = (u, ⟨.done, u.labelOf n⟩) := fun u h => by
    rw [getLabelBody, h]
  exact congrArg Host.Outcome.next (takeRequest_answered _ _ s _ _ permitted_getLabel (hbody (s.taken _ _) ho))

theorem exec_getLabel_empty {s : State} (ho : s.ld.outstanding = none) (horder : s.ld.order = []) :
    exec (.getLabel .portQ) s = .next (s.answered .portQ (.getLabel .portQ) .noLabel []) := by
  have hbody : ∀ u : State, u.ld.outstanding = none → u.ld.order = [] → getLabelBody u = (u, Answer.plain .noLabel) :=
    fun u h h' => by rw [getLabelBody, h, h']
  exact congrArg Host.Outcome.next (takeRequest_answered _ _ s _ _ permitted_getLabel (hbody (s.taken _ _) ho horder))

theorem exec_getLabel_notReady {s : State} {n : Nat} {rest : List Nat} (ho : s.ld.outstanding = none)
    (horder : s.ld.order = n :: rest) (hready : s.ld.headReady = false) :
    exec (.getLabel .portQ) s = .next (s.answered .portQ (.getLabel .portQ) .notReady (leBytes 4 n)) := by
  have hbody : ∀ u : State, u.ld.outstanding = none → u.ld.order = n :: rest → u.ld.headReady = false →
      getLabelBody u = (u, ⟨.notReady, leBytes 4 n⟩) := fun u h h' h'' => by
    rw [getLabelBody, h, h', h'']
    rfl
  exact congrArg Host.Outcome.next
    (takeRequest_answered _ _ s _ _ permitted_getLabel (hbody (s.taken _ _) ho horder hready))

/-- R163: the label of a ready head becomes outstanding. -/
theorem exec_getLabel_head {s : State} {n : Nat} {rest : List Nat} (ho : s.ld.outstanding = none)
    (horder : s.ld.order = n :: rest) (hready : s.ld.headReady = true) :
    exec (.getLabel .portQ) s = .next (State.answered { s with ld := { s.ld with outstanding := some n } }
      .portQ (.getLabel .portQ) .done (s.labelOf n)) := by
  have hbody : ∀ u : State, u.ld.outstanding = none → u.ld.order = n :: rest → u.ld.headReady = true →
      getLabelBody u = ({ u with ld := { u.ld with outstanding := some n } }, ⟨.done, u.labelOf n⟩) :=
    fun u h h' h'' => by
      rw [getLabelBody, h, h', h'']
      rfl
  exact congrArg Host.Outcome.next (takeRequest_effect _ _ s { s with ld := { s.ld with outstanding := some n } } _ _
    permitted_getLabel (hbody (s.taken _ _) ho horder hready))

theorem labelOf_of_find {s : State} {n : Nat} {x : Roll} (h : s.findRoll n = some x) : s.labelOf n = x.label := by
  rw [State.labelOf, h]
  rfl

/-- Settles O46, by the state of the Label Dispatcher. -/
theorem getLabelOutcomes : Obligations.GetLabelOutcomes := by
  refine fun s => ⟨fun n x ho hx => ?_, fun ho horder => exec_getLabel_empty ho horder, fun n ho hhead hready => ?_,
    fun n x ho hhead hready hx => ?_⟩
  · rw [← labelOf_of_find hx]
    exact exec_getLabel_again ho
  · obtain ⟨rest, horder⟩ := List.head?_eq_some_iff.mp hhead
    exact exec_getLabel_notReady ho horder hready
  · obtain ⟨rest, horder⟩ := List.head?_eq_some_iff.mp hhead
    rw [← labelOf_of_find hx]
    exact exec_getLabel_head ho horder hready

theorem answered_slot (s : State) (port : Port) (i : Instr) (st : Status) (data : List Byte) :
    ((s.answered port i st data).ports.get port).slot = ⟨st, BitVec.ofNat 8 (commandCode i), data, false⟩ := by
  cases port <;> rfl

/-- R163: after a label is handed out it is outstanding, and its head was ready. -/
theorem getLabel_done {s t : State} (hexec : exec (.getLabel .portQ) s = .next t)
    (hdone : (t.ports.get .portQ).slot.status = .done) :
    ∃ n, t.ld.outstanding = some n ∧
      (s.ld.outstanding = some n ∨ s.ld.order.head? = some n ∧ s.ld.headReady = true) := by
  cases ho : s.ld.outstanding with
  | some n =>
    rw [exec_getLabel_again ho] at hexec
    cases hexec
    exact ⟨n, ho, .inl rfl⟩
  | none =>
    cases horder : s.ld.order with
    | nil =>
      rw [exec_getLabel_empty ho horder] at hexec
      cases hexec
      rw [answered_slot] at hdone
      cases hdone
    | cons n rest =>
      cases hready : s.ld.headReady with
      | false =>
        rw [exec_getLabel_notReady ho horder hready] at hexec
        cases hexec
        rw [answered_slot] at hdone
        cases hdone
      | true =>
        rw [exec_getLabel_head ho horder hready] at hexec
        cases hexec
        exact ⟨n, rfl, .inr ⟨rfl, rfl⟩⟩

/-- Settles O60: a label is handed out over persisted codes only, and the counter block that a reset finds holds at least
the mirror. -/
theorem outstandingLabelCodesSurviveAReset : Obligations.OutstandingLabelCodesSurviveAReset := by
  refine ⟨fun s t hsound hexec hdone => ?_, fun s t cause landed n x hsound ho hx hexec c hc => ?_⟩
  · have hparts := soundParts_of_sound hsound
    obtain ⟨n, hout, hgiven⟩ := getLabel_done hexec hdone
    obtain ⟨x, hx, m, hm, hle⟩ : ∃ x, s.findRoll n = some x ∧ Persisted (rollKey x) s.ps.mirror :=
      hgiven.elim (outstanding_persisted hparts) fun h => readyHead_persisted hparts h.1 h.2
    exact ⟨n, x, m, hout, hx, hm, hle⟩
  · have hparts := soundParts_of_sound hsound
    obtain ⟨y, hy, m, hm, hbatch, hserial⟩ := outstanding_persisted hparts ho
    rw [hx] at hy
    obtain rfl := Option.some.inj hy
    cases hexec
    obtain ⟨hb, hr⟩ := block_of_reset hparts.store hm landed c hc
    exact ⟨Nat.le_trans hbatch hb, Nat.le_trans hserial hr⟩

end Sys2Proof.Proofs
end

section
/-! PROOFS. Marks: the tests of the WPU, print marks, and emboss marks in every mode of the emboss point. -/

namespace Sys2Proof.Proofs

open Sys2Proof Sys2Proof.Machine

/-! ### The tests of the WPU -/

theorem exec_markCapture_unloaded {s : State} (sensor : Sensor) (h : s.sc.session = .unloaded) :
    exec (.markCapture sensor) s = .next (s.onSensor sensor SensorState.countSpurious) := by
  have hexec : exec (.markCapture sensor) s = .next (capture s sensor) := rfl
  rw [hexec, capture, h]

theorem exec_markCapture_ignored {s : State} {sensor : Sensor} {run : RunState} {r : Recipe}
    (h : s.sc.session = .loaded run r) (hfails : s.accepts sensor r = false) :
    exec (.markCapture sensor) s = .next (s.onSensor sensor SensorState.countSpurious) := by
  have hexec : exec (.markCapture sensor) s = .next (capture s sensor) := rfl
  rw [hexec, capture, h]
  dsimp only
  rw [hfails]
  rfl

/-- Settles O9: the test of the session, of the direction or of the blanking distance fails. -/
theorem marksThatFailATestAreCounted : Obligations.MarksThatFailATestAreCounted := by
  intro sensor s h
  cases hsession : s.sc.session with
  | unloaded => exact exec_markCapture_unloaded sensor hsession
  | loaded run r =>
    refine exec_markCapture_ignored hsession ?_
    obtain hunloaded | hreverse | ⟨run', r', p, hloaded, hlast, hnear⟩ := h
    · rw [hsession] at hunloaded
      cases hunloaded
    · rw [State.accepts, hreverse]
      rfl
    · rw [hsession] at hloaded
      cases hloaded
      rw [State.accepts, hlast]
      have hblanked : decide ((r.rNom : Int) ≤ 2 * signedDistance p.pos (s.wpu.counter sensor)) = false :=
        decide_eq_false (by omega)
      rw [passesBlanking, hblanked, Bool.and_false]

/-! ### Deliveries that find no place -/

/-- R10: a spurious delivery that changes nothing gives the last accepted capture back and counts. -/
theorem exec_markCapture_spurious {s : State} {sensor : Sensor} {run : RunState} {r : Recipe}
    (h : Accepted s sensor run r) {u : State}
    (hu : u = s.onSensor sensor fun x => { x with last := some (s.wpu.captureOf sensor) })
    (hd : deliver u sensor run r (s.wpu.sensor sensor).last = (u, .spurious)) :
    exec (.markCapture sensor) s = .next
      { s with
        wpu := s.wpu.setSensor sensor
          ⟨(s.wpu.sensor sensor).last, min 65535 ((s.wpu.sensor sensor).spurious + 1)⟩ } := by
  subst hu
  rw [exec_markCapture_accepted s sensor run r h, acceptCapture_spurious s sensor run r _ hd]
  cases sensor <;> rfl

theorem deliver_noPlace {u : State} {sensor : Sensor} {run : RunState} {r : Recipe} {prev : Option Capture}
    (h : run = .armed ∨ (run = .draining ∧ sensor = .pm) ∨
      (run ≠ .armed ∧ sensor = .em ∧ ∀ k ∈ u.rt.queue, k.emboss ≠ .awaiting) ∨
      (run ≠ .armed ∧ sensor = .cm ∧ u.rt.queue = [])) : deliver u sensor run r prev = (u, .spurious) := by
  obtain rfl | ⟨rfl, rfl⟩ | ⟨hrun, rfl, hnone⟩ | ⟨hrun, rfl, hempty⟩ := h
  · cases sensor <;> rfl
  · rfl
  · have hawaiting : u.awaitingRecords = [] := by
      rw [State.awaitingRecords, List.filter_eq_nil_iff]
      exact fun k hk hb => hnone k hk (eq_of_beq hb)
    have hemboss : deliverEmboss u r prev u.wpu.le u.wpu.ca = (u, .spurious) := by rw [deliverEmboss, hawaiting]
    cases run with
    | armed => exact absurd rfl hrun
    | running => exact hemboss
    | draining => exact hemboss
  · have hcut : deliverCut u r prev u.wpu.le = (u, .spurious) := by rw [deliverCut, hempty]
    cases run with
    | armed => exact absurd rfl hrun
    | running => exact hcut
    | draining => exact hcut

/-! ### Print marks -/

/-- The state after the capture of a print mark was recorded. -/
def afterPrintCapture (s : State) : State :=
  { s with wpu := { s.wpu with pm := { s.wpu.pm with last := some ⟨s.wpu.pe, none⟩ } } }

/-- R10: a print mark that is refused gives the last accepted capture back. -/
theorem exec_print_refused {s t : State} {r : Recipe} (h : Accepted s .pm .running r)
    (hd : deliverPrint (afterPrintCapture s) r s.wpu.pm.last s.wpu.pe = (t, .refused)) :
    exec (.markCapture .pm) s = .next (t.onSensor .pm fun x => { x with last := s.wpu.pm.last }) := by
  have hdeliver : deliver (afterPrintCapture s) .pm .running r s.wpu.pm.last = (t, .refused) := hd
  have haccept : acceptCapture s .pm .running r = applyVerdict (deliver (afterPrintCapture s) .pm .running r s.wpu.pm.last).1
      .pm s.wpu.pm.last (deliver (afterPrintCapture s) .pm .running r s.wpu.pm.last).2 := rfl
  rw [exec_markCapture_accepted s .pm .running r h, haccept, hdeliver]
  rfl

theorem exec_print_taken {s t : State} {r : Recipe} (h : Accepted s .pm .running r)
    (hd : deliverPrint (afterPrintCapture s) r s.wpu.pm.last s.wpu.pe = (t, .taken)) :
    exec (.markCapture .pm) s = .next t := by
  rw [exec_markCapture_accepted s .pm .running r h]
  exact congrArg _ (acceptCapture_taken s .pm .running r t hd)

/-- Settles O10: what the delivery answers, and the capture that it gives back. -/
theorem marksThatFindNoPlace : Obligations.MarksThatFindNoPlace := by
  intro sensor run r s hacc
  refine ⟨fun h => exec_markCapture_spurious hacc rfl (deliver_noPlace h), ?_, ?_⟩
  · rintro rfl rfl hfull
    have hd : deliverPrint (afterPrintCapture s) r s.wpu.pm.last s.wpu.pe =
        (logEvent (afterPrintCapture s) ⟨.queueFull, .print, some s.sc.nextSeq, none, none, 0⟩, .refused) := by
      rw [deliverPrint]
      exact if_pos hfull
    exact exec_print_refused hacc hd
  · rintro rfl rfl hroom hspent
    have hd : deliverPrint (afterPrintCapture s) r s.wpu.pm.last s.wpu.pe = (afterPrintCapture s, .refused) := by
      rw [deliverPrint]
      exact (if_neg (Nat.not_le.mpr hroom)).trans (if_pos hspent)
    exact (exec_print_refused hacc hd).trans rfl

/-- R38: the flag PRINT_IRREGULAR, as a comparison of integers. -/
theorem irregularLength_eq (r : Recipe) (n : Nat) : irregularLength r n =
    (decide ((n : Int) < r.rNom - r.rTol) || decide (r.rNom + r.rTol < n)) := by
  have hbelow : decide (n + r.rTol < r.rNom) = decide ((n : Int) < r.rNom - r.rTol) := decide_eq_decide.mpr (by omega)
  rw [irregularLength, hbelow]

/-- R22: the run sequence counter after a record. -/
theorem advanceSeq_eq {c : SessionControl} (h : c.seqSpent = false) : c.advanceSeq =
    { c with
      nextSeq := if c.nextSeq < 4294967295 then c.nextSeq + 1 else c.nextSeq
      seqSpent := !decide (c.nextSeq < 4294967295) } := by
  have hmax : Config.maxWord = 4294967295 := rfl
  by_cases hn : c.nextSeq < 4294967295
  · simp only [SessionControl.advanceSeq, hmax, hn, h, if_true, decide_true, Bool.not_true]
  · simp only [SessionControl.advanceSeq, hmax, hn, if_false, decide_false, Bool.not_false]

/-- Settles O11: the record made at the tail, field by field. -/
theorem printMarkMakesARecord : Obligations.PrintMarkMakesARecord := by
  intro r s lp hacc hroom hspent hlp
  have hd : deliverPrint (afterPrintCapture s) r s.wpu.pm.last s.wpu.pe =
      (createRecord (afterPrintCapture s) r s.wpu.pm.last s.wpu.pe, .taken) := by
    rw [deliverPrint]
    exact (if_neg (Nat.not_le.mpr hroom)).trans
      (if_neg (by rw [show (afterPrintCapture s).sc = s.sc from rfl, hspent]; decide))
  have hlength : (afterPrintCapture s).printLength s.wpu.pm.last s.wpu.pe = lp := hlp.symm
  rw [exec_print_taken hacc hd, createRecord, newRecord, hlength, show (afterPrintCapture s).sc = s.sc from rfl,
    advanceSeq_eq hspent]
  cases lp with
  | none => rfl
  | some n =>
    rw [Option.map_some, Option.getD_some, irregularLength_eq]
    rfl

end Sys2Proof.Proofs
end

section
/-! PROOFS. Emboss marks in every mode of the emboss point, and marks shorter than the window of their record. -/

namespace Sys2Proof.Proofs

open Sys2Proof Sys2Proof.Machine

/-! ### The capture of an emboss mark -/

/-- The state after the capture of an emboss mark was recorded. -/
def afterEmbossCapture (s : State) : State :=
  { s with wpu := { s.wpu with em := { s.wpu.em with last := some ⟨s.wpu.le, some s.wpu.ca⟩ } } }

theorem exec_emboss_taken {s t : State} {run : RunState} {r : Recipe} (h : Accepted s .em run r)
    (hrun : run = .running ∨ run = .draining)
    (hd : deliverEmboss (afterEmbossCapture s) r s.wpu.em.last s.wpu.le s.wpu.ca = (t, .taken)) :
    exec (.markCapture .em) s = .next t := by
  have hdeliver : deliver (afterEmbossCapture s) .em run r s.wpu.em.last = (t, .taken) :=
    (deliver_em (afterEmbossCapture s) run r s.wpu.em.last hrun).trans hd
  rw [exec_markCapture_accepted s .em run r h]
  exact congrArg _ (acceptCapture_taken s .em run r t hdeliver)

/-- R10: a spurious emboss mark gives the last accepted capture back and counts. -/
theorem exec_emboss_spurious {s t : State} {run : RunState} {r : Recipe} (h : Accepted s .em run r)
    (hrun : run = .running ∨ run = .draining)
    (hd : deliverEmboss (afterEmbossCapture s) r s.wpu.em.last s.wpu.le s.wpu.ca = (t, .spurious)) :
    exec (.markCapture .em) s =
      .next (t.onSensor .em fun x => { x with last := s.wpu.em.last }.countSpurious) := by
  have hdeliver : deliver (afterEmbossCapture s) .em run r s.wpu.em.last = (t, .spurious) :=
    (deliver_em (afterEmbossCapture s) run r s.wpu.em.last hrun).trans hd
  rw [exec_markCapture_accepted s .em run r h]
  exact congrArg _ (acceptCapture_spurious s .em run r t hdeliver)

theorem measured_some (p : Capture) (c : Word) : measured (some p) c = (c - p.pos).toNat := rfl

/-! ### Matches -/

/-- R44: an emboss mark in SEEKING. -/
theorem exec_emboss_seeking {s : State} {run : RunState} {r : Recipe} {k : RepeatRecord} {rest : List RepeatRecord}
    (h : Accepted s .em run r) (hrun : run = .running ∨ run = .draining) (hk : s.awaitingRecords = k :: rest)
    (hmode : s.rt.emboss.mode = .seeking) :
    exec (.markCapture .em) s = .next (embossSeek (afterEmbossCapture s) r k s.wpu.le s.wpu.ca) :=
  exec_emboss_taken h hrun (deliverEmboss_seeking (afterEmbossCapture s) r _ _ _ k rest hk hmode)

/-- R45: a plausible emboss mark in SYNC. -/
theorem exec_emboss_match {s : State} {run : RunState} {r : Recipe} {k : RepeatRecord} {rest : List RepeatRecord}
    {p : Capture} (h : Accepted s .em run r) (hrun : run = .running ∨ run = .draining)
    (hk : s.awaitingRecords = k :: rest) (hmode : s.rt.emboss.mode = .sync) (hp : s.wpu.em.last = some p)
    (hfits : (embossWindow r s.ps.setup k).Contains (s.wpu.le - p.pos).toNat) :
    exec (.markCapture .em) s =
      .next (embossMatch (afterEmbossCapture s) r k s.wpu.le s.wpu.ca (s.wpu.le - p.pos).toNat) := by
  refine exec_emboss_taken h hrun ?_
  rw [hp]
  exact deliverEmboss_match (afterEmbossCapture s) r (some p) _ _ k rest hk hmode ((Window.fits_iff _ _).mpr hfits)

/-- R52, R53: what a match in SYNC writes into its record. -/
theorem matchedIn_eq (k : RepeatRecord) (c : Word) (m : Nat) : k.matchedIn c m =
    { k with
      emboss := .matched
      embossPos := some c
      embossLen := if k.printLen.isSome then some m else k.embossLen
      stretch := (k.printLen.map fun lp : Nat => roundDiv (((m : Int) - lp) * 1000000) lp).or k.stretch } := by
  unfold RepeatRecord.matchedIn
  cases hlen : k.printLen <;> rfl

theorem embossWindow_of_printLen {r : Recipe} {u : Setup} {k : RepeatRecord} {lp : Nat} (h : k.printLen = some lp) :
    embossWindow r u k = ⟨lp, lp * u.sMax / 1000000⟩ := by
  rw [embossWindow, h]
  rfl

/-! ### Changes of one record -/

/-- Where the seqs are distinct, a change by seq is a change of the one record. -/
theorem updateRecord_one {s : State} {k : RepeatRecord} (f : RepeatRecord → RepeatRecord)
    (hnodup : (s.rt.queue.map RepeatRecord.seq).Nodup) (hk : k ∈ s.rt.queue) :
    s.updateRecord k.seq f =
      { s with rt := { s.rt with queue := s.rt.queue.map fun x => if x.seq = k.seq then f k else x } } := by
  rw [State.updateRecord, updateBy_eq_map RepeatRecord.seq s.rt.queue k f hnodup hk]

theorem updateRecord_twice (s : State) (n : Nat) (f g : RepeatRecord → RepeatRecord) (hf : ∀ k, (f k).seq = k.seq) :
    (s.updateRecord n f).updateRecord n g = s.updateRecord n fun k => g (f k) := by
  have hqueue := updateBy_updateBy RepeatRecord.seq n f g s.rt.queue hf
  simp only [State.updateRecord, hqueue]

/-- Settles O12: the record is matched, and the ERC in OFF writes its error only. -/
theorem embossMarkMatchesTheOldestAwaitingRecord : Obligations.EmbossMarkMatchesTheOldestAwaitingRecord := by
  intro run r s p k rest lp m hacc hrun hmode hoff hp hk hnodup hlen hm hfits
  subst hm
  rw [← embossWindow_of_printLen (r := r) hlen] at hfits
  have hmem : k ∈ s.rt.queue := (awaiting_mem s k rest hk).1
  have htaken : embossMatch (afterEmbossCapture s) r k s.wpu.le s.wpu.ca (s.wpu.le - p.pos).toNat =
      (afterEmbossCapture s).updateRecord k.seq fun x =>
        { x.matchedIn s.wpu.le (s.wpu.le - p.pos).toNat with embossError := some (embossError r s.wpu.ca) } := by
    rw [embossMatch, ercTake_off _ _ _ _ (by exact hoff), updateRecord_twice _ _ _ _ fun x => (matchedIn_seq x _ _).1]
  rw [exec_emboss_match hacc hrun hk hmode hp hfits, htaken, updateRecord_one (s := afterEmbossCapture s) _ hnodup hmem,
    matchedIn_eq, hlen]
  rfl

/-! ### The ERC takes a record -/

/-- R71: the lock run in ACQUIRE. -/
theorem count_acquire {r : Recipe} {c : Erc} {e : Int} (h : c.mode = .acquire) :
    (r.wLock < e.natAbs → c.count r e = { c with lockRun := 0 }) ∧
    (e.natAbs ≤ r.wLock → c.lockRun < 3 → c.count r e = { c with lockRun := c.lockRun + 1 }) ∧
    (e.natAbs ≤ r.wLock → c.lockRun = 3 → c.count r e = { c with mode := .locked, lockRun := 0, lossRun := 0 }) := by
  have hcount : c.count r e = c.countLock r e := by rw [Erc.count, h]
  rw [hcount, Erc.countLock]
  refine ⟨fun hout => ?_, fun hin hrun => ?_, fun hin hrun => ?_⟩
  · rw [if_neg (by omega)]
  · rw [if_pos hin, if_neg (by omega)]
  · rw [if_pos hin, if_pos (by omega)]

/-- R72: the loss run in LOCKED. -/
theorem count_locked {r : Recipe} {c : Erc} {e : Int} (h : c.mode = .locked) :
    (e.natAbs ≤ r.wCap → c.count r e = { c with lossRun := 0 }) ∧
    (r.wCap < e.natAbs → c.lossRun < 2 → c.count r e = { c with lossRun := c.lossRun + 1 }) ∧
    (r.wCap < e.natAbs → c.lossRun = 2 → c.count r e = { c with mode := .acquire, lockRun := 0, lossRun := 0 }) := by
  have hcount : c.count r e = c.countLoss r e := by rw [Erc.count, h]
  rw [hcount, Erc.countLoss]
  refine ⟨fun hin => ?_, fun hout hrun => ?_, fun hout hrun => ?_⟩
  · rw [if_neg (by omega)]
  · rw [if_pos hout, if_neg (by omega)]
  · rw [if_pos hout, if_pos (by omega)]

/-- R47: an emboss mark that fits one skipped record. -/
theorem exec_emboss_skip {s : State} {run : RunState} {r : Recipe} {k n : RepeatRecord} {rest : List RepeatRecord}
    {p : Capture} (h : Accepted s .em run r) (hrun : run = .running ∨ run = .draining)
    (hk : s.awaitingRecords = k :: n :: rest) (hmode : s.rt.emboss.mode = .sync) (hp : s.wpu.em.last = some p)
    (hskips : (embossWindow r s.ps.setup k).Skips (embossWindow r s.ps.setup n) (s.wpu.le - p.pos).toNat) :
    exec (.markCapture .em) s = .next (embossSkip (afterEmbossCapture s) r k n s.wpu.le s.wpu.ca) := by
  refine exec_emboss_taken h hrun ?_
  rw [hp]
  exact deliverEmboss_skip (afterEmbossCapture s) r (some p) _ _ k n rest hk hmode hskips

/-- Where the keys are distinct, changes of two entries are one case split by key. -/
theorem map_updateBy {α : Type} (key : α → Nat) {l : List α} {k n : α} (f g : α → α) (hnodup : (l.map key).Nodup)
    (hf : key (f k) = key k) (hn : n ∈ l) (hne : key n ≠ key k) :
    updateBy key (key n) g (l.map fun x => if key x = key k then f k else x) =
      l.map fun x => if key x = key k then f k else if key x = key n then g n else x := by
  rw [updateBy, List.map_map]
  refine List.map_congr_left fun x hx => ?_
  dsimp only [Function.comp_apply]
  by_cases hk : key x = key k
  · rw [if_pos hk, if_pos hk, if_neg (by rw [hf]; exact fun h => hne h.symm)]
  · rw [if_neg hk, if_neg hk]
    by_cases hxn : key x = key n
    · obtain rfl : x = n := List.inj_on_of_nodup_map hnodup hx hn hxn
      rw [if_pos rfl]
    · rw [if_neg hxn, if_neg hxn]

/-- R47: the records after a mark that skipped one. -/
theorem embossSkip_eq {s : State} {r : Recipe} {k n : RepeatRecord} {rest : List RepeatRecord}
    (hk : s.awaitingRecords = k :: n :: rest) (hnodup : (s.rt.queue.map RepeatRecord.seq).Nodup) :
    embossSkip (afterEmbossCapture s) r k n s.wpu.le s.wpu.ca = ercTake
      { logEvent s ⟨.embossMissed, .emboss, some k.seq, none, none, 0⟩ with
        wpu := { s.wpu with em := { s.wpu.em with last := some ⟨s.wpu.le, some s.wpu.ca⟩ } }
        rt := { s.rt with queue := s.rt.queue.map fun x =>
          if x.seq = k.seq then k.missed else if x.seq = n.seq then n.matchedBare s.wpu.le else x } }
      r n.seq s.wpu.ca := by
  have hk' : k ∈ s.rt.queue := (awaiting_mem s k _ hk).1
  have hboth : (k :: n :: rest).Sublist s.rt.queue := hk ▸ List.filter_sublist
  have hn : n ∈ s.rt.queue := hboth.subset (by simp)
  have hdistinct := hnodup.sublist (hboth.map RepeatRecord.seq)
  have hne : n.seq ≠ k.seq := by
    rw [List.map_cons, List.nodup_cons] at hdistinct
    exact fun h => hdistinct.1 (by rw [← h]; simp)
  have hqueue := map_updateBy RepeatRecord.seq RepeatRecord.missed (fun x => x.matchedBare s.wpu.le) hnodup
    (k := k) rfl hn hne
  rw [embossSkip, updateRecord_one (s := afterEmbossCapture s) _ hnodup hk', State.updateRecord]
  exact congrArg (fun q => ercTake
    { logEvent s ⟨.embossMissed, .emboss, some k.seq, none, none, 0⟩ with
      wpu := (afterEmbossCapture s).wpu
      rt := { s.rt with queue := q } } r n.seq s.wpu.ca) hqueue

/-- Settles O13: each delivery is a change of records and points, of which the ERC then takes one. -/
theorem registerControllerTakesARecord : Obligations.RegisterControllerTakesARecord := by
  refine ⟨fun run r s k rest w e hacc hrun hk hnodup hw he => ?_, fun r c e => ⟨count_acquire, count_locked⟩⟩
  subst hw he
  have hmem : k ∈ s.rt.queue := (awaiting_mem s k rest hk).1
  refine ⟨fun hmode => ⟨_, exec_emboss_seeking hacc hrun hk hmode, ?_⟩, fun p m hmode hp hm hfits => ?_,
    fun p m n rest' hmode hp hm hrest hskips => ?_⟩
  · rw [embossSeek, updateRecord_one (s := afterEmbossCapture s) _ hnodup hmem]
    exact ercTake_takes r k.seq s.wpu.ca _
  · subst hm
    refine ⟨_, exec_emboss_match hacc hrun hk hmode hp hfits, ?_⟩
    rw [embossMatch, updateRecord_one (s := afterEmbossCapture s) _ hnodup hmem, matchedIn_eq]
    exact ercTake_takes r k.seq s.wpu.ca _
  · subst hm hrest
    refine ⟨_, exec_emboss_skip hacc hrun hk hmode hp hskips, ?_⟩
    rw [embossSkip_eq hk hnodup]
    exact ercTake_takes r n.seq s.wpu.ca _

/-! ### Short marks -/

/-- Settles O14: the delivery logs the mark and answers spurious. -/
theorem shortMarksAreSpurious : Obligations.ShortMarksAreSpurious := by
  intro run r s p k m hrun
  refine ⟨fun hacc hmode hp hk hm hshort => ?_, fun hacc hmode hp hk hm hshort => ?_⟩
  · obtain ⟨rest, hawaiting⟩ := List.head?_eq_some_iff.mp hk
    subst hm
    have hd : deliverEmboss (afterEmbossCapture s) r s.wpu.em.last s.wpu.le s.wpu.ca =
        (logSpurious (afterEmbossCapture s) .emboss k.seq (s.wpu.le - p.pos).toNat, .spurious) := by
      rw [hp]
      exact deliverEmboss_short (afterEmbossCapture s) r (some p) _ _ k rest hawaiting hmode hshort
    exact (exec_emboss_spurious hacc hrun hd).trans rfl
  · obtain ⟨rest, hqueue⟩ := List.head?_eq_some_iff.mp hk
    subst hm
    have hd : deliver (s.atKnife s.rt.knife) .cm run r s.wpu.cm.last =
        (logSpurious (s.atKnife s.rt.knife) .knife k.seq (s.wpu.le - p.pos).toNat, .spurious) := by
      rw [deliver_cm _ _ _ _ hrun, hp]
      exact deliverCut_short (s.atKnife s.rt.knife) r (some p) _ k rest hqueue hmode hshort
    rw [exec_markCapture_accepted s .cm run r hacc]
    exact (congrArg _ (acceptCapture_spurious s .cm run r _ hd)).trans rfl

end Sys2Proof.Proofs
end

section
/-! PROOFS. The tracking points in LOST: at the emboss point the record is UNTRACKED and the ERC holds, at the knife point
the record is handed over. -/

namespace Sys2Proof.Proofs

open Sys2Proof Sys2Proof.Machine

/-! ### Notices -/

theorem gaining_zero (p : PortState) : p.gaining 0 = p := by
  have hraw : p.raw ||| 0 = p.raw := BitVec.or_zero
  rw [PortState.gaining, hraw]

theorem gaining_gaining (p : PortState) (a b : BitVec 8) : (p.gaining a).gaining b = p.gaining (a ||| b) := by
  simp only [PortState.gaining, BitVec.or_assoc]

theorem map_gaining_zero (ps : PerPort PortState) : (ps.map fun p => p.gaining 0) = ps := by
  simp only [gaining_zero]
  rfl

theorem get_map_gaining (ps : PerPort PortState) (bits : BitVec 8) (port : Port) :
    (ps.map fun p => p.gaining bits).get port = (ps.get port).gaining bits :=
  PerPort.get_map ps _ port

/-- R189, R190: a code of native action NOTE never touches the stop latch. -/
theorem logEvent_sc_of_note (s : State) (r : EventReport) (h : r.code.nativeAction = .note) :
    (logEvent s r).sc = s.sc := by
  have hact : s.actionOf r.code = .note := by simp only [State.actionOf, effectiveAction, h]
  simp only [logEvent, hact]
  have hlatch : (s.sc.stopLatch || Action.note == Action.stop) = s.sc.stopLatch := Bool.or_false _
  rw [hlatch]

/-! ### The ERC holds and reacquires -/

/-- R66, R73: the loss of the emboss point holds a controlling ERC. -/
theorem ercHold_eq (s : State) : ercHold s =
    { s with
      erc := if s.erc.mode = .acquire ∨ s.erc.mode = .locked then
        { s.erc with mode := .hold, lockRun := 0, lossRun := 0 } else s.erc
      ports := s.ports.map fun p => p.gaining (if s.erc.mode = .acquire ∨ s.erc.mode = .locked then noticeRegister
        else 0) } := by
  by_cases hc : s.erc.mode = .acquire ∨ s.erc.mode = .locked
  · have hhold : ercHold s = setErc s { s.erc with mode := .hold, lockRun := 0, lossRun := 0 } := by
      obtain h | h := hc <;> rw [ercHold, h]
    have hchanged : ErcMode.hold ≠ s.erc.mode := by
      obtain h | h := hc <;> rw [h] <;> decide
    rw [hhold, if_pos hc, if_pos hc, setErc]
    exact if_neg hchanged
  · have hkept : ercHold s = s := by
      cases h : s.erc.mode with
      | acquire => exact absurd (.inl h) hc
      | locked => exact absurd (.inr h) hc
      | off => rw [ercHold, h]
      | hold => rw [ercHold, h]
    rw [hkept, if_neg hc, if_neg hc, map_gaining_zero]

/-- R67, R73: the return of the emboss point takes an ERC out of HOLD. -/
theorem ercReacquire_eq (s : State) : ercReacquire s =
    { s with
      erc := if s.erc.mode = .hold then { s.erc with mode := .acquire, lockRun := 0 } else s.erc
      ports := s.ports.map fun p => p.gaining (if s.erc.mode = .hold then noticeRegister else 0) } := by
  by_cases hc : s.erc.mode = .hold
  · have hback : ercReacquire s = setErc s { s.erc with mode := .acquire, lockRun := 0 } := by rw [ercReacquire, hc]
    have hchanged : ErcMode.acquire ≠ s.erc.mode := by rw [hc]; decide
    rw [hback, if_pos hc, if_pos hc, setErc]
    exact if_neg hchanged
  · have hkept : ercReacquire s = s := by
      cases h : s.erc.mode with
      | hold => exact absurd h hc
      | acquire => rw [ercReacquire, h]
      | locked => rw [ercReacquire, h]
      | off => rw [ercReacquire, h]
    rw [hkept, if_neg hc, if_neg hc, map_gaining_zero]

/-! ### The emboss point in LOST -/

theorem exec_emboss_loses {s : State} {run : RunState} {r : Recipe} {k : RepeatRecord} {rest : List RepeatRecord}
    {p : Capture} (h : Accepted s .em run r) (hrun : run = .running ∨ run = .draining)
    (hk : s.awaitingRecords = k :: rest) (hmode : s.rt.emboss.mode = .sync) (hp : s.wpu.em.last = some p)
    (hloses : (embossWindow r s.ps.setup k).Loses (rest.head?.map fun n => embossWindow r s.ps.setup n)
      (s.wpu.le - p.pos).toNat) :
    exec (.markCapture .em) s = .next (embossLose (afterEmbossCapture s) k s.wpu.le (s.wpu.le - p.pos).toNat) := by
  refine exec_emboss_taken h hrun ?_
  rw [hp]
  exact deliverEmboss_loses (afterEmbossCapture s) r (some p) _ _ k rest hk hmode hloses

theorem exec_emboss_lost {s : State} {run : RunState} {r : Recipe} {k : RepeatRecord} {rest : List RepeatRecord}
    {p : Capture} (h : Accepted s .em run r) (hrun : run = .running ∨ run = .draining)
    (hk : s.awaitingRecords = k :: rest) (hmode : s.rt.emboss.mode = .lost) (hp : s.wpu.em.last = some p) :
    exec (.markCapture .em) s = .next (embossLost (afterEmbossCapture s) k s.wpu.le
      ((embossWindow r s.ps.setup k).fits (s.wpu.le - p.pos).toNat)) := by
  refine exec_emboss_taken h hrun ?_
  rw [hp]
  exact deliverEmboss_lost (afterEmbossCapture s) r (some p) _ _ k rest hk hmode

/-- The records after the mark in or into LOST: the oldest AWAITING one is UNTRACKED. -/
theorem untracked_queue {s : State} {k : RepeatRecord} {rest : List RepeatRecord} (hk : s.awaitingRecords = k :: rest)
    (hnodup : (s.rt.queue.map RepeatRecord.seq).Nodup) (c : Word) :
    updateBy RepeatRecord.seq k.seq (fun x => x.untracked c) s.rt.queue =
      s.rt.queue.map fun x => if x.seq = k.seq then k.untracked c else x :=
  updateBy_eq_map RepeatRecord.seq s.rt.queue k _ hnodup (awaiting_mem s k rest hk).1

theorem trackingLostAtEmboss {s : State} {run : RunState} {r : Recipe} {k : RepeatRecord} {rest : List RepeatRecord}
    {p : Capture} {m : Nat} (hacc : Accepted s .em run r) (hrun : run = .running ∨ run = .draining)
    (hp : s.wpu.em.last = some p) (hm : m = (s.wpu.le - p.pos).toNat) (hk : s.awaitingRecords = k :: rest)
    (hnodup : (s.rt.queue.map RepeatRecord.seq).Nodup) (hmode : s.rt.emboss.mode = .sync)
    (hloses : (embossWindow r s.ps.setup k).Loses (rest.head?.map fun n => embossWindow r s.ps.setup n) m) :
    ∃ t, exec (.markCapture .em) s = .next t ∧ t.rt.emboss = ⟨.lost, 0⟩ ∧ t.rt.knife = s.rt.knife ∧
      t.rt.queue = (s.rt.queue.map fun x => if x.seq = k.seq then k.untracked s.wpu.le else x) ∧
      t.events = (logEvent s ⟨.trackLost, .emboss, some k.seq, none, none, extraNat m⟩).events ∧
      t.erc = (if s.erc.mode = .acquire ∨ s.erc.mode = .locked then
        { s.erc with mode := .hold, lockRun := 0, lossRun := 0 } else s.erc) ∧
      t.wpu = { s.wpu with em := { s.wpu.em with last := some ⟨s.wpu.le, some s.wpu.ca⟩ } } ∧
      t.sc = (logEvent s ⟨.trackLost, .emboss, some k.seq, none, none, extraNat m⟩).sc ∧
      (∀ port, t.ports.get port = (s.ports.get port).gaining (noticeEvent |||
        if s.erc.mode = .acquire ∨ s.erc.mode = .locked then noticeRegister else 0)) ∧
      t.batches = s.batches ∧ t.rb = s.rb ∧ t.ks = s.ks ∧ t.ld = s.ld ∧ t.ps = s.ps := by
  subst hm
  refine ⟨_, exec_emboss_loses hacc hrun hk hmode hp hloses, ?_⟩
  rw [embossLose, ercHold_eq]
  refine ⟨rfl, rfl, untracked_queue hk hnodup s.wpu.le, rfl, rfl, rfl, rfl, fun port => ?_, rfl, rfl, rfl, rfl, rfl⟩
  refine (get_map_gaining _ _ port).trans ?_
  have hlogged : ((logTrackLost (afterEmbossCapture s) .emboss k.seq (s.wpu.le - p.pos).toNat).putEmboss ⟨.lost, 0⟩).ports.get
      port = (s.ports.get port).gaining noticeEvent := PerPort.get_map s.ports _ port
  rw [hlogged, gaining_gaining]
  rfl

theorem trackingFollowedAtEmboss {s : State} {run : RunState} {r : Recipe} {k : RepeatRecord}
    {rest : List RepeatRecord} {p : Capture} {m : Nat} {q : TrackPoint} (hacc : Accepted s .em run r)
    (hrun : run = .running ∨ run = .draining) (hp : s.wpu.em.last = some p) (hm : m = (s.wpu.le - p.pos).toNat)
    (hk : s.awaitingRecords = k :: rest) (hnodup : (s.rt.queue.map RepeatRecord.seq).Nodup)
    (hmode : s.rt.emboss.mode = .lost)
    (hfollows : s.rt.emboss.Follows q ((embossWindow r s.ps.setup k).Contains m)) :
    ∃ t, exec (.markCapture .em) s = .next t ∧ t.rt.emboss = q ∧ t.rt.knife = s.rt.knife ∧
      t.rt.queue = (s.rt.queue.map fun x => if x.seq = k.seq then k.untracked s.wpu.le else x) ∧
      t.events = (if q.mode = .sync then
        (logEvent s ⟨.trackRegained, .emboss, some k.seq, none, none, 0⟩).events else s.events) ∧
      t.erc = (if q.mode = .sync ∧ s.erc.mode = .hold then { s.erc with mode := .acquire, lockRun := 0 } else s.erc) ∧
      t.wpu = { s.wpu with em := { s.wpu.em with last := some ⟨s.wpu.le, some s.wpu.ca⟩ } } ∧ t.sc = s.sc ∧
      (∀ port, t.ports.get port = (s.ports.get port).gaining (if q.mode = .sync then
        noticeEvent ||| (if s.erc.mode = .hold then noticeRegister else 0) else 0)) ∧
      t.batches = s.batches ∧ t.rb = s.rb ∧ t.ks = s.ks ∧ t.ld = s.ld ∧ t.ps = s.ps := by
  subst hm
  refine ⟨_, exec_emboss_lost hacc hrun hk hmode hp, ?_⟩
  have hafter : s.rt.emboss.afterLost ((embossWindow r s.ps.setup k).fits (s.wpu.le - p.pos).toNat) =
      (q, q.mode == .sync) := afterLost_follows _ _ _ (by rw [Window.fits_iff]; exact hfollows)
  have hsame : ((afterEmbossCapture s).rt.emboss.afterLost
      ((embossWindow r s.ps.setup k).fits (s.wpu.le - p.pos).toNat)) = (q, q.mode == .sync) := hafter
  rw [embossLost]
  dsimp only
  rw [hsame]
  by_cases hq : q.mode = .sync
  · simp only [hq, beq_self_eq_true, if_true, true_and]
    rw [ercReacquire_eq]
    refine ⟨rfl, rfl, untracked_queue hk hnodup s.wpu.le, rfl, rfl, rfl, logEvent_sc_of_note _ _ rfl, fun port => ?_,
      rfl, rfl, rfl, rfl, rfl⟩
    refine (get_map_gaining _ _ port).trans ?_
    have hlogged : (logRegained (((afterEmbossCapture s).updateRecord k.seq fun x => x.untracked s.wpu.le).putEmboss q)
        .emboss k.seq).ports.get port = (s.ports.get port).gaining noticeEvent := PerPort.get_map s.ports _ port
    rw [hlogged, gaining_gaining]
    rfl
  · have hb : (q.mode == .sync) = false := beq_eq_false_iff_ne.mpr hq
    simp only [hq, hb, Bool.false_eq_true, if_false, false_and]
    exact ⟨rfl, rfl, untracked_queue hk hnodup s.wpu.le, rfl, rfl, rfl, rfl, fun port => (gaining_zero _).symm,
      rfl, rfl, rfl, rfl, rfl⟩

/-! ### The knife point in LOST -/

/-- A hand-over asks nothing of the mark that the point was lost. -/
theorem wasted_untracked (u : State) (r : Recipe) (k : RepeatRecord) (c : Word) :
    u.wasted r { k with untrackedAtKnife := true } c = u.wasted r k c := rfl

theorem wasted_knifeMissed (u : State) (r : Recipe) (k : RepeatRecord) (c : Word) :
    u.wasted r { k with knifeMissed := true } c = u.wasted r k c := rfl

theorem wasted_buildsNone (u : State) (r : Recipe) (k : RepeatRecord) (c : Word) : (u.wasted r k c).BuildsNone := by
  have hsegment : (u.wasted r k c).rb.segment = .waste := by
    rw [State.wasted, (freeTestOf_frame _ _).2.2.1]
  intro n
  rw [hsegment]
  exact Segment.noConfusion

/-- R122: with no roll building there is none to fault. -/
theorem trackFaulted_none {u : State} (h : u.BuildsNone) : u.trackFaulted = u := by
  have hsegment : ∀ n, u.rb.segment ≠ .roll n := h
  simp only [State.trackFaulted, hsegment, if_false, List.map_id']

/-- R122: the BUILDING roll is the one faulted. -/
theorem trackFaulted_eq {u : State} {x : Roll} (h : u.Builds x) :
    u.trackFaulted = { u with rb := { u.rb with rolls := replaced u.rb.rolls x.serial x.faulted } } := by
  have hrolls : (u.rb.rolls.map fun y => if u.rb.segment = .roll y.serial then y.faulted else y) =
      replaced u.rb.rolls x.serial x.faulted := by
    refine List.map_congr_left fun y hy => ?_
    by_cases hs : y.serial = x.serial
    · obtain rfl : y = x := List.inj_on_of_nodup_map h.2.2.2 hy (Builds.mem h) hs
      rw [if_pos h.1, if_pos rfl]
    · have hother : u.rb.segment ≠ .roll y.serial := fun hseg => hs (by
        rw [h.1] at hseg
        exact (Segment.roll.inj hseg).symm)
      rw [if_neg hother, if_neg hs]
  rw [State.trackFaulted, hrolls]

theorem trackFaulted_builds {u : State} {x : Roll} (h : u.Builds x) : u.trackFaulted.Builds x.faulted := by
  rw [trackFaulted_eq h]
  exact builds_replaced h rfl h.2.2.1 rfl rfl

/-- The close of the faulted roll, over the table as it was before the fault. -/
theorem closed_trackFaulted {u : State} {x : Roll} (h : u.Builds x) (r : Recipe) (k : RepeatRecord) (c pos : Word) :
    u.trackFaulted.closed r { k with untrackedAtKnife := true } c x.faulted pos = u.closed r k c x.faulted pos := by
  have hrolls : ∀ z : Roll, (replaced u.rb.rolls x.serial x.faulted).map (fun y => if y.serial = x.serial then z else y) =
      u.rb.rolls.map fun y => if y.serial = x.serial then z else y := fun z => by
    rw [replaced, List.map_map]
    refine List.map_congr_left fun y _ => ?_
    dsimp only [Function.comp_apply]
    by_cases hs : y.serial = x.serial
    · rw [if_pos hs, if_pos hs, if_pos (show x.faulted.serial = x.serial from rfl)]
    · rw [if_neg hs, if_neg hs]
  rw [trackFaulted_eq h]
  unfold State.closed
  rw [handed_rb_put, handed_rb]
  dsimp only
  rw [show x.faulted.serial = x.serial from rfl, hrolls]

/-- R122: the roll that the segment names is the one faulted. -/
theorem builderTrackLost_builds {u : State} {x : Roll} (h : u.Builds x) : builderTrackLost u = u.trackFaulted := by
  have hbuilding : u.buildingRoll = some x := by
    rw [State.buildingRoll, h.1]
    exact h.2.1
  rw [builderTrackLost, hbuilding]
  dsimp only
  rw [trackingFault, Builds.update h rfl, addHold_trackingFault x h.2.2.1, trackFaulted_eq h]
  rfl

theorem exec_cut_losesTo {s u v : State} {r : Recipe} {k : RepeatRecord} {rest : List RepeatRecord} {p : Capture}
    {m : Nat} (hacc : Accepted s .cm .running r ∨ Accepted s .cm .draining r) (hq : s.rt.queue = k :: rest)
    (hstray : NoStrayReach s) (hp : s.wpu.cm.last = some p) (hm : m = (s.wpu.le - p.pos).toNat)
    (hmode : s.rt.knife.mode = .sync)
    (hloses : Window.Loses ⟨k.creditedLen r, s.ps.setup.cTol⟩
      (rest.head?.map fun n => ⟨n.creditedLen r, s.ps.setup.cTol⟩) m)
    (hu : u = (logEvent s ⟨.trackLost, .knife, some k.seq, none, none, extraNat m⟩).atKnife ⟨.lost, 0⟩)
    (h : HandsOver r u.trackFaulted { k with untrackedAtKnife := true } s.wpu.le v) :
    exec (.markCapture .cm) s = .next v.settled := by
  have hstrayU : NoStrayReach u.trackFaulted := by
    subst hu
    exact hstray
  obtain ⟨hv, hstrayV⟩ := handOver_handsOver h hstrayU
  refine exec_cut_loses s v r k rest p m hacc hq hmode hp hm hloses ?_ hstrayV
  rw [← hu, builderTrackLost_faulted h, hv]

/-- R48, R51, R122: the knife point enters LOST. -/
theorem trackingLostAtKnife {r : Recipe} {s u : State} {p : Capture} {k : RepeatRecord} {rest : List RepeatRecord}
    {m : Nat} (hacc : Accepted s .cm .running r ∨ Accepted s .cm .draining r) (hq : s.rt.queue = k :: rest)
    (hk : k.knifeMissed = false) (hstray : NoStrayReach s) (hp : s.wpu.cm.last = some p)
    (hm : m = (s.wpu.le - p.pos).toNat) (hmode : s.rt.knife.mode = .sync)
    (hloses : Window.Loses ⟨k.creditedLen r, s.ps.setup.cTol⟩
      (rest.head?.map fun n => ⟨n.creditedLen r, s.ps.setup.cTol⟩) m)
    (hu : u = (logEvent s ⟨.trackLost, .knife, some k.seq, none, none, extraNat m⟩).atKnife ⟨.lost, 0⟩) :
    (s.BuildsNone → exec (.markCapture .cm) s = .next (u.wasted r k s.wpu.le).settled) ∧
    (∀ x q, s.Builds x →
      s.ks.Queues ⟨r.fireAt s.wpu.le (k.creditedLen r) x.phase, .ends x.serial, .waste, false⟩ q →
      exec (.markCapture .cm) s = .next (freeTestOf ((u.closed r k s.wpu.le x.faulted q.pos).placed q) k.shade).settled) ∧
    (∀ v, HandsOver r u.trackFaulted { k with untrackedAtKnife := true } s.wpu.le v →
      exec (.markCapture .cm) s = .next v.settled) := by
  have hany : ∀ v, HandsOver r u.trackFaulted { k with untrackedAtKnife := true } s.wpu.le v →
      exec (.markCapture .cm) s = .next v.settled :=
    fun v h => exec_cut_losesTo hacc hq hstray hp hm hmode hloses hu h
  refine ⟨fun hnone => ?_, fun x q hx hqueues => ?_, hany⟩
  · have hnoneU : u.BuildsNone := by
      subst hu
      exact hnone
    have hfaulted := trackFaulted_none hnoneU
    rw [← wasted_untracked]
    refine hany _ ?_
    rw [hfaulted]
    exact .wasted hnoneU (.inl (untracked_bad k))
  · have hxU : u.Builds x := by
      subst hu
      exact hx
    have hqueuesU : u.ks.Queues ⟨r.fireAt s.wpu.le (k.creditedLen r) x.phase, .ends x.serial, .waste, false⟩ q := by
      subst hu
      exact hqueues
    have hstrayU : NoStrayReach u := by
      subst hu
      exact hstray
    have hcloses : ClosesAt r { k with untrackedAtKnife := true } x.faulted := .inr ⟨hk, .inl (untracked_bad k)⟩
    have hcloses' := handOver_closed u.trackFaulted r { k with untrackedAtKnife := true } s.wpu.le x.faulted q
      (trackFaulted_builds hxU) hcloses (.inr (.inl (untracked_bad k))) (noStray_of hstrayU rfl rfl) hqueuesU
    have hclosing : closing { k with untrackedAtKnife := true } x.faulted = x.faulted := by
      rw [closing]
      exact if_neg (by rw [hk]; exact Bool.false_ne_true)
    rw [hclosing, closed_trackFaulted hxU] at hcloses'
    refine exec_cut_loses s _ r k rest p m hacc hq hmode hp hm hloses ?_ (noStray_freeTestOf _ (noStray_placed _ q))
    rw [← hu, builderTrackLost_builds hxU]
    exact hcloses'

/-- R49: a cut mark in LOST hands the record over unchecked. -/
theorem exec_cut_lostTo {r : Recipe} {s v : State} {k : RepeatRecord} {rest : List RepeatRecord} {p : Capture}
    {q : TrackPoint} (hacc : Accepted s .cm .running r ∨ Accepted s .cm .draining r) (hq : s.rt.queue = k :: rest)
    (hstray : NoStrayReach s) (hp : s.wpu.cm.last = some p) (hmode : s.rt.knife.mode = .lost)
    (hfollows : s.rt.knife.Follows q (Window.Contains ⟨k.creditedLen r, s.ps.setup.cTol⟩ (s.wpu.le - p.pos).toNat))
    (h : HandsOver r (s.atKnife q) { k with untrackedAtKnife := true } s.wpu.le v) :
    exec (.markCapture .cm) s = .next (if q.mode = .sync then
      logEvent v.settled ⟨.trackRegained, .knife, some k.seq, none, none, 0⟩ else v.settled) := by
  have hstrayU : NoStrayReach (s.atKnife q) := hstray
  obtain ⟨hv, hstrayV⟩ := handOver_handsOver h hstrayU
  exact exec_cut_lost s v r k rest p q hacc hq hmode hp hfollows hv hstrayV

/-- R47, R55: a cut mark that fits one skipped record hands both over. -/
theorem exec_cut_skipsTo {r : Recipe} {s u v w : State} {k n : RepeatRecord} {rest : List RepeatRecord} {p : Capture}
    {c : Word} (hacc : Accepted s .cm .running r ∨ Accepted s .cm .draining r) (hq : s.rt.queue = k :: n :: rest)
    (hstray : NoStrayReach s) (hmode : s.rt.knife.mode = .sync) (hp : s.wpu.cm.last = some p)
    (hskips : Window.Skips ⟨k.creditedLen r, s.ps.setup.cTol⟩ ⟨n.creditedLen r, s.ps.setup.cTol⟩
      (s.wpu.le - p.pos).toNat)
    (hc : c = s.wpu.le - BitVec.ofNat 32 (n.creditedLen r))
    (hu : u = (logEvent s ⟨.knifeMissed, .knife, some k.seq, none, none, 0⟩).atKnife s.rt.knife)
    (hfirst : HandsOver r u { k with knifeMissed := true } c v) (hsecond : HandsOver r v n s.wpu.le w) :
    exec (.markCapture .cm) s = .next w.settled := by
  subst hc
  have hstrayU : NoStrayReach u := by
    subst hu
    exact hstray
  obtain ⟨hv, hstrayV⟩ := handOver_handsOver hfirst hstrayU
  obtain ⟨hw, hstrayW⟩ := handOver_handsOver hsecond hstrayV
  refine exec_cut_skips s w r k n rest p hacc hq hmode hp hskips ?_ hstrayW
  rw [← hu, hv, hw]

/-- Settles O15: the emboss point in and into LOST, the knife point in and into LOST, and the skip at the knife point. -/
theorem trackingPointsAreLostAndRegained : Obligations.TrackingPointsAreLostAndRegained := by
  refine ⟨fun run r s p k rest m w hacc hrun hp hm hw hnodup hk => ?_,
    fun r s u p k rest m w hacc hq hk hstray hp hm hw => ?_⟩
  · subst hw
    exact ⟨trackingLostAtEmboss hacc hrun hp hm hk hnodup, fun q => trackingFollowedAtEmboss hacc hrun hp hm hk hnodup⟩
  · subst hw
    subst hm
    refine ⟨trackingLostAtKnife hacc hq hk hstray hp rfl, fun q hmode hfollows hnone hu => ?_,
      fun q v hmode hfollows h => ?_, fun n rest' v hmode hrest hskips hnone hu hv => ?_⟩
    · rw [hu]
      exact exec_cut_lostTo hacc hq hstray hp hmode hfollows (.wasted hnone (.inl (untracked_bad k)))
    · exact exec_cut_lostTo hacc hq hstray hp hmode hfollows h
    · subst hrest
      have hnoneU : u.BuildsNone := by
        subst hu
        exact hnone
      have hfirst : HandsOver r u { k with knifeMissed := true } (s.wpu.le - BitVec.ofNat 32 (n.creditedLen r)) v := by
        rw [hv, ← wasted_knifeMissed]
        exact .wasted hnoneU (.inr rfl)
      have hany : ∀ z, HandsOver r v n s.wpu.le z → exec (.markCapture .cm) s = .next z.settled :=
        fun z h => exec_cut_skipsTo hacc hq hstray hmode hp hskips rfl hu hfirst h
      refine ⟨fun hbad => hany _ (.wasted ?_ (.inl hbad)), hany⟩
      rw [hv]
      exact wasted_buildsNone u r k _

end Sys2Proof.Proofs
end

section
/-! PROOFS. Cut marks that are matched: every decision of the RB on the record handed over, and what a refused END cut
leaves. -/

namespace Sys2Proof.Proofs

open Sys2Proof Sys2Proof.Machine

/-! ### A matched cut mark -/

/-- The state in which a matched cut mark hands its record over. -/
def matchedKnife (s : State) : State := s.atKnife ⟨.sync, s.rt.knife.regain⟩

section
variable {s : State} {r : Recipe} {k : RepeatRecord}

theorem matched_stray (h : MatchedAtKnife s r k) : NoStrayReach (matchedKnife s) := h.2.2.2.1

theorem matched_notMissed (h : MatchedAtKnife s r k) : k.knifeMissed = false := h.2.2.1

theorem exec_cut_matchedTo {v : State} (h : MatchedAtKnife s r k) (hv : HandsOver r (matchedKnife s) k s.wpu.le v) :
    exec (.markCapture .cm) s = .next v.settled := by
  obtain ⟨heq, hstray⟩ := handOver_handsOver hv (matched_stray h)
  exact exec_cut_matched s v r k h heq hstray

theorem exec_cut_matchedPlaced {v : State} {q : Cut} {b : ShadeVerdict} (h : MatchedAtKnife s r k)
    (hv : handOver (matchedKnife s) r k s.wpu.le = freeTestOf (v.placed q) b) :
    exec (.markCapture .cm) s = .next (freeTestOf (v.placed q) b).settled :=
  exec_cut_matched s _ r k h hv (noStray_freeTestOf b (noStray_placed v q))

/-- A record that the knife did not miss closes a roll as it is. -/
theorem closing_notMissed {x : Roll} (h : k.knifeMissed = false) : closing k x = x := by
  rw [closing]
  exact if_neg (by rw [h]; exact Bool.false_ne_true)

/-! ### Starts -/

/-- Settles O20: one hand-over for each decision, and one of the decisions always applies. -/
theorem cutMarkStartsARoll : Obligations.CutMarkStartsARoll := by
  intro r s u k h hu
  subst hu
  have hk := matched_notMissed h
  refine ⟨fun code c hs => ⟨fun q hn hq => ?_, fun x q v hx hcl hl hv hp hq => ?_,
    fun x q p v w hx hcl hl hv hp hq hw hq2 => ?_⟩, fun ev he => ⟨fun v hn hv => ?_, fun x q hx hcl hl hq => ?_⟩,
    fun v hv => exec_cut_matchedTo h hv, fun n hb hn hle hserials => ?_⟩
  · exact exec_cut_matchedPlaced h (handOver_starts (matchedKnife s) r k _ code c q hn hs hk (matched_stray h) hq)
  · subst hv
    exact exec_cut_matchedPlaced h
      (handOver_endStart (matchedKnife s) r k _ x code c q hx hcl hl hs hk (matched_stray h) hp hq)
  · subst hv
    exact exec_cut_matchedPlaced h
      (handOver_endThenStart (matchedKnife s) r k _ x code c q p _ w hx hcl hl hs hk (matched_stray h) rfl hp hq hw hq2)
  · subst hv
    exact exec_cut_matchedTo h (.refused ev _ hn hk he rfl)
  · exact exec_cut_matchedPlaced h
      (handOver_closedRefused (matchedKnife s) r k _ x ev q hx hcl hl he hk (matched_stray h) hq)
  · exact handsOver_total r (matchedKnife s) k _ n hb hn hle hserials

/-! ### Folds -/

theorem folded_ks (u : State) (r : Recipe) (k : RepeatRecord) (c : Word) (x : Roll) : (u.folded r k c x).ks = u.ks := by
  rw [State.folded, (freeTestOf_frame _ _).2.2.2.1]
  exact (handed_keeps u r k c).1

/-- Firing and placing a cut leave the segment. -/
theorem placed_segment (u : State) (q : Cut) : (u.placed q).rb.segment = u.rb.segment := by
  unfold State.placed
  split_ifs <;> rfl

/-- R121: after a close no roll is building. -/
theorem closed_buildsNone (u : State) (r : Recipe) (k : RepeatRecord) (c : Word) (x : Roll) (q : Cut) (b : ShadeVerdict) :
    (freeTestOf ((u.closed r k c x q.pos).placed q) b).BuildsNone := by
  have hsegment : (freeTestOf ((u.closed r k c x q.pos).placed q) b).rb.segment =
      (u.closed r k c x q.pos).rb.segment := by
    rw [(freeTestOf_frame _ _).2.2.1, placed_segment]
  intro n
  rw [hsegment]
  dsimp only [State.closed]
  split_ifs <;> exact Segment.noConfusion

/-- Settles O19: a matched record is folded; at a skip the first record is folded or closes the roll, and the second is
handed over to what is left. -/
theorem cutMarksFoldRecordsIntoTheRoll : Obligations.CutMarksFoldRecordsIntoTheRoll := by
  refine ⟨fun r s k x h hx hl hg hb => ?_, fun r s u p k n rest m x c hacc hq hn hstray hmode hp hm hskips hc hx hu => ?_,
    fun r s u v w p k n rest c hacc hq hstray hmode hp hskips hc hu hfirst hsecond =>
      exec_cut_skipsTo hacc hq hstray hmode hp hskips hc hu hfirst hsecond⟩
  · exact exec_cut_matchedTo (k := k) h (.folds x hx hl (matched_notMissed h) hg hb)
  subst hm
  have hstrayU : NoStrayReach u := by
    subst hu
    exact hstray
  have hxU : u.Builds x := by
    subst hu
    exact hx
  have hks : u.ks = s.ks := by
    subst hu
    rfl
  refine ⟨fun y hlen hy => ?_, fun q hlen hbad hqueues => ?_⟩
  · have hfirst : HandsOver r u { k with knifeMissed := true } c (u.folded r k c y) := by
      subst hy
      exact .foldsMissed x hxU hlen rfl
    have hbuilds : (u.folded r k c y).Builds y := by
      subst hy
      exact folded_builds r k c hxU rfl hxU.2.2.1
    refine ⟨fun hlen' hg hb => ?_, fun q hcl ht hqueues => ?_⟩
    · subst hy
      exact exec_cut_skipsTo hacc hq hstray hmode hp hskips hc hu hfirst (.folds _ hbuilds hlen' hn hg hb)
    · have hfold := (handOver_handsOver hfirst hstrayU).1
      have hsecond := handOver_closed (u.folded r k c y) r n s.wpu.le y q hbuilds hcl (ht.imp id Or.inl)
        (noStray_folded r k c y hstrayU) (by rw [folded_ks, hks]; exact hqueues)
      rw [closing_notMissed hn] at hsecond
      subst hc
      refine exec_cut_skips s _ r k n rest p hacc hq hmode hp hskips ?_ (noStray_freeTestOf _ (noStray_placed _ q))
      rw [← hu, hfold, hsecond]
  · have hfirst := handOver_closed u r { k with knifeMissed := true } c x q hxU (.inl hlen) (.inr (.inr rfl)) hstrayU
      (by rw [hks]; exact hqueues)
    have hwasted := handOver_wasted (freeTestOf ((u.closed r k c x.faulted q.pos).placed q) k.shade) r n s.wpu.le
      (closed_buildsNone u r k c _ q _) (.inl hbad)
    subst hc
    refine exec_cut_skips s _ r k n rest p hacc hq hmode hp hskips ?_
      (noStray_wasted r n _ (noStray_freeTestOf _ (noStray_placed _ q)))
    rw [← hu, hfirst]
    exact hwasted

end

end Sys2Proof.Proofs
end

section
/-! PROOFS. A cut that fails, written out: the ENDING roll becomes HELD or, a REMNANT, leaves the table. -/

namespace Sys2Proof.Proofs

open Sys2Proof Sys2Proof.Machine

/-! ### Events -/

/-- What an entry is made of: LE, the setup in force and the table before. -/
theorem logEvent_events_congr {s t : State} (e : EventReport) (hevents : t.events = s.events) (hle : t.wpu.le = s.wpu.le)
    (hps : t.ps = s.ps) : (logEvent t e).events = (logEvent s e).events := by
  have haction : t.actionOf e.code = s.actionOf e.code := by rw [State.actionOf, hps, State.actionOf]
  have hentry : t.entryOf e = s.entryOf e := by rw [State.entryOf, haction, hevents, hle, State.entryOf]
  simp only [logEvent, hentry, haction, hevents]

/-! ### A cut that fails -/

section
variable {s : State} {c : Cut} {n : Nat} {z : Roll}

/-- The state after the roll of a failed cut became HELD. -/
def heldAfterFailure (s : State) (c : Cut) (ev : EventReport) (n : Nat) : State :=
  let v : State := (logEvent s ev).cutFaulted c
  { v with
    rb := { v.rb with rolls := v.rb.rolls.map fun y => if y.serial = n then { y with state := .held } else y }
    ports := s.ports.map fun q => q.gaining (noticeEvent ||| noticeHeld ||| noticeCut) }

/-- R143 step 2: a FULL or SHORT roll is HELD. -/
theorem cutFailed_held (ev : EventReport) (e : BitVec 16) (hc : c.kind.ending = some n)
    (hz : (s.cutFaulted c).findRoll n = some z) (hstate : z.state = .ending) (hcls : z.cls ≠ some .remnant) :
    s.cutFailed c ev e = heldAfterFailure s c ev n := by
  have hfind : ((logEvent s ev).cutFaulted c).findRoll n = some z := hz
  have hserial : z.serial = n := (findBy_mem _ _ _ _ hz).2
  have hports : ((s.ports.map fun p => p.raise noticeEvent).map fun q => q.raise noticeHeld).map
      (fun q => q.raise noticeCut) = s.ports.map fun q => q.gaining (noticeEvent ||| noticeHeld ||| noticeCut) := by
    simp only [PerPort.map, PortState.raise, PortState.gaining, BitVec.or_assoc]
  have hfailed : ((logEvent s ev).cutFaulted c).endFailed z e = { (logEvent s ev).cutFaulted c with
      rb := { ((logEvent s ev).cutFaulted c).rb with
        rolls := ((logEvent s ev).cutFaulted c).rb.rolls.map fun y =>
          if y.serial = n then { y with state := .held } else y }
      ports := ((logEvent s ev).cutFaulted c).ports.map fun q => q.raise noticeHeld } := by
    rw [State.endFailed, if_neg hcls, hserial]
  rw [State.cutFailed, hc]
  dsimp only [Option.bind_some]
  rw [hfind]
  dsimp only
  rw [if_pos hstate, hfailed, heldAfterFailure]
  dsimp only
  rw [← hports]
  rfl

/-- The state in which a REMNANT that leaves the table is announced. -/
def withoutRemnant (s : State) (c : Cut) (ev : EventReport) (z : Roll) : State :=
  let v : State := (logEvent s ev).cutFaulted c
  freeTestOf
    { v with
      rb := { v.rb with rolls := v.rb.rolls.filter fun y => decide (y.serial ≠ z.serial) }
      batches := v.batches.map fun b => if b.code = z.batch then { b with rolls := b.rolls - 1 } else b }
    (.batch z.batch)

/-- R143 step 2: a REMNANT leaves the table. -/
theorem cutFailed_remnant (ev : EventReport) (e : BitVec 16) (hc : c.kind.ending = some n)
    (hz : (s.cutFaulted c).findRoll n = some z) (hstate : z.state = .ending) (hcls : z.cls = some .remnant) :
    s.cutFailed c ev e = (logEvent (withoutRemnant s c ev z)
      ⟨.remnantCut, .knife, some z.lastSeq, some z.serial, some z.batch, e⟩).raiseAll noticeCut := by
  have hfind : ((logEvent s ev).cutFaulted c).findRoll n = some z := hz
  rw [State.cutFailed, hc]
  dsimp only [Option.bind_some]
  rw [hfind]
  dsimp only
  rw [if_pos hstate, State.endFailed, if_pos hcls]
  rfl

theorem withoutRemnant_frame (s : State) (c : Cut) (ev : EventReport) (z : Roll) :
    (withoutRemnant s c ev z).rt = s.rt ∧ (withoutRemnant s c ev z).erc = s.erc ∧ (withoutRemnant s c ev z).ks = s.ks ∧
    (withoutRemnant s c ev z).ld = s.ld ∧ (withoutRemnant s c ev z).ps = s.ps ∧
    (withoutRemnant s c ev z).wpu = s.wpu ∧ (withoutRemnant s c ev z).events = (logEvent s ev).events ∧
    (withoutRemnant s c ev z).rb = { s.rb with
      rolls := (s.cutFaulted c).rb.rolls.filter fun y => decide (y.serial ≠ z.serial) } := by
  obtain ⟨hrt, herc, hrb, hks, hld, hps, hevents, -⟩ := freeTestOf_frame
    { (logEvent s ev).cutFaulted c with
      rb := { ((logEvent s ev).cutFaulted c).rb with
        rolls := ((logEvent s ev).cutFaulted c).rb.rolls.filter fun y => decide (y.serial ≠ z.serial) }
      batches := ((logEvent s ev).cutFaulted c).batches.map fun b =>
        if b.code = z.batch then { b with rolls := b.rolls - 1 } else b } (.batch z.batch)
  exact ⟨hrt, herc, hks, hld, hps, freeTestOf_reach _ _, hevents, hrb⟩

/-- R143 step 1: an END cut faults its ENDING roll alone. -/
theorem cutFaulted_ends {t : State} {l : List Roll} {y : Roll} (hc : c.kind = .ends n) (ht : t.rb.rolls = replaced l n y)
    (hy : y.serial = n) (hstate : y.state = .ending) :
    (t.cutFaulted c).rb.rolls = replaced l n { y with hold := { y.hold with cutFault := true } } := by
  dsimp only [State.cutFaulted]
  rw [ht, hc, replaced, List.map_map]
  refine List.map_congr_left fun w _ => ?_
  dsimp only [Function.comp_apply, CutKind.starting, CutKind.ending]
  by_cases hw : w.serial = n
  · rw [if_pos hw, if_pos hw]
    exact if_pos ⟨.inr (by rw [hy]), .inr hstate⟩
  · rw [if_neg hw, if_neg hw]
    refine if_neg fun h => h.1.elim nofun fun h' => hw (Option.some.inj h').symm

/-- A roll as its close leaves it. -/
def endedRoll (x : Roll) (r : Recipe) (pos : Word) : Roll :=
  { x with state := .ending, cls := some (x.closeClass r), endPos := some pos }

/-- That roll with CUT_FAULT. -/
def faultedEnd (x : Roll) (r : Recipe) (pos : Word) : Roll :=
  { endedRoll x r pos with hold := { x.hold with cutFault := true } }

theorem closed_rolls (u : State) (r : Recipe) (k : RepeatRecord) (p : Word) (x : Roll) (pos : Word) :
    (u.closed r k p x pos).rb.rolls = replaced u.rb.rolls x.serial (endedRoll x r pos) := rfl

/-- R133: the close at a position records it. -/
theorem closed_recorded {u : State} (r : Recipe) (k : RepeatRecord) (p : Word) (x : Roll) (pos : Word)
    (d : Divert) (b : Bool) :
    (u.closed r k p x pos).recorded ⟨pos, .ends x.serial, d, b⟩ = u.closed r k p x pos := by
  have hended : ∀ y : Roll, y.serial = x.serial → y.endPos = some pos →
      ({ y with endPos := if some x.serial = some y.serial then some pos else y.endPos } : Roll) = y :=
    fun y hy hpos => by rw [if_pos (by rw [hy]), ← hpos]
  have hother : ∀ y : Roll, y.serial ≠ x.serial →
      ({ y with endPos := if some x.serial = some y.serial then some pos else y.endPos } : Roll) = y :=
    fun y hy => by rw [if_neg fun h => hy (Option.some.inj h).symm]
  have hrolls : ((replaced u.rb.rolls x.serial (endedRoll x r pos)).map fun y =>
      ({ y with endPos := if some x.serial = some y.serial then some pos else y.endPos } : Roll)) =
      replaced u.rb.rolls x.serial (endedRoll x r pos) := by
    rw [replaced, List.map_map]
    refine List.map_congr_left fun y _ => ?_
    dsimp only [Function.comp_apply]
    by_cases hy : y.serial = x.serial
    · rw [if_pos hy]
      exact hended (endedRoll x r pos) rfl rfl
    · rw [if_neg hy]
      exact hother y hy
  exact congrArg (fun l : List Roll => { u.closed r k p x pos with rb := { (u.closed r k p x pos).rb with rolls := l } })
    hrolls

end

/-! ### A refused END cut -/

/-- R144: a matched record at which a roll closes while 4 cuts are queued. -/
theorem exec_cut_refusedEnd {s u v : State} {r : Recipe} {k : RepeatRecord} {x : Roll} {pos : Word}
    (h : MatchedAtKnife s r k) (hu : u = matchedKnife s) (hx : s.Builds x) (hcl : ClosesAt r k x)
    (ht : x.LeavesTrim r ∨ k.isGood = false) (hfull : 4 ≤ s.ks.queue.length)
    (hpos : pos = r.fireAt s.wpu.le (k.creditedLen r) x.phase) (hv : v = u.closed r k s.wpu.le x pos) :
    exec (.markCapture .cm) s =
      .next (freeTestOf (v.refused ⟨pos, .ends x.serial, .waste, false⟩) k.shade) := by
  subst hu
  have hk := matched_notMissed h
  have hks : v.ks = s.ks := by
    rw [hv]
    exact (handed_keeps (matchedKnife s) r k s.wpu.le).1
  have htakes : v.TakesCut ⟨pos, .ends x.serial, .waste, false⟩ (v.refused ⟨pos, .ends x.serial, .waste, false⟩) := by
    refine .inr ⟨by rw [hks]; exact hfull, ?_⟩
    rw [hv, closed_recorded]
  have hover : HandsOver r (matchedKnife s) k s.wpu.le
      (freeTestOf (v.refused ⟨pos, .ends x.serial, .waste, false⟩) k.shade) := by
    refine .closes x x pos _ hx hcl (ht.imp id Or.inl) ?_ hpos ?_
    · rw [hk]
      rfl
    · rw [← hv]
      exact htakes
  have hqueue : (freeTestOf (v.refused ⟨pos, .ends x.serial, .waste, false⟩) k.shade).ks.queue ≠ [] := by
    rw [(freeTestOf_frame _ _).2.2.2.1, (refused_keeps v _).1, hks]
    exact fun hempty => by rw [hempty] at hfull; exact absurd hfull (by decide)
  rw [exec_cut_matchedTo h hover, settled_queue _ hqueue]

/-- A refused cut leaves the points, the ERC, the store and the segment. -/
theorem refused_frame (v : State) (c : Cut) :
    (v.refused c).rt = v.rt ∧ (v.refused c).erc = v.erc ∧ (v.refused c).ps = v.ps ∧
    (v.refused c).rb.segment = v.rb.segment := by
  have hcompleted : v.refused c = completeRolls (logEvent v
      ⟨.knifeOverrun, .knife, none, c.kind.ending.or c.kind.starting, none, c.pos.setWidth 16⟩) c.kind .refused
      HoldFlags.ofCutFault := (completeRolls_failed v c _ .refused).symm
  rw [hcompleted, completeRolls_segment]
  simp

theorem handed_erc (u : State) (r : Recipe) (k : RepeatRecord) (c : Word) : (u.handed r k c).erc = u.erc := by
  unfold State.handed
  rw [(lowerQueued_frame _ _).2.1]
  dsimp only
  split_ifs <;> rfl

theorem handed_ld (u : State) (r : Recipe) (k : RepeatRecord) (c : Word) : (u.handed r k c).ld = u.ld := by
  unfold State.handed
  rw [(lowerQueued_frame _ _).2.2.2.2.1]
  dsimp only
  split_ifs <;> rfl

section
variable {v : State} {l : List Roll} {x : Roll} {r : Recipe} {pos : Word}

theorem refusedEnd_rolls (hrolls : v.rb.rolls = replaced l x.serial (endedRoll x r pos)) (d : Divert) (b : Bool) :
    (v.cutFaulted ⟨pos, .ends x.serial, d, b⟩).rb.rolls = replaced l x.serial (faultedEnd x r pos) :=
  cutFaulted_ends rfl hrolls rfl rfl

/-- The ENDING roll of a refused END cut, as the failure finds it. -/
theorem refusedEnd_find (hrolls : v.rb.rolls = replaced l x.serial (endedRoll x r pos)) (hmem : x ∈ l)
    (hnodup : (l.map Roll.serial).Nodup) (d : Divert) (b : Bool) :
    (v.cutFaulted ⟨pos, .ends x.serial, d, b⟩).findRoll x.serial =
      some (faultedEnd x r pos) :=
  find_replaced (v.cutFaulted ⟨pos, .ends x.serial, d, b⟩) l x.serial x _ (refusedEnd_rolls hrolls d b) hmem rfl
    rfl hnodup

/-- R144: a FULL or SHORT roll whose END cut is refused is HELD. -/
theorem refusedEnd_held (hrolls : v.rb.rolls = replaced l x.serial (endedRoll x r pos)) (hmem : x ∈ l)
    (hnodup : (l.map Roll.serial).Nodup) (hcls : x.closeClass r ≠ .remnant) (d : Divert) (b : Bool) {t : State}
    (ht : t = v.refused ⟨pos, .ends x.serial, d, b⟩) :
    t.ld = v.ld ∧ t.rb = { v.rb with
      rolls := replaced l x.serial { faultedEnd x r pos with state := .held } } ∧
    t.events = (logEvent v ⟨.knifeOverrun, .knife, none, some x.serial, none, pos.setWidth 16⟩).events := by
  have hne : (endedRoll x r pos).cls ≠ some .remnant := fun h => hcls (Option.some.inj h)
  have hheld := cutFailed_held (s := v) (c := ⟨pos, .ends x.serial, d, b⟩) (n := x.serial)
    ⟨.knifeOverrun, .knife, none, some x.serial, none, pos.setWidth 16⟩ 2 rfl
    (refusedEnd_find hrolls hmem hnodup d b) rfl hne
  have ht' : t = heldAfterFailure v ⟨pos, .ends x.serial, d, b⟩
      ⟨.knifeOverrun, .knife, none, some x.serial, none, pos.setWidth 16⟩ x.serial := ht.trans hheld
  subst ht'
  have hrollsHeld := update_replaced l x.serial (faultedEnd x r pos)
    (fun y => { y with state := .held }) rfl
  refine ⟨rfl, ?_, rfl⟩
  rw [← refusedEnd_rolls hrolls d b] at hrollsHeld
  exact congrArg (fun l' : List Roll => { v.rb with rolls := l' }) hrollsHeld

/-- R144: a REMNANT whose END cut is refused leaves the table. -/
theorem refusedEnd_remnant (hrolls : v.rb.rolls = replaced l x.serial (endedRoll x r pos)) (hmem : x ∈ l)
    (hnodup : (l.map Roll.serial).Nodup) (hcls : x.closeClass r = .remnant) (d : Divert) (b : Bool) {t : State}
    (ht : t = v.refused ⟨pos, .ends x.serial, d, b⟩) :
    t.ld = v.ld ∧ t.rb = { v.rb with rolls := l.filter fun y => decide (y.serial ≠ x.serial) } ∧
    t.events = (logEvent (logEvent v ⟨.knifeOverrun, .knife, none, some x.serial, none, pos.setWidth 16⟩)
      ⟨.remnantCut, .knife, some x.lastSeq, some x.serial, some x.batch, 2⟩).events := by
  have hremnant : (endedRoll x r pos).cls = some .remnant := congrArg some hcls
  have hfailed := cutFailed_remnant (s := v) (c := ⟨pos, .ends x.serial, d, b⟩) (n := x.serial)
    ⟨.knifeOverrun, .knife, none, some x.serial, none, pos.setWidth 16⟩ 2 rfl
    (refusedEnd_find hrolls hmem hnodup d b) rfl hremnant
  obtain ⟨-, -, -, hld, hps, hwpu, hevents, hrb⟩ := withoutRemnant_frame v ⟨pos, .ends x.serial, d, b⟩
    ⟨.knifeOverrun, .knife, none, some x.serial, none, pos.setWidth 16⟩
    (faultedEnd x r pos)
  have ht' := ht.trans hfailed
  subst ht'
  refine ⟨hld, hrb.trans ?_, logEvent_events_congr
    ⟨.remnantCut, .knife, some x.lastSeq, some x.serial, some x.batch, 2⟩ hevents (by rw [hwpu]; rfl) hps⟩
  rw [refusedEnd_rolls hrolls d b]
  exact congrArg (fun l' : List Roll => { v.rb with rolls := l' }) (erase_replaced l x.serial (faultedEnd x r pos) rfl)

end

/-- Settles O18: a hand-over for each clause; with 4 cuts queued, what the failed END cut does with its roll. -/
theorem cutMarkSendsABadRecordToWaste : Obligations.CutMarkSendsABadRecordToWaste := by
  intro r s u k h hu
  have hk := matched_notMissed h
  refine ⟨fun hn hbad => ?_, fun x hx hcl ht => ⟨fun q hq => ?_, fun pos v hfull hpos hv => ?_⟩⟩
  · subst hu
    exact exec_cut_matchedTo h (.wasted hn (.inl hbad))
  · have hover := handOver_closed (matchedKnife s) r k s.wpu.le x q hx hcl (ht.imp id Or.inl) (matched_stray h) hq
    rw [closing_notMissed hk] at hover
    subst hu
    exact exec_cut_matchedPlaced h hover
  · refine ⟨_, exec_cut_refusedEnd h hu hx hcl ht hfull hpos hv, ?_⟩
    have hrolls : v.rb.rolls = replaced s.rb.rolls x.serial (endedRoll x r pos) := by
      subst hv hu
      rfl
    have hbase : v.ks = s.ks ∧ v.ps = s.ps ∧ v.erc = s.erc ∧ v.ld = s.ld := by
      subst hv hu
      obtain ⟨hks, hps, -⟩ := handed_keeps (matchedKnife s) r k s.wpu.le
      exact ⟨hks, hps, handed_erc (matchedKnife s) r k s.wpu.le, handed_ld (matchedKnife s) r k s.wpu.le⟩
    obtain ⟨hks, hps, herc, hld⟩ := hbase
    obtain ⟨hrt, herc', hps', hsegment⟩ := refused_frame v ⟨pos, .ends x.serial, .waste, false⟩
    obtain ⟨ert, eerc, erb, eks, eld, eps, eevents, -⟩ :=
      freeTestOf_frame (v.refused ⟨pos, .ends x.serial, .waste, false⟩) k.shade
    rw [ert, eerc, erb, eks, eld, eps, eevents, (refused_keeps v _).1]
    refine ⟨hks, hps'.trans hps, herc'.trans herc, hrt, hsegment, fun hcls => ?_, fun hcls => ?_⟩
    · obtain ⟨h1, h2, h3⟩ := refusedEnd_held hrolls (Builds.mem hx) hx.2.2.2 hcls .waste false rfl
      exact ⟨h1.trans hld, h2, h3⟩
    · obtain ⟨h1, h2, h3⟩ := refusedEnd_remnant hrolls (Builds.mem hx) hx.2.2.2 hcls .waste false rfl
      exact ⟨h1.trans hld, h2, h3⟩

end Sys2Proof.Proofs
end

section
/-! PROOFS. The knife answers, or its wait timer expires: the outstanding cut is completed, its rolls with it, and the
head is released (R143, R147 to R150). -/

namespace Sys2Proof.Proofs

open Sys2Proof Sys2Proof.Machine

/-! ### An acknowledge -/

/-- R147: KNIFE_REQ negated and DIVERT set, the cut no longer outstanding. -/
def answeredKnife (s : State) (o : Outstanding) : KnifeSequencer :=
  { s.ks with outstanding := none, knifeReq := false, divert := o.cut.dest }

/-- R147 step 3: KNIFE recovers when the cut was on time. -/
def onTime (o : Outstanding) (t : State) : State := if o.late then t else recoverStation t .knife

theorem onTime_eq (o : Outstanding) (t : State) :
    onTime o t = { t with events := if o.late then t.events else t.events.putRef .knife false } := by
  rw [onTime]
  cases o.late <;> rfl

theorem noStray_onTime (o : Outstanding) {t : State} (h : NoStrayReach t) : NoStrayReach (onTime o t) := by
  rw [onTime_eq]
  exact h

theorem exec_knifeAck_eq {s : State} {o : Outstanding} (ho : s.ks.outstanding = some o) :
    exec .knifeAck s = .next (releaseCut
      (onTime o (completeRolls (answerCut s o) o.cut.kind .acknowledged ⟨false, false, false⟩))) := by
  rw [show exec .knifeAck s = execKnifeAck s from rfl, execKnifeAck, ho]
  rfl

/-- R143: an acknowledged START cut raises CUT and changes no roll. -/
theorem completeRolls_starts (t : State) (n : Nat) (o : CutOutcome) :
    completeRolls t (.starts n) o ⟨false, false, false⟩ = t.raiseAll noticeCut := by
  rw [completeRolls, addHold_none, addHold_none]
  rfl

/-- R143: an acknowledged END or END_START cut completes its ENDING roll and raises CUT. -/
theorem completeRolls_ending {k : CutKind} {n : Nat} (t : State) (o : CutOutcome) (hk : k.ending = some n) :
    completeRolls t k o ⟨false, false, false⟩ = (completeEnding t n o).raiseAll noticeCut := by
  rw [completeRolls, addHold_none, addHold_none, hk]

/-- Settles O21: the rolls of a START cut stand as they are. -/
theorem acknowledgeCompletesAStartCut : Obligations.AcknowledgeCompletesAStartCut := by
  intro s
  refine ⟨fun hnone => ?_, fun o n ho hkind hstray => ?_⟩
  · rw [show exec .knifeAck s = execKnifeAck s from rfl, execKnifeAck, hnone]
  · have hraised : NoStrayReach ((answerCut s o).raiseAll noticeCut) := hstray
    rw [exec_knifeAck_eq ho, hkind, completeRolls_starts, releaseCut_released _ (noStray_onTime o hraised), onTime_eq]
    rfl

/-! ### An acknowledged END cut -/

section
variable {s : State} {o : Outstanding} {n : Nat} {x : Roll}

/-- The state after the ENDING roll of the acknowledged cut was completed. -/
def endedAt (s : State) (o : Outstanding) (n : Nat) : State := completeEnding (answerCut s o) n .acknowledged

/-- The state in which the knife is released. -/
def acknowledgedAt (s : State) (o : Outstanding) (n : Nat) : State :=
  { endedAt s o n with
    ks := answeredKnife s o
    events := if o.late then (endedAt s o n).events else (endedAt s o n).events.putRef .knife false
    ports := (endedAt s o n).ports.map fun q => q.gaining noticeCut }

theorem endedAt_frame (s : State) (o : Outstanding) (n : Nat) :
    (endedAt s o n).rt = s.rt ∧ (endedAt s o n).erc = s.erc ∧ (endedAt s o n).ks = (answerCut s o).ks ∧
    (endedAt s o n).ps = s.ps ∧ (endedAt s o n).wpu = s.wpu ∧ (endedAt s o n).sc.session = s.sc.session := by
  obtain ⟨hrt, herc, hks, hps, hfixed⟩ := completeEnding_frame (answerCut s o) n .acknowledged
  exact ⟨hrt, herc, hks, hps, completeEnding_wpu _ _ _, fixedPart_session hfixed⟩

theorem exec_knifeAck_ending (ho : s.ks.outstanding = some o) (hk : o.cut.kind.ending = some n)
    (hstray : NoStrayReach s) : exec .knifeAck s = .next (acknowledgedAt s o n).released := by
  obtain ⟨-, -, hks, -, hwpu, -⟩ := endedAt_frame s o n
  have hcompleted : NoStrayReach ((endedAt s o n).raiseAll noticeCut) :=
    noStray_of (s := answerCut s o) hstray (congrArg KnifeSequencer.queue hks) (congrArg Wpu.reach hwpu)
  have hreleased := releaseCut_released _ (noStray_onTime o hcompleted)
  rw [exec_knifeAck_eq ho, completeRolls_ending _ _ hk]
  refine (congrArg Host.Outcome.next hreleased).trans ?_
  rw [onTime_eq]
  refine congrArg (fun ks' : KnifeSequencer => Host.Outcome.next (State.released
    { acknowledgedAt s o n with ks := ks' })) ?_
  exact congrArg (fun ks' : KnifeSequencer => { ks' with outstanding := none }) hks

/-- R143 step 2: what becomes of an ENDING roll. -/
theorem endedAt_eq (hx : s.findRoll n = some x) (hstate : x.state = .ending)
    (hnodup : (s.rb.rolls.map Roll.serial).Nodup) :
    endedAt s o n = if x.cls = some .remnant then removeRemnant (answerCut s o) x .acknowledged
      else if x.hold.any then
        { answerCut s o with rb := { s.rb with
            rolls := replaced s.rb.rolls n { x with state := .held } } }.raiseAll noticeHeld
      else joinOrder { answerCut s o with rb := { s.rb with
        rolls := replaced s.rb.rolls n { x with state := .closed } } } n := by
  obtain ⟨hmem, hserial⟩ := findBy_mem _ _ _ _ hx
  have hself : (answerCut s o).rb.rolls = replaced s.rb.rolls n x := by
    rw [← hserial]
    exact (replaced_self _ _ hmem hnodup).symm
  exact completeEnding_eq (answerCut s o) s.rb.rolls n x x .acknowledged hself hmem hserial hserial hnodup hstate

/-- R143: an acknowledged REMNANT. -/
theorem endedAt_remnant (hx : s.findRoll n = some x) (hstate : x.state = .ending)
    (hnodup : (s.rb.rolls.map Roll.serial).Nodup) (hcls : x.cls = some .remnant) :
    (endedAt s o n).rb = { s.rb with rolls := s.rb.rolls.filter fun y => decide (y.serial ≠ n) } ∧
    (endedAt s o n).ld = s.ld ∧
    (endedAt s o n).events = (logEvent s ⟨.remnantCut, .knife, some x.lastSeq, some n, some x.batch, 0⟩).events ∧
    (endedAt s o n).batches = freeSpent x.batch (s.batches.map fun b => if b.code = x.batch then
      { b with rolls := b.rolls - 1 } else b) ∧
    ∀ q, (endedAt s o n).ports.get q = (s.ports.get q).gaining
      ((if (endedAt s o n).batches.length < s.batches.length then noticeBatch else 0) ||| noticeEvent) := by
  obtain ⟨hmem, hserial⟩ := findBy_mem _ _ _ _ hx
  have hself : (answerCut s o).rb.rolls = replaced s.rb.rolls n x := by
    rw [← hserial]
    exact (replaced_self _ _ hmem hnodup).symm
  obtain ⟨hrb, hevents, -⟩ := removeRemnant_facts (answerCut s o) s.rb.rolls n x .acknowledged hself hserial
  have hbatches : (removeRemnant (answerCut s o) x .acknowledged).batches = _ := dropRoll_batches (answerCut s o) x
  rw [endedAt_eq hx hstate hnodup, if_pos hcls]
  refine ⟨hrb, (removeRemnant_frame _ _ _).2.2.2.1, hevents, hbatches, fun q => ?_⟩
  have hports : (removeRemnant (answerCut s o) x .acknowledged).ports.get q =
      ((dropRoll (answerCut s o) x).ports.get q).gaining noticeEvent := get_map_gaining _ _ q
  rw [hports, dropRoll_ports, gaining_gaining]
  rfl

/-- R143, R168: an acknowledged roll that carries a hold flag. -/
theorem endedAt_held (hx : s.findRoll n = some x) (hstate : x.state = .ending)
    (hnodup : (s.rb.rolls.map Roll.serial).Nodup) (hcls : x.cls ≠ some .remnant) (hhold : x.hold.any = true) :
    (endedAt s o n).rb = { s.rb with rolls := replaced s.rb.rolls n { x with state := .held } } ∧
    (endedAt s o n).events = s.events ∧ (endedAt s o n).batches = s.batches ∧ (endedAt s o n).ld = s.ld ∧
    ∀ q, (endedAt s o n).ports.get q = (s.ports.get q).gaining noticeHeld := by
  rw [endedAt_eq hx hstate hnodup, if_neg hcls, if_pos hhold]
  exact ⟨rfl, rfl, rfl, rfl, get_map_gaining s.ports _⟩

/-- R143, R155: an acknowledged roll without one. -/
theorem endedAt_closed (hx : s.findRoll n = some x) (hstate : x.state = .ending)
    (hnodup : (s.rb.rolls.map Roll.serial).Nodup) (hcls : x.cls ≠ some .remnant) (hhold : x.hold.any = false) :
    (endedAt s o n).rb = { s.rb with rolls := replaced s.rb.rolls n { x with state := .closed } } ∧
    (endedAt s o n).events = s.events ∧ (endedAt s o n).batches = s.batches ∧
    (endedAt s o n).ld.order = s.ld.order ++ [n] ∧ (endedAt s o n).ld.outstanding = s.ld.outstanding ∧
    ((endedAt s o n).ld.headReady = true ↔ s.ld.headReady = true ∨ s.ld.order = [] ∧
      ∃ m, s.ps.mirror = some m ∧ x.batch ≤ m.batch ∧ n ≤ m.roll) ∧
    ∀ q, (endedAt s o n).ports.get q = (s.ports.get q).gaining
      (if (endedAt s o n).ld.headReady = s.ld.headReady then 0 else noticeLabel) := by
  obtain ⟨hmem, hserial⟩ := findBy_mem _ _ _ _ hx
  have hfind := find_replaced { answerCut s o with rb := { s.rb with
    rolls := replaced s.rb.rolls n { x with state := .closed } } } s.rb.rolls n x { x with state := .closed }
    rfl hmem hserial hserial hnodup
  rw [endedAt_eq hx hstate hnodup, if_neg hcls, if_neg (by rw [hhold]; nofun)]
  obtain ⟨horder, hout⟩ := joinOrder_ld { answerCut s o with rb := { s.rb with
    rolls := replaced s.rb.rolls n { x with state := .closed } } } n
  refine ⟨?_, ?_, ?_, horder, hout, ?_, joinOrder_ports _ n⟩
  · simp
  · simp [answerCut]
  · simp [answerCut]
  · have hready := joinOrder_headReady _ n _ hfind
    rw [← hserial] at hready ⊢
    exact hready

end

/-- Settles O22: the three ways in which an ENDING roll is completed. -/
theorem acknowledgeCompletesTheEndingRoll : Obligations.AcknowledgeCompletesTheEndingRoll := by
  intro s o n x ho hkind hstray hx hstate hnodup
  have hending : o.cut.kind.ending = some n := by
    rcases hkind with hk | ⟨m, hk⟩ <;> rw [hk] <;> rfl
  obtain ⟨hrt, herc, -, hps, hwpu, hsession⟩ := endedAt_frame s o n
  refine ⟨acknowledgedAt s o n, (endedAt s o n).events, exec_knifeAck_ending ho hending hstray, rfl, rfl, hrt, herc,
    hps, hwpu, hsession, fun q => ?_, fun hcls => ?_, fun hcls => ?_, fun hcls hhold => ?_, fun hcls hhold => ?_⟩
  · have hq : (acknowledgedAt s o n).ports.get q = ((endedAt s o n).ports.get q).gaining noticeCut :=
      get_map_gaining _ _ q
    rw [hq, BitVec.or_comm noticeCut]
    by_cases hcls : x.cls = some .remnant
    · obtain ⟨-, -, -, -, hports⟩ := endedAt_remnant (o := o) hx hstate hnodup hcls
      rw [hports q, gaining_gaining, if_pos hcls, BitVec.or_comm noticeEvent]
      rfl
    · rw [if_neg hcls]
      cases hhold : x.hold.any
      case true =>
        obtain ⟨-, -, -, -, hports⟩ := endedAt_held (o := o) hx hstate hnodup hcls hhold
        rw [hports q, gaining_gaining]
        rfl
      case false =>
        obtain ⟨-, -, -, -, -, -, hports⟩ := endedAt_closed (o := o) hx hstate hnodup hcls hhold
        rw [hports q, gaining_gaining]
        rfl
  · obtain ⟨hrb, hld, hevents, hbatches, -⟩ := endedAt_remnant (o := o) hx hstate hnodup hcls
    exact ⟨hrb, hld, hevents, hbatches⟩
  · cases hhold : x.hold.any
    case true =>
      obtain ⟨-, hevents, hbatches, -⟩ := endedAt_held (o := o) hx hstate hnodup hcls hhold
      exact ⟨hevents, hbatches⟩
    case false =>
      obtain ⟨-, hevents, hbatches, -⟩ := endedAt_closed (o := o) hx hstate hnodup hcls hhold
      exact ⟨hevents, hbatches⟩
  · obtain ⟨hrb, -, -, hld, -⟩ := endedAt_held (o := o) hx hstate hnodup hcls hhold
    exact ⟨hld, hrb⟩
  · obtain ⟨hrb, -, -, horder, hout, hready, -⟩ := endedAt_closed (o := o) hx hstate hnodup hcls hhold
    exact ⟨horder, hout, hready, hrb⟩

/-! ### The wait timer -/

section
variable {s : State} {c : Cut} {n m : Nat} {x y : Roll}

/-- A roll with CUT_FAULT. -/
def Roll.cutFaulty (x : Roll) : Roll := { x with hold := { x.hold with cutFault := true } }

/-- R143 step 1: an END_START cut faults both its rolls. -/
theorem cutFaulted_endStart (hc : c.kind = .endStart n m) (hx : s.findRoll n = some x) (hy : s.findRoll m = some y)
    (hending : x.state = .ending) (hbuilding : y.state = .building) (hnodup : (s.rb.rolls.map Roll.serial).Nodup) :
    (s.cutFaulted c).rb.rolls = s.rb.rolls.map fun z =>
      if z.serial = n then Roll.cutFaulty x else if z.serial = m then Roll.cutFaulty y else z := by
  obtain ⟨hxmem, hxserial⟩ := findBy_mem _ _ _ _ hx
  obtain ⟨hymem, hyserial⟩ := findBy_mem _ _ _ _ hy
  refine List.map_congr_left fun z hz => ?_
  rw [hc]
  by_cases hzn : z.serial = n
  · have hzx : z = x := List.inj_on_of_nodup_map hnodup hz hxmem (hzn.trans hxserial.symm)
    rw [if_pos hzn]
    refine (if_pos ⟨.inr (congrArg some hzn.symm), .inr (hzx ▸ hending)⟩).trans ?_
    rw [hzx, Roll.cutFaulty]
  · rw [if_neg hzn]
    by_cases hzm : z.serial = m
    · have hzy : z = y := List.inj_on_of_nodup_map hnodup hz hymem (hzm.trans hyserial.symm)
      rw [if_pos hzm]
      refine (if_pos ⟨.inl (congrArg some hzm.symm), .inl (hzy ▸ hbuilding)⟩).trans ?_
      rw [hzy, Roll.cutFaulty]
    · rw [if_neg hzm]
      refine if_neg fun h => h.1.elim (fun h' => ?_) fun h' => ?_
      · exact hzm (Option.some.inj h').symm
      · exact hzn (Option.some.inj h').symm

theorem cutFaulted_serials (s : State) (c : Cut) :
    (s.cutFaulted c).rb.rolls.map Roll.serial = s.rb.rolls.map Roll.serial := by
  rw [State.cutFaulted, List.map_map]
  refine List.map_congr_left fun z _ => ?_
  dsimp only [Function.comp_apply]
  split <;> rfl

/-- R143 step 1: the ENDING roll of a failed END_START cut. -/
theorem cutFaulted_endStart_find (hc : c.kind = .endStart n m) (hx : s.findRoll n = some x)
    (hy : s.findRoll m = some y) (hending : x.state = .ending) (hbuilding : y.state = .building)
    (hnodup : (s.rb.rolls.map Roll.serial).Nodup) : (s.cutFaulted c).findRoll n = some (Roll.cutFaulty x) := by
  obtain ⟨hxmem, hxserial⟩ := findBy_mem _ _ _ _ hx
  have hmem : Roll.cutFaulty x ∈ (s.cutFaulted c).rb.rolls := by
    rw [cutFaulted_endStart hc hx hy hending hbuilding hnodup]
    exact List.mem_map.2 ⟨x, hxmem, if_pos hxserial⟩
  rw [← hxserial]
  exact findBy_nodup Roll.serial _ _ ((cutFaulted_serials s c).symm ▸ hnodup) hmem

/-- R143: the rolls of a failed END_START cut, the ENDING roll then HELD. -/
theorem heldAfterFailure_rolls (ev : EventReport) (hc : c.kind = .endStart n m) (hx : s.findRoll n = some x)
    (hy : s.findRoll m = some y) (hending : x.state = .ending) (hbuilding : y.state = .building) (hne : n ≠ m)
    (hnodup : (s.rb.rolls.map Roll.serial).Nodup) :
    (heldAfterFailure s c ev n).rb = { s.rb with
      rolls := s.rb.rolls.map fun z =>
        if z.serial = n then { Roll.cutFaulty x with state := .held }
        else if z.serial = m then Roll.cutFaulty y else z } := by
  have hxserial := (findBy_mem _ _ _ _ hx).2
  have hyserial := (findBy_mem _ _ _ _ hy).2
  have hrolls : ((s.cutFaulted c).rb.rolls.map fun z => if z.serial = n then { z with state := .held } else z) =
      s.rb.rolls.map fun z =>
        if z.serial = n then { Roll.cutFaulty x with state := .held }
        else if z.serial = m then Roll.cutFaulty y else z := by
    rw [cutFaulted_endStart hc hx hy hending hbuilding hnodup, List.map_map]
    refine List.map_congr_left fun z _ => ?_
    dsimp only [Function.comp_apply]
    by_cases hzn : z.serial = n
    · rw [if_pos hzn, if_pos hzn]
      exact if_pos hxserial
    · rw [if_neg hzn, if_neg hzn]
      by_cases hzm : z.serial = m
      · rw [if_pos hzm]
        exact if_neg fun h => hne (h.symm.trans hyserial)
      · rw [if_neg hzm, if_neg hzn]
  exact congrArg (fun l : List Roll => { s.rb with rolls := l }) hrolls

end

/-- The state in which a cut fails. -/
def expiredAt (s : State) (o : Outstanding) : State := { s with ks := answeredKnife s o }

theorem exec_knifeTimeout_eq {s : State} {o : Outstanding} (ho : s.ks.outstanding = some o) (hstray : NoStrayReach s) :
    exec .knifeTimeout s = .next (State.released ((expiredAt s o).cutFailed o.cut
      ⟨.knifeTimeout, .knife, none, o.cut.kind.ending.or o.cut.kind.starting, none, extraNat o.tKnife⟩ 1)) := by
  rw [show exec .knifeTimeout s = execKnifeTimeout s from rfl, execKnifeTimeout, ho]
  exact congrArg Host.Outcome.next (failCut_released s o hstray)

/-- Settles O23: for an END_START cut, what the failed cut does with its two rolls. -/
theorem timeoutFailsTheOutstandingCut : Obligations.TimeoutFailsTheOutstandingCut := by
  intro s
  refine ⟨fun hnone => ?_, fun o ho hstray => exec_knifeTimeout_eq ho hstray,
    fun o n m x y ho hkind hstray hne hx hy hending hcls hbuilding hnodup => ?_⟩
  · rw [show exec .knifeTimeout s = execKnifeTimeout s from rfl, execKnifeTimeout, hnone]
  · have hfind : ((expiredAt s o).cutFaulted o.cut).findRoll n = some (Roll.cutFaulty x) :=
      cutFaulted_endStart_find (s := expiredAt s o) hkind hx hy hending hbuilding hnodup
    have hevent : o.cut.kind.ending.or o.cut.kind.starting = some n := by rw [hkind]; rfl
    have hfailed := cutFailed_held (s := expiredAt s o) (c := o.cut)
      ⟨.knifeTimeout, .knife, none, some n, none, extraNat o.tKnife⟩ 1 (by rw [hkind]; rfl) hfind hending hcls
    refine ⟨heldAfterFailure (expiredAt s o) o.cut ⟨.knifeTimeout, .knife, none, some n, none, extraNat o.tKnife⟩ n, ?_,
      rfl, heldAfterFailure_rolls (s := expiredAt s o) _ hkind hx hy hending hbuilding hne hnodup, rfl,
      get_map_gaining s.ports _, rfl, rfl, rfl, rfl, rfl, rfl, rfl⟩
    rw [exec_knifeTimeout_eq ho hstray, hevent, hfailed]

end Sys2Proof.Proofs
end

section
/-! PROOFS. The ends of the operations of the Persistent Store: a write, and a commit attempt (R177, R178, R182 to R184,
R199). -/

namespace Sys2Proof.Proofs

open Sys2Proof Sys2Proof.Machine

/-! ### What is posted -/

/-- R177, R199: a final status and the STORE notice at a port. -/
theorem postStoreEnd_eq (s : State) (port : Port) (st : Status) :
    postStoreEnd s port st = { s with ports := s.ports.set port ((s.ports.get port).posted st) } := by
  have hposted : ((s.ports.get port).postFinal st).raise noticeStore = (s.ports.get port).posted st := by
    rw [PortState.postFinal, PortState.posted]
    split_ifs <;> rfl
  rw [postStoreEnd, State.onPort, hposted]

/-- R180: the end of a series that SEED COUNTERS started is posted to Port F. -/
theorem postSeed_eq (s : State) (seeded : Bool) (st : Status) :
    postSeed s seeded st = { s with
      ports := if seeded then s.ports.set .portF ((s.ports.get .portF).posted st) else s.ports } := by
  rw [postSeed]
  cases seeded
  case true => exact postStoreEnd_eq s .portF st
  case false => rfl

theorem postSeed_get (s : State) (seeded : Bool) (st : Status) (q : Port) :
    (postSeed s seeded st).ports.get q =
      if seeded = true ∧ q = .portF then (s.ports.get q).posted st else s.ports.get q := by
  rw [postSeed_eq]
  cases seeded
  case true => cases q <;> rfl
  case false => cases q <;> rfl

/-! ### The end of a write -/

/-- R177, R178: the store with the content of a write whose comparison agreed. -/
def writtenStore (ps : PersistentStore) (w : StoreWrite) (agrees : Bool) : PersistentStore :=
  if agrees then ps.finishWrite w else ps

/-- R177, R178, R184: the end of a write. -/
theorem endWrite_eq (s : State) (w : StoreWrite) (due agrees : Bool) :
    endWrite s w due agrees = { s with
      ps := (writtenStore s.ps w agrees).afterWrite due
      ports := s.ports.set w.port ((s.ports.get w.port).posted (w.finalStatus agrees)) } := by
  rw [endWrite, postStoreEnd_eq]
  cases agrees <;> rfl

/-- What a write leaves of the commit state. -/
theorem writtenStore_keeps (ps : PersistentStore) (w : StoreWrite) (agrees : Bool) :
    (writtenStore ps w agrees).commitPending = ps.commitPending ∧
    (writtenStore ps w agrees).reserved = ps.reserved := by
  rw [writtenStore]
  cases agrees
  case false => exact ⟨rfl, rfl⟩
  case true =>
    rw [if_pos rfl, PersistentStore.finishWrite]
    cases w.target <;> exact ⟨rfl, rfl⟩

/-- R184: no commit waits. -/
theorem afterWrite_idle {ps : PersistentStore} {due : Bool} (hdue : due = false) (hpending : ps.commitPending = false) :
    ps.afterWrite due = { ps with op := .idle } := by
  rw [PersistentStore.afterWrite, hdue, hpending]
  rfl

/-- R184: a commit series starts. -/
theorem afterWrite_commits {ps : PersistentStore} {due : Bool} {c : Counters}
    (hwaits : due = true ∨ ps.commitPending = true) (hres : ps.reserved = some c) :
    ps.afterWrite due = { ps with
      commitPending := false
      array := { ps.array with counters := none }
      op := .committing ⟨c, 0, false⟩ } := by
  have hstarts : (ps.commitPending || due) = true := Bool.or_eq_true_iff.mpr hwaits.symm
  have hnow : ps.reservedNow = c := by rw [PersistentStore.reservedNow, hres]; rfl
  rw [PersistentStore.afterWrite, if_pos hstarts, PersistentStore.startSeries, PersistentStore.startAttempt]
  exact congrArg (fun v : Counters => { ps with
    commitPending := false
    array := { ps.array with counters := none }
    op := .committing ⟨v, 0, false⟩ }) hnow

theorem exec_storeWriteEnd_eq {s : State} {w : StoreWrite} {due : Bool} (hop : s.ps.op = .writing w due)
    (agrees : Bool) : exec (.storeWriteEnd agrees) s = .next { s with
      ps := (writtenStore s.ps w agrees).afterWrite due
      ports := s.ports.set w.port ((s.ports.get w.port).posted (w.finalStatus agrees)) } := by
  rw [show exec (.storeWriteEnd agrees) s = execStoreWriteEnd agrees s from rfl, execStoreWriteEnd, hop]
  exact congrArg Host.Outcome.next (endWrite_eq s w due agrees)

/-- Settles O26: the content, the status posted and what runs next. -/
theorem writeEndsAndPostsItsOutcome : Obligations.WriteEndsAndPostsItsOutcome := by
  intro agrees s
  refine ⟨fun w due st fin ports hop hst hfin hports => ?_, fun hnone => ?_⟩
  · have hwritten : fin = writtenStore s.ps w agrees := by
      rw [hfin, writtenStore, PersistentStore.finishWrite]
      cases agrees
      case true => cases w.target <;> rfl
      case false => rfl
    have hposted : ports = s.ports.set w.port ((s.ports.get w.port).posted (w.finalStatus agrees)) := by
      rw [hports, hst]
      rfl
    obtain ⟨hpending, hreserved⟩ := writtenStore_keeps s.ps w agrees
    refine ⟨fun hdue hnot => ?_, fun c hwaits hres => ?_⟩
    · rw [exec_storeWriteEnd_eq hop, hwritten, hposted, afterWrite_idle hdue (hpending.trans hnot)]
    · have hwaits' : due = true ∨ (writtenStore s.ps w agrees).commitPending = true := by rwa [hpending]
      rw [exec_storeWriteEnd_eq hop, hwritten, hposted, afterWrite_commits hwaits' (hreserved.trans hres)]
  · rw [show exec (.storeWriteEnd agrees) s = execStoreWriteEnd agrees s from rfl, execStoreWriteEnd]
    cases hop : s.ps.op with
    | idle => rfl
    | committing c => rfl
    | committingOver c w => rfl
    | writing w due => exact absurd hop (hnone w due)

/-! ### A commit attempt that succeeds -/

/-- The operation of a store in a commit attempt, over a suspended write where there is one. -/
def attemptOp (c : CommitSeries) (held : Option StoreWrite) : StoreOp :=
  match held with
  | none => .committing c
  | some w => .committingOver c w

/-- What runs when no attempt follows: the write resumed, or nothing. -/
def resumedOp (held : Option StoreWrite) : StoreOp :=
  match held with
  | none => .idle
  | some w => .writing w false

theorem exec_commitAttemptEnd_eq {s : State} {c : CommitSeries} {held : Option StoreWrite}
    (hop : s.ps.op = attemptOp c held) (agrees : Bool) :
    exec (.commitAttemptEnd agrees) s = .next (endAttempt s c held agrees) := by
  rw [show exec (.commitAttemptEnd agrees) s = execCommitAttemptEnd agrees s from rfl, execCommitAttemptEnd, hop]
  cases held <;> rfl

theorem afterSuccess_idle {ps : PersistentStore} (hpending : ps.commitPending = false) (held : Option StoreWrite) :
    ps.afterSuccess held = { ps with op := resumedOp held } := by
  unfold PersistentStore.afterSuccess
  rw [hpending, if_neg Bool.false_ne_true]
  cases held <;> rfl

theorem startAttempt_eq {ps : PersistentStore} {c : Counters} (hres : ps.reserved = some c) (failures : Nat)
    (seeded : Bool) (held : Option StoreWrite) : ps.startAttempt failures seeded held = { ps with
      array := { ps.array with counters := none }
      op := attemptOp ⟨c, failures, seeded⟩ held } := by
  have hnow : ps.reservedNow = c := by rw [PersistentStore.reservedNow, hres]; rfl
  unfold PersistentStore.startAttempt
  rw [hnow]
  cases held <;> rfl

theorem afterSuccess_pending {ps : PersistentStore} {c : Counters} (hpending : ps.commitPending = true)
    (hres : ps.reserved = some c) (held : Option StoreWrite) : ps.afterSuccess held = { ps with
      commitPending := false
      array := { ps.array with counters := none }
      op := attemptOp ⟨c, 0, false⟩ held } := by
  unfold PersistentStore.afterSuccess
  rw [if_pos hpending, PersistentStore.startSeries]
  exact startAttempt_eq (ps := { ps with commitPending := false }) hres 0 false held

/-- R182 steps 1 to 3: the store confirmed and its recovery announced. -/
def confirmedAt (s : State) (c : CommitSeries) : State := announceRecovery { s with ps := s.ps.confirm c.values }

theorem confirmedAt_eq (s : State) (c : CommitSeries) :
    confirmedAt s c = { s with
      ps := s.ps.confirm c.values
      events := if s.events.refs.store then
        (logEvent s ⟨.storeRecovered, .store, none, none, none, 0⟩).events else s.events
      ports := s.ports.map fun q => q.gaining (if s.events.refs.store then noticeEvent else 0) } := by
  rw [confirmedAt, announceRecovery]
  cases hstore : s.events.refs.store with
  | false =>
    rw [if_neg Bool.false_ne_true, if_neg Bool.false_ne_true, if_neg Bool.false_ne_true, map_gaining_zero]
  | true =>
    have hsc := logEvent_sc_of_note { s with ps := s.ps.confirm c.values }
      ⟨.storeRecovered, .store, none, none, none, 0⟩ rfl
    rw [if_pos rfl, if_pos rfl, if_pos rfl]
    exact congrArg (fun sc' : SessionControl => { s with
      sc := sc'
      ps := s.ps.confirm c.values
      events := (logEvent s ⟨.storeRecovered, .store, none, none, none, 0⟩).events
      ports := s.ports.map fun q => q.gaining noticeEvent }) hsc

/-- R182: the end of an attempt that succeeded. -/
theorem endSuccess_eq (s : State) (c : CommitSeries) (held : Option StoreWrite) :
    endSuccess s c held = { s with
      ps := (s.ps.confirm c.values).afterSuccess held
      ld := (readinessTest (confirmedAt s c)).ld
      events := (confirmedAt s c).events
      ports := (postSeed (readinessTest (confirmedAt s c)) c.seeded .done).ports } := by
  have hready : readinessTest (confirmedAt s c) = { confirmedAt s c with
      ld := (readinessTest (confirmedAt s c)).ld
      ports := (readinessTest (confirmedAt s c)).ports } := by
    rw [readinessTest]
    split_ifs <;> rfl
  have hposted := postSeed_eq (readinessTest (confirmedAt s c)) c.seeded .done
  rw [show endSuccess s c held = { postSeed (readinessTest (confirmedAt s c)) c.seeded .done with
    ps := (postSeed (readinessTest (confirmedAt s c)) c.seeded .done).ps.afterSuccess held } from rfl, hposted, hready,
    confirmedAt_eq]

/-- R157, R182: the head is ready when its codes are no greater than the values written. -/
theorem confirmedAt_headIsReady (s : State) (c : CommitSeries) :
    (confirmedAt s c).headIsReady = true ↔ ∃ h y, s.ld.order.head? = some h ∧ s.findRoll h = some y ∧
      y.batch ≤ c.values.batch ∧ y.serial ≤ c.values.roll := by
  have hmirror : (confirmedAt s c).ps.mirror = some c.values := by rw [confirmedAt_eq]; rfl
  have hhead : (confirmedAt s c).labelHead = s.ld.order.head?.bind s.findRoll := by rw [confirmedAt_eq]; rfl
  rw [State.headIsReady, hhead, hmirror]
  cases horder : s.ld.order.head? with
  | none => exact ⟨nofun, fun ⟨h, y, hnone, _⟩ => nomatch hnone⟩
  | some h =>
    cases hy : s.findRoll h with
    | none =>
      rw [Option.bind_some, hy]
      refine ⟨nofun, fun ⟨h', y, hh, hy', _⟩ => ?_⟩
      cases hh
      exact nomatch hy.symm.trans hy'
    | some y =>
      rw [Option.bind_some, hy]
      refine (persisted_iff y (some c.values)).trans ⟨fun ⟨v, hv, hcodes⟩ => ?_, fun ⟨h', y', hh, hy', hcodes⟩ => ?_⟩
      · cases hv
        exact ⟨h, y, rfl, hy, hcodes⟩
      · cases hh
        cases hy.symm.trans hy'
        exact ⟨c.values, rfl, hcodes⟩

theorem endSuccess_ready (s : State) (c : CommitSeries) (held : Option StoreWrite) :
    (endSuccess s c held).ld = { s.ld with headReady := (endSuccess s c held).ld.headReady } ∧
    ((endSuccess s c held).ld.headReady = true ↔ s.ld.headReady = true ∨
      ∃ h y, s.ld.order.head? = some h ∧ s.findRoll h = some y ∧
        y.batch ≤ c.values.batch ∧ y.serial ≤ c.values.roll) := by
  have hld : (confirmedAt s c).ld = s.ld := by rw [confirmedAt_eq]
  rw [endSuccess_eq]
  dsimp only
  rw [readinessTest_ld, hld]
  refine ⟨rfl, ?_⟩
  rw [Bool.or_eq_true, confirmedAt_headIsReady]

/-- R158, R180, R182: EVENT with the recovery, LABEL when the head becomes ready, and the series' end at Port F. -/
theorem endSuccess_ports (s : State) (c : CommitSeries) (held : Option StoreWrite) (q : Port) {p : PortState}
    (hp : p = (s.ports.get q).gaining ((if s.events.refs.store then noticeEvent else 0) |||
      if (endSuccess s c held).ld.headReady = s.ld.headReady then 0 else noticeLabel)) :
    (endSuccess s c held).ports.get q = if c.seeded = true ∧ q = .portF then p.posted .done else p := by
  have hready : (readinessTest (confirmedAt s c)).ports.get q = p := by
    have hports : (confirmedAt s c).ports.get q =
        (s.ports.get q).gaining (if s.events.refs.store then noticeEvent else 0) := by
      rw [confirmedAt_eq]
      exact get_map_gaining _ _ q
    have hld : (confirmedAt s c).ld = s.ld := by rw [confirmedAt_eq]
    rw [readinessTest_ports, hports, gaining_gaining, hp, endSuccess_eq, hld]
  have hends : (endSuccess s c held).ports = (postSeed (readinessTest (confirmedAt s c)) c.seeded .done).ports := by
    rw [endSuccess_eq]
  rw [hends, postSeed_get, hready]

/-! ### A commit attempt that fails -/

/-- R183: a retry. -/
theorem endFailure_retries {s : State} {c : CommitSeries} {res : Counters} (hres : s.ps.reserved = some res)
    (hfew : c.failures < 2) (held : Option StoreWrite) : endFailure s c held = { s with
      ps := { s.ps with
        failures := min 255 (s.ps.failures + 1)
        array := { s.ps.array with counters := none }
        op := attemptOp ⟨res, c.failures + 1, c.seeded⟩ held } } := by
  have hretry : c.failures + 1 < 3 := by omega
  rw [endFailure, if_pos hretry]
  exact congrArg (fun ps' : PersistentStore => { s with ps := ps' })
    (startAttempt_eq (ps := s.ps.countFailure) hres (c.failures + 1) c.seeded held)

/-- The state in which a series that failed is posted. -/
def failedAt (s : State) : State :=
  { logEvent s ⟨.storeFail, .store, none, none, none, extraNat (min 255 (s.ps.failures + 1))⟩ with
    ps := { s.ps with
      failures := min 255 (s.ps.failures + 1)
      commitPending := true } }

/-- R183: the end of a series. -/
theorem endFailure_ends {s : State} {c : CommitSeries} (hmany : 2 ≤ c.failures) (held : Option StoreWrite) :
    endFailure s c held = { failedAt s with
      ps := { (failedAt s).ps with op := resumedOp held }
      ports := (postSeed (failedAt s) c.seeded .storeFailed).ports } := by
  have hlast : ¬c.failures + 1 < 3 := by omega
  have hposted := postSeed_eq (failedAt s) c.seeded .storeFailed
  rw [endFailure, if_neg hlast]
  rw [show endSeries { s with ps := s.ps.countFailure } c held = { postSeed (failedAt s) c.seeded .storeFailed with
    ps := (postSeed (failedAt s) c.seeded .storeFailed).ps.afterFailedSeries held } from rfl, hposted]
  cases held <;> rfl

/-! ### Both -/

/-- R182: what a success leaves of the store. -/
theorem afterSuccess_confirmed (ps : PersistentStore) (v : Counters) {res : Counters} (hres : ps.reserved = some res)
    (held : Option StoreWrite) {t : PersistentStore} (ht : t = (ps.confirm v).afterSuccess held) :
    t.mirror = some v ∧ t.validity = .valid ∧ t.failures = 0 ∧ t.reserved = ps.reserved ∧ t.commitPending = false ∧
    (ps.commitPending = false → t.array.counters = some v ∧ t.op = resumedOp held) ∧
    (ps.commitPending = true → t.array.counters = none ∧ t.op = attemptOp ⟨res, 0, false⟩ held) := by
  cases hpending : ps.commitPending with
  | false =>
    rw [afterSuccess_idle (ps := ps.confirm v) hpending] at ht
    subst ht
    exact ⟨rfl, rfl, rfl, rfl, hpending, fun _ => ⟨rfl, rfl⟩, nofun⟩
  | true =>
    rw [afterSuccess_pending (ps := ps.confirm v) hpending hres] at ht
    subst ht
    exact ⟨rfl, rfl, rfl, rfl, rfl, nofun, fun _ => ⟨rfl, rfl⟩⟩

/-- Settles O27: success, retry and the end of a series. -/
theorem commitAttemptEnds : Obligations.CommitAttemptEnds := by
  refine ⟨fun s agrees hnone => ?_, fun s c held res hheld hres => ?_⟩
  · rw [show exec (.commitAttemptEnd agrees) s = execCommitAttemptEnd agrees s from rfl, execCommitAttemptEnd]
    cases hop : s.ps.op with
    | idle => rfl
    | writing w due => rfl
    | committing c =>
      rw [hop] at hnone
      exact nomatch hnone
    | committingOver c w =>
      rw [hop] at hnone
      exact nomatch hnone
  · have hop : s.ps.op = attemptOp c held := hheld
    refine ⟨⟨endSuccess s c held, exec_commitAttemptEnd_eq hop true, ?_⟩, fun hfew => ?_, fun hmany => ?_⟩
    · have hps : (endSuccess s c held).ps = (s.ps.confirm c.values).afterSuccess held := by rw [endSuccess_eq]
      have hevents : (endSuccess s c held).events = (confirmedAt s c).events := by rw [endSuccess_eq]
      obtain ⟨hmirror, hvalid, hfailures, hreserved, hclear, hidle, hwaits⟩ :=
        afterSuccess_confirmed s.ps c.values hres held hps
      obtain ⟨hld, hready⟩ := endSuccess_ready s c held
      refine ⟨hmirror, hvalid, hfailures, hreserved, hclear, hidle, hwaits, fun hstore => ?_, fun hstore => ?_, hld,
        hready, fun q p hp => endSuccess_ports s c held q hp, ?_⟩
      · rw [hevents, confirmedAt_eq, hstore]
        rfl
      · rw [hevents, confirmedAt_eq, hstore]
        rfl
      · rw [endSuccess_eq]
        exact ⟨rfl, rfl, rfl, rfl, rfl, rfl, rfl⟩
    · rw [exec_commitAttemptEnd_eq hop]
      exact congrArg Host.Outcome.next (endFailure_retries hres hfew held)
    · refine ⟨endFailure s c held, exec_commitAttemptEnd_eq hop false, ?_⟩
      rw [endFailure_ends hmany]
      refine ⟨rfl, rfl, fun q p hp => ?_, rfl, rfl, rfl, rfl, rfl, rfl, rfl⟩
      have hlogged : (failedAt s).ports.get q = p := by
        rw [hp]
        exact get_map_gaining s.ports noticeEvent q
      exact (postSeed_get (failedAt s) c.seeded .storeFailed q).trans (by rw [hlogged])

end Sys2Proof.Proofs
end

section
/-! PROOFS. The requests that start an operation of the store, and their refusals (R176, R178, R180). -/

namespace Sys2Proof.Proofs

open Sys2Proof Sys2Proof.Machine

/-! ### A request and its reply -/

section
variable {port : Port} {i : Instr} {s t : State} {body : State → State × Answer}

/-- R198: a request that is answered and does nothing else. -/
theorem exec_answered (a : Answer) (hexec : exec i s = .next (takeRequest port i s body))
    (hperm : permitted (commandCode i) port = true) (hbody : body (s.taken port i) = (s.taken port i, a)) :
    exec i s = .next (s.answered port i a.status a.data) :=
  hexec.trans (congrArg Host.Outcome.next (takeRequest_answered port i s body a hperm hbody))

/-- R198: a request that is refused. -/
theorem exec_plain {st : Status} (hexec : exec i s = .next (takeRequest port i s body))
    (hperm : permitted (commandCode i) port = true)
    (hbody : body (s.taken port i) = (s.taken port i, Answer.plain st)) :
    exec i s = .next (s.answered port i st []) :=
  exec_answered (Answer.plain st) hexec hperm hbody

/-- R198: a request carried out, then answered. -/
theorem exec_effect (a : Answer) (hexec : exec i s = .next (takeRequest port i s body))
    (hperm : permitted (commandCode i) port = true) (hbody : body (s.taken port i) = (t.taken port i, a)) :
    exec i s = .next (t.answered port i a.status a.data) :=
  hexec.trans (congrArg Host.Outcome.next (takeRequest_effect port i s t body a hperm hbody))

end

/-! ### Slots and the operation of the store -/

theorem slotPlace_of {n : Nat} {i : Fin 8} (h : n = i.val + 1) : slotPlace n = some i := by
  subst h
  exact dif_pos ⟨Nat.le_add_left 1 i.val, i.isLt⟩

theorem slotPlace_outside {n : Nat} (h : n = 0 ∨ 8 < n) : slotPlace n = none :=
  dif_neg fun hin => by omega

theorem slotPlace_nowhere {n : Nat} (h : ∀ i : Fin 8, n ≠ i.val + 1) : slotPlace n = none := by
  refine slotPlace_outside ?_
  by_contra hin
  exact h ⟨n - 1, by omega⟩ (by simp only; omega)

theorem isIdle_iff (ps : PersistentStore) : ps.isIdle = true ↔ ps.op = .idle := by
  rw [PersistentStore.isIdle, beq_iff_eq]

theorem not_isIdle {ps : PersistentStore} (h : ps.op ≠ .idle) : (!ps.isIdle) = true := by
  rw [Bool.not_eq_true', ← Bool.not_eq_true, isIdle_iff]
  exact h

theorem isIdle_not {ps : PersistentStore} (h : ps.op = .idle) : ¬(!ps.isIdle) = true := by
  rw [(isIdle_iff ps).mpr h]
  exact Bool.false_ne_true

/-! ### Recipes -/

section
variable {port : Port} {m : RecipeImage} {i : Fin 8} {u : State}

theorem writeRecipeBody_nowhere (h : ∀ i : Fin 8, m.slot.toNat ≠ i.val + 1) :
    writeRecipeBody port m u = (u, Answer.plain .outOfRange) := by
  rw [writeRecipeBody, slotPlace_nowhere h]

theorem writeRecipeBody_outOfRange (h : ¬StructuralInRange m) :
    writeRecipeBody port m u = (u, Answer.plain .outOfRange) := by
  have hbad : (!structuralOk m) = true := by
    rw [Bool.not_eq_true', ← Bool.not_eq_true, structuralOk_iff]
    exact h
  rw [writeRecipeBody]
  cases slotPlace m.slot.toNat with
  | none => rfl
  | some i => exact if_pos hbad

theorem writeRecipeBody_inRange (hi : m.slot.toNat = i.val + 1) (h : StructuralInRange m) :
    writeRecipeBody port m u = if (!u.ps.isIdle) = true then (u, Answer.plain .busy) else
      ({ u with ps := u.ps.startWrite ⟨port, .recipe i (clampedRecipe m), recipeWasClamped m⟩ },
        Answer.plain .pending) := by
  have hgood : ¬(!structuralOk m) = true := by
    rw [(structuralOk_iff m).mpr h]
    exact Bool.false_ne_true
  rw [writeRecipeBody, slotPlace_of hi]
  exact if_neg hgood

end

theorem clampNat_eq_self_iff {lo hi n : Nat} (h : lo ≤ hi) : clampNat lo hi n = n ↔ lo ≤ n ∧ n ≤ hi := by
  unfold clampNat
  omega

theorem clampNat_zero (hi n : Nat) : clampNat 0 hi n = min hi n := Nat.zero_max (min hi n)

/-- R176: the write is a clamped one when a tuning field was out of its range. -/
theorem recipeWasClamped_iff (m : RecipeImage) : recipeWasClamped m = false ↔ m.db.toNat ≤ 63 ∧ 1 ≤ m.sl.toNat ∧
    m.sl.toNat ≤ 127 ∧ 1 ≤ m.wLock.toNat ∧ m.wLock.toNat ≤ 2047 ∧ m.wLock.toNat ≤ m.wCap.toNat ∧
    m.wCap.toNat ≤ 20000 ∧ 1 ≤ m.eTol.toNat ∧ m.eTol.toNat ≤ 2047 ∧ 10 ≤ m.t.toNat ∧ m.t.toNat ≤ 2000 ∧
    1 ≤ m.nLearn.toNat ∧ m.nLearn.toNat ≤ 16 ∧ 1 ≤ m.bSlots.toNat ∧ m.bSlots.toNat ≤ 4 := by
  simp only [recipeWasClamped, clampedRecipe, Bool.or_eq_false_iff, bne_eq_false_iff_eq]
  rw [clampNat_eq_self_iff (lo := 0) (by omega), clampNat_eq_self_iff (lo := 1) (hi := 127) (by omega),
    clampNat_eq_self_iff (lo := 1) (hi := 2047) (by omega), clampNat_eq_self_iff (lo := 1) (hi := 2047) (by omega),
    clampNat_eq_self_iff (lo := 10) (by omega), clampNat_eq_self_iff (lo := 1) (hi := 16) (by omega),
    clampNat_eq_self_iff (lo := 1) (hi := 4) (by omega)]
  have hlock : clampNat 1 2047 m.wLock.toNat ≤ 20000 := by
    have := (clampNat_between (lo := 1) (hi := 2047) (by omega) m.wLock.toNat).2
    omega
  rw [clampNat_eq_self_iff hlock]
  unfold clampNat
  omega

/-- R176: the repeats per turn of a code in range. -/
theorem clampedRecipe_kc (m : RecipeImage) : (m.kcCode = 0 → (clampedRecipe m).kc = .one) ∧
    (m.kcCode = 1 → (clampedRecipe m).kc = .two) ∧ (m.kcCode = 2 → (clampedRecipe m).kc = .four) := by
  refine ⟨fun h => ?_, fun h => ?_, fun h => ?_⟩
  all_goals
    rw [clampedRecipe, h]
    rfl

theorem permitted_writeRecipe {port : Port} (h : port ≠ .portF) (m : RecipeImage) :
    permitted (commandCode (.writeRecipe port m)) port = true := by
  cases port
  case portF => exact absurd rfl h
  all_goals rfl

/-- Settles O28: the refusals, the write, and what the clamps do field by field. -/
theorem writeRecipeOutcomes : Obligations.WriteRecipeOutcomes := by
  intro port m s hport
  have hperm := permitted_writeRecipe hport m
  refine ⟨fun h => ?_, fun i hi hrange hop => ?_, fun i hi hrange hop => ?_, clampedRecipe_inRange, ?_,
    recipeWasClamped_iff m, clampNat_zero 63 _, rfl, rfl, rfl, rfl, rfl, rfl, rfl⟩
  · exact exec_plain rfl hperm (h.elim writeRecipeBody_nowhere writeRecipeBody_outOfRange)
  · refine exec_plain rfl hperm ((writeRecipeBody_inRange hi hrange).trans (if_pos ?_))
    exact not_isIdle hop
  · refine exec_effect (Answer.plain .pending) rfl hperm ((writeRecipeBody_inRange hi hrange).trans (if_neg ?_))
    exact isIdle_not hop
  · obtain ⟨hone, htwo, hfour⟩ := clampedRecipe_kc m
    exact ⟨rfl, rfl, rfl, rfl, rfl, rfl, rfl, rfl, rfl, rfl, hone, htwo, hfour, rfl, rfl, rfl, rfl⟩

/-! ### The setup -/

section
variable {args : SetupArgs} {u : State}

theorem groupActionOf_beyond {b : Byte} (h : 4 ≤ b.toNat) : groupActionOf b = none := by
  unfold groupActionOf
  split
  case h_5 => rfl
  all_goals omega

/-- R178: a byte beyond the list. -/
theorem setupGroups_beyond (h : 4 ≤ args.tracking.toNat ∨ 4 ≤ args.emboss.toNat ∨ 4 ≤ args.shade.toNat ∨
    4 ≤ args.roll.toNat ∨ 4 ≤ args.knife.toNat ∨ 4 ≤ args.store.toNat ∨ 4 ≤ args.session.toNat) :
    setupGroups args = none := by
  unfold setupGroups
  rcases h with h | h | h | h | h | h | h <;> simp [groupActionOf_beyond h]

theorem writeSetupBody_inRun (h : u.sc.session.inRun = true) :
    writeSetupBody .portF args u = (u, Answer.plain .wrongState) := by
  unfold writeSetupBody
  cases hsession : u.sc.session with
  | unloaded =>
    rw [hsession] at h
    exact nomatch h
  | loaded run r =>
    cases run with
    | armed =>
      rw [hsession] at h
      exact nomatch h
    | running => rfl
    | draining => rfl

theorem writeSetupBody_outside (h : u.sc.session.inRun = false) :
    writeSetupBody .portF args u = (match setupGroups args with
      | none => (u, Answer.plain .outOfRange)
      | some g =>
        if (!u.ps.isIdle) = true then (u, Answer.plain .busy) else (takeSetup u .portF args g, Answer.plain .pending)) := by
  unfold writeSetupBody
  cases hsession : u.sc.session with
  | unloaded => rfl
  | loaded run r =>
    rw [hsession] at h
    cases run with
    | armed => rfl
    | running => exact nomatch h
    | draining => exact nomatch h

end

theorem clampedSetup_eq (args : SetupArgs) (g : GroupActions) : clampedSetup args g =
    ⟨min 50000 args.sMax.toNat, max 1 (min 4000 args.cTol.toNat), max 5 (min 250 args.tKnife.toNat),
      min 4000 args.lateTol.toNat, g⟩ := by
  rw [clampedSetup, clampNat_zero, clampNat_zero]
  rfl

/-- R178: the write is a clamped one when a number was out of its range. -/
theorem setupWasClamped_eq (args : SetupArgs) (g : GroupActions) {v : Setup} (hv : v = clampedSetup args g) :
    setupWasClamped args g = !(v.sMax == args.sMax.toNat && v.cTol == args.cTol.toNat && v.tKnife == args.tKnife.toNat &&
      v.lateTol == args.lateTol.toNat) := by
  rw [hv, setupWasClamped, Bool.not_and, Bool.not_and, Bool.not_and]
  rfl

/-- Settles O29. -/
theorem writeSetupOutcomes : Obligations.WriteSetupOutcomes := by
  intro args s
  have houtside (hrun : s.sc.session.inRun = false) :=
    writeSetupBody_outside (args := args) (u := s.taken .portF (.writeSetup .portF args)) hrun
  refine ⟨fun hrun => exec_plain rfl rfl (writeSetupBody_inRun hrun), fun hrun hbeyond => ?_,
    fun g hrun hgroups hop => ?_, fun g v clamped hrun hgroups hop hv hclamped => ?_⟩
  · refine exec_plain rfl rfl ((houtside hrun).trans ?_)
    rw [setupGroups_beyond hbeyond]
  · refine exec_plain rfl rfl ((houtside hrun).trans ?_)
    rw [hgroups]
    exact if_pos (not_isIdle hop)
  · have hsetup : v = clampedSetup args g := hv.trans (clampedSetup_eq args g).symm
    have hflag : clamped = setupWasClamped args g := hclamped.trans (setupWasClamped_eq args g hsetup).symm
    rw [hflag, hsetup]
    refine exec_effect (Answer.plain .pending) rfl rfl ((houtside hrun).trans ?_)
    rw [hgroups]
    exact if_neg (isIdle_not hop)

/-! ### The counters -/

/-- Settles O30. -/
theorem seedCountersOutcomes : Obligations.SeedCountersOutcomes := by
  intro b n s
  have hinvalid : s.ps.validity = .invalid → ¬s.ps.validity = .valid := fun h => by rw [h]; nofun
  refine ⟨fun hvalid => ?_, fun hinv hbig => ?_, fun hinv hfits hop => ?_, fun hinv hfits hop => ?_⟩
  · exact exec_plain rfl rfl (if_pos hvalid)
  · exact exec_plain rfl rfl ((if_neg (hinvalid hinv)).trans (if_pos hbig))
  · exact exec_plain rfl rfl ((if_neg (hinvalid hinv)).trans ((if_neg (not_lt.mpr hfits)).trans
      (if_pos (not_isIdle hop))))
  · exact exec_effect (Answer.plain .pending) rfl rfl ((if_neg (hinvalid hinv)).trans
      ((if_neg (not_lt.mpr hfits)).trans (if_neg (isIdle_not hop))))

end Sys2Proof.Proofs
end

section
/-! PROOFS. The ports: what is shifted out, bad frames, notices, permissions, and the requests that read (R59, R107,
R139, R186, R194, R197 to R202) or resume the line (R31). -/

namespace Sys2Proof.Proofs

open Sys2Proof Sys2Proof.Machine

/-! ### What is shifted out -/

/-- Zeros beyond what a frame clocks are not seen. -/
theorem take_append_zeros {n j k : Nat} (a : List Byte) (hj : n ≤ a.length + j) (hk : n ≤ a.length + k) :
    (a ++ List.replicate j 0).take n = (a ++ List.replicate k 0).take n := by
  rw [List.take_append, List.take_append, List.take_replicate, List.take_replicate, Nat.min_eq_left (by omega),
    Nat.min_eq_left (by omega)]

theorem statusFront_length (s : State) (p : PortState) : (statusFront s p).length = 27 := by
  simp [statusFront, wordBytes, leInt]

theorem statusBack_length (s : State) (p : PortState) : (statusBack s p).length = 39 := by
  simp [statusBack, optNat, optWord, wordBytes]

theorem statusBytes_length (s : State) (port : Port) : (statusBytes s port).length = 66 := by
  rw [statusBytes, List.length_append, statusFront_length, statusBack_length]

/-- R201: what a READ STATUS shifts out. -/
theorem streamed_statusBytes (s : State) (port : Port) (n : Nat) : streamed (statusBytes s port) (n + 2) =
    ([0, 0] ++ statusBytes s port ++ List.replicate n 0).take (n + 2) := by
  have hlength : ([0, 0] ++ statusBytes s port).length = 68 := by
    rw [List.length_append, statusBytes_length]
    rfl
  exact take_append_zeros _ (by omega) (by omega)

/-- The least significant byte comes first. -/
theorem ofNat_toNat_word (w : Word) : BitVec.ofNat 8 w.toNat = w.setWidth 8 := by
  apply BitVec.eq_of_toNat_eq
  rw [BitVec.toNat_ofNat, BitVec.toNat_setWidth]

/-- R201: bytes 0 to 26 of the answer. -/
theorem statusBytes_front (s : State) (port : Port) {n : Nat} (h : n < 27) :
    (statusBytes s port)[n]? = (statusFront s (s.ports.get port))[n]? :=
  List.getElem?_append_left (by rw [statusFront_length]; exact h)

/-- R201: bytes 27 to 65 of the answer. -/
theorem statusBytes_back (s : State) (port : Port) (n : Nat) :
    (statusBytes s port)[27 + n]? = (statusBack s (s.ports.get port))[n]? := by
  rw [statusBytes, List.getElem?_append_right (by rw [statusFront_length]; omega), statusFront_length,
    Nat.add_sub_cancel_left]

/-- Settles O31: the answer, and ten of its bytes. -/
theorem readStatusChangesNoBlock : Obligations.ReadStatusChangesNoBlock := by
  intro port clocked s
  refine ⟨?_, statusBytes_length s port, ?_, ?_, ?_, ?_, ?_, ?_, ?_, ?_⟩
  · rw [show exec (.readStatus port clocked) s = execReadStatus port clocked s from rfl, execReadStatus,
      streamed_statusBytes]
    rfl
  · exact statusBytes_front s port (by decide)
  · rw [statusBytes_front s port (by decide), ← ofNat_toNat_word]
    rfl
  · rw [statusBytes_front s port (by decide), ← ofNat_toNat_word]
    rfl
  · rw [statusBytes_front s port (by decide)]
    simp [statusFront, wordBytes, leBytes]
  · exact statusBytes_back s port 0
  · rw [statusBytes_back s port 27]
    simp [statusBack, optNat, optWord, wordBytes, leBytes]
  · rw [statusBytes_back s port 37]
    simp [statusBack, optNat, optWord, wordBytes, leBytes]
  · rw [statusBytes_back s port 38]
    simp [statusBack, optNat, optWord, wordBytes, leBytes]

/-- Settles O32: a long frame marks the reply fetched, a short one does not. -/
theorem fetchReplyShiftsTheSlotOut : Obligations.FetchReplyShiftsTheSlotOut := by
  intro port clocked s p out hp hout
  subst hp hout
  rw [show exec (.fetchReply port clocked) s = execFetchReply port clocked s from rfl, execFetchReply]
  dsimp only
  by_cases hlong : 5 ≤ clocked.length
  · have hfetched : ((s.ports.get port).slot.fetched || (s.ports.get port).slot.status != .pending) =
        if 5 ≤ clocked.length ∧ (s.ports.get port).slot.status ≠ .pending then true
        else (s.ports.get port).slot.fetched := by
      by_cases hpending : (s.ports.get port).slot.status = .pending
      · rw [if_neg fun h => h.2 hpending, hpending]
        exact Bool.or_false _
      · rw [if_pos ⟨hlong, hpending⟩, bne_iff_ne.mpr hpending, Bool.or_true]
    rw [if_pos hlong, ← hfetched, State.openFrame, State.onPort, State.onPort, PerPort.get_set_same, PerPort.set_set,
      if_pos hlong]
    rfl
  · have hshort : ¬(5 ≤ clocked.length ∧ (s.ports.get port).slot.status ≠ .pending) := fun h => hlong h.1
    rw [if_neg hlong, if_neg hlong, if_neg hshort]
    rfl

/-! ### Bad frames -/

/-- The catalogue holds one row for a code, of at most 38 argument bytes. -/
theorem catalogue_unique : ∀ x ∈ catalogue, ∀ y ∈ catalogue, x.code = y.code → x = y := by decide

theorem catalogue_lengths : ∀ x ∈ catalogue, ∀ n ∈ x.lengths, n ≤ 38 := by decide

/-- The row of a code, where there is one. -/
theorem commandRow_eq_some {code : Nat} {x : CommandRow} :
    commandRow code = some x ↔ x ∈ catalogue ∧ x.code = code := by
  refine ⟨fun h => ⟨List.mem_of_find?_eq_some h, ?_⟩, fun ⟨hmem, hcode⟩ => ?_⟩
  · exact beq_iff_eq.mp (List.find?_some (p := fun r : CommandRow => r.code == code) h)
  · cases hrow : commandRow code with
    | none =>
      have hnot := List.find?_eq_none.mp hrow x hmem
      exact absurd (beq_iff_eq.mpr hcode) hnot
    | some y =>
      have hycode : y.code = code := beq_iff_eq.mp (List.find?_some (p := fun r : CommandRow => r.code == code) hrow)
      rw [catalogue_unique y (List.mem_of_find?_eq_some hrow) x hmem (hycode.trans hcode.symm)]

/-- R197: what one row of the catalogue says of a frame. -/
def RowRejects (row : CommandRow) (code n : Byte) (rest : List Byte) : Prop :=
  row.code ≠ code.toNat ∨ n.toNat ∉ row.lengths ∨ (code.toNat ≠ 1 ∧ code.toNat ≠ 2 ∧ rest.length ≠ n.toNat)

/-- R197: the test of a frame on its row. -/
theorem rowTest_iff {row : CommandRow} {code n : Byte} {rest : List Byte} (hmem : row ∈ catalogue)
    (hcode : row.code = code.toNat) :
    (decide (38 < n.toNat) || !row.lengths.contains n.toNat ||
      (!isStreamed code.toNat && rest.length != n.toNat)) = true ↔ RowRejects row code n rest := by
  have hstreamed : (!isStreamed code.toNat) = true ↔ code.toNat ≠ 1 ∧ code.toNat ≠ 2 := by
    simp [isStreamed]
  have hlength : (!row.lengths.contains n.toNat) = true ↔ n.toNat ∉ row.lengths := by simp
  rw [Bool.or_eq_true, Bool.or_eq_true, Bool.and_eq_true, hstreamed, hlength, decide_eq_true_iff, bne_iff_ne, RowRejects]
  have hbig : 38 < n.toNat → n.toNat ∉ row.lengths := fun h hin => by
    have := catalogue_lengths row hmem _ hin
    omega
  constructor
  · rintro ((h | h) | ⟨⟨h1, h2⟩, h3⟩)
    · exact .inr (.inl (hbig h))
    · exact .inr (.inl h)
    · exact .inr (.inr ⟨h1, h2, h3⟩)
  · rintro (h | h | ⟨h1, h2, h3⟩)
    · exact absurd hcode h
    · exact .inl (.inr h)
    · exact .inr ⟨⟨h1, h2⟩, h3⟩

/-- R197: what the frame check rejects, in a frame of two bytes or more. -/
theorem frameBad_iff {f : Frame} {code n : Byte} {rest : List Byte} (hbytes : f.bytes = code :: n :: rest) :
    frameBad f = true ↔ f.part = true ∨ ∀ row ∈ catalogue, RowRejects row code n rest := by
  rw [frameBad, hbytes]
  dsimp only
  rw [Bool.or_eq_true]
  refine or_congr_right ?_
  cases hrow : commandRow code.toNat with
  | none =>
    refine ⟨fun _ row hmem => .inl fun hcode => ?_, fun _ => rfl⟩
    have hsome := commandRow_eq_some.mpr ⟨hmem, hcode⟩
    exact nomatch hrow.symm.trans hsome
  | some row =>
    obtain ⟨hmem, hcode⟩ := commandRow_eq_some.mp hrow
    refine (rowTest_iff hmem hcode).trans ⟨fun h row' hmem' => ?_, fun h => h row hmem⟩
    by_cases hcode' : row'.code = code.toNat
    · rwa [catalogue_unique row' hmem' row hmem (hcode'.trans hcode.symm)]
    · exact .inl hcode'

/-- Settles O33. -/
theorem badFramesAreAnswered : Obligations.BadFramesAreAnswered := by
  intro port f s
  refine ⟨fun hempty => if_pos hempty, fun hbytes hbad => ?_, fun hbytes => ?_⟩
  · rw [exec_badFrame_malformed port f s hbytes hbad, malformed, State.openFrame, State.onPort, State.onPort]
    rw [State.disarm, PerPort.get_set_same, PerPort.set_set]
    cases hb : f.bytes with
    | nil => exact absurd hb hbytes
    | cons b bs => rfl
  · cases hb : f.bytes with
    | nil => exact absurd hb hbytes
    | cons code tail =>
      cases tail with
      | nil => exact ⟨fun _ => .inl rfl, fun _ => by rw [frameBad, hb]⟩
      | cons n rest =>
        rw [frameBad_iff hb]
        refine ⟨fun h => .inr (h.imp id fun hrows row hmem code' n' rest' heq => ?_), fun h => ?_⟩
        · cases heq
          exact hrows row hmem
        · exact h.elim (fun hone => nomatch hone) fun h' => h'.imp id fun hrows row hmem => hrows row hmem _ _ _ rfl

/-! ### Permissions -/

/-- The requests that reply through the slot are taken as R198 says. -/
theorem exec_of_slotRequest {i : Instr} {port : Port} (h : slotRequest i = some port) (s : State) :
    ∃ body, exec i s = .next (takeRequest port i s body) := by
  cases i <;> cases h <;> exact ⟨_, rfl⟩

/-- The codes of those requests. -/
def slotCodes : List Nat :=
  [3, 4, 8, 9, 10, 16, 17, 18, 19, 24, 25, 26, 27, 28, 29, 32, 33, 34, 40, 41, 48, 49, 50, 56, 57]

theorem commandCode_mem_slotCodes {i : Instr} {port : Port} (h : slotRequest i = some port) :
    commandCode i ∈ slotCodes := by
  cases i <;> cases h <;> simp [commandCode, slotCodes]

/-- R198: the catalogue's ports, code by code. -/
theorem permitted_iff : ∀ code ∈ slotCodes, ∀ port ∈ allPorts, permitted code port = false ↔
    (code ∈ [16, 17, 18] ∧ port ≠ .portP) ∨ (code = 19 ∧ port = .portQ) ∨ (code ∈ [24, 32] ∧ port = .portF) ∨
    (code ∈ [26, 28] ∧ port ≠ .portF) ∨ (code ∈ [33, 48, 49, 50] ∧ port ≠ .portQ) := by
  decide

/-- Settles O35. -/
theorem requestsOnOtherPortsAreNotPermitted : Obligations.RequestsOnOtherPortsAreNotPermitted := by
  refine ⟨fun i port s hi hperm => ?_, fun i port hi => ?_⟩
  · obtain ⟨body, hexec⟩ := exec_of_slotRequest hi s
    rw [hexec, takeRequest_notPermitted port i s body hperm]
  · exact permitted_iff _ (commandCode_mem_slotCodes hi) port (by cases port <;> decide)

/-! ### Notices -/

/-- Two changes of one port, in the other order. -/
theorem onPort_swap (u : State) (port : Port) {f g k : PortState → PortState} (h : ∀ p, k (f p) = g (k p)) :
    (u.onPort port f).onPort port k = (u.onPort port k).onPort port g := by
  rw [State.onPort, State.onPort, State.onPort, State.onPort, PerPort.get_set_same, PerPort.set_set,
    PerPort.get_set_same, PerPort.set_set, h]

/-- R198: a request that changes its port only. -/
theorem exec_onPort {port : Port} {i : Instr} {s : State} {f : PortState → PortState} {g : PortState → PortState}
    (hexec : exec i s = .next (takeRequest port i s fun t => (t.onPort port f, Answer.plain .done)))
    (hperm : permitted (commandCode i) port = true)
    (hplace : ∀ p c a, (f p).place c a = g (p.place c a)) :
    exec i s = .next ((s.answered port i .done []).onPort port g) := by
  have hanswered := State.taken_answered s port i (Answer.plain .done)
  have htaken : takeRequest port i s (fun t => (t.onPort port f, Answer.plain .done)) =
      ((s.taken port i).onPort port f).onPort port fun p => p.place (BitVec.ofNat 8 (commandCode i)) (Answer.plain .done) :=
    takeRequest_permitted port i s _ hperm
  rw [hexec, htaken, onPort_swap (s.taken port i) port fun p => hplace p _ _]
  exact congrArg (fun t : State => Host.Outcome.next (t.onPort port g)) hanswered

theorem permitted_setNotices (port : Port) (n : Byte) : permitted (commandCode (.setNotices port n)) port = true := by
  cases port <;> rfl

theorem permitted_ackNotices (port : Port) (n : Byte) : permitted (commandCode (.ackNotices port n)) port = true := by
  cases port <;> rfl

/-- Settles O34. -/
theorem noticesAreSetAndAcknowledged : Obligations.NoticesAreSetAndAcknowledged := by
  intro port n s t
  refine ⟨fun ht => ?_, fun ht => ?_, ?_⟩
  · subst ht
    exact exec_onPort (g := fun p => { p with enable := n }) rfl (permitted_setNotices port n) fun _ _ _ => rfl
  · subst ht
    exact exec_onPort (g := fun p => { p with raw := p.raw &&& ~~~n }) rfl (permitted_ackNotices port n)
      fun _ _ _ => rfl
  · rw [PortState.attn, bne_iff_ne]

/-! ### The span of the queue -/

section
variable {s : State} {n h t : Nat}

theorem spanStatus_empty (hq : s.rt.queue = []) : s.spanStatus n = some .noSuchRepeat := by
  rw [State.spanStatus, State.headSeq, State.tailSeq, hq]
  rfl

theorem spanStatus_tooLate (hh : s.headSeq = some h) (ht : s.tailSeq = some t) (hlow : n < h) :
    s.spanStatus n = some .tooLate := by
  rw [State.spanStatus, hh, ht]
  exact if_pos hlow

theorem spanStatus_beyond (hh : s.headSeq = some h) (ht : s.tailSeq = some t) (hlow : h ≤ n) (hhigh : t < n) :
    s.spanStatus n = some .noSuchRepeat := by
  rw [State.spanStatus, hh, ht]
  exact (if_neg (not_lt.mpr hlow)).trans (if_pos hhigh)

theorem spanStatus_within (hh : s.headSeq = some h) (ht : s.tailSeq = some t) (hlow : h ≤ n) (hhigh : n ≤ t) :
    s.spanStatus n = none := by
  rw [State.spanStatus, hh, ht]
  exact (if_neg (not_lt.mpr hlow)).trans (if_neg (not_lt.mpr hhigh))

end

/-! ### Requests that read -/

section
variable {port : Port} {s : State}

/-- R198: a request that reads is answered what it reads. -/
theorem exec_reads {i : Instr} {read : State → Answer} {a : Answer}
    (hexec : exec i s = .next (takeRequest port i s fun t => (t, read t)))
    (hperm : permitted (commandCode i) port = true) (hread : read (s.taken port i) = a) :
    exec i s = .next (s.answered port i a.status a.data) :=
  exec_answered a hexec hperm (congrArg (Prod.mk (s.taken port i)) hread)

theorem readRecipeAnswer_of {n : Nat} {i : Fin 8} (h : n = i.val + 1) (t : State) :
    readRecipeAnswer n t = if (!t.ps.isIdle) = true then Answer.plain .busy
      else match t.ps.array.slots[i] with
        | none => Answer.plain .emptySlot
        | some r => ⟨.done, recipeImageBytes (r.image n)⟩ := by
  rw [readRecipeAnswer, slotPlace_of h]
  rfl

/-- R139: one roll read. -/
theorem readRollAnswer_some (n : BitVec 32) (t : State) : readRollAnswer (some n.toNat) t =
    ⟨if n = 0 then .outOfRange else if (t.findRoll n.toNat).isSome then .done else .notFound,
      if n = 0 then [] else ((t.findRoll n.toNat).map Roll.bytes).getD []⟩ := by
  unfold readRollAnswer
  by_cases hzero : n = 0
  · rw [if_pos hzero, if_pos hzero, hzero]
    rfl
  · have hnat : ¬n.toNat = 0 := fun h => hzero (BitVec.eq_of_toNat_eq h)
    rw [if_neg hzero, if_neg hzero]
    refine (if_neg hnat).trans ?_
    cases t.findRoll n.toNat <;> rfl

/-- R107: one batch read. -/
theorem readBatchAnswer_some (n : BitVec 32) (t : State) : readBatchAnswer (some n.toNat) t =
    ⟨if n = 0 ∨ 16777215 < n.toNat then .outOfRange
      else if (t.findBatch n.toNat).isSome then .done else .notFound,
      if n = 0 ∨ 16777215 < n.toNat then [] else ((t.findBatch n.toNat).map BatchEntry.bytes).getD []⟩ := by
  unfold readBatchAnswer
  have hzero : n.toNat = 0 ↔ n = 0 := ⟨fun h => BitVec.eq_of_toNat_eq h, fun h => by rw [h]; rfl⟩
  by_cases hbad : n = 0 ∨ 16777215 < n.toNat
  · rw [if_pos hbad, if_pos hbad]
    exact if_pos (hbad.imp hzero.mpr id)
  · rw [if_neg hbad, if_neg hbad]
    refine (if_neg fun h => hbad (h.imp hzero.mp id)).trans ?_
    cases t.findBatch n.toNat <;> rfl

/-- R59: a seq outside the queue. -/
theorem readRepeatAnswer_outside {n : Nat} {t : State} {st : Status} (h : t.spanStatus n = some st) :
    readRepeatAnswer n t = ⟨st, spanBytes t⟩ := by
  rw [readRepeatAnswer, h]

theorem readRepeatAnswer_found {n : Nat} {t : State} {k : RepeatRecord} (h : t.spanStatus n = none)
    (hk : t.findRecord n = some k) : readRepeatAnswer n t = ⟨.done, k.bytes ++ spanBytes t⟩ := by
  rw [readRepeatAnswer, h]
  dsimp only
  rw [hk]

theorem spanBytes_of {s : State} {h t : Nat} (hh : s.headSeq = some h) (ht : s.tailSeq = some t) :
    spanBytes s = leBytes 4 h ++ leBytes 4 t := by
  rw [spanBytes, hh, ht]
  rfl

end

/-- Settles O36, request by request. -/
theorem readRequestsChangeNoBlock : Obligations.ReadRequestsChangeNoBlock := by
  intro port s
  have hrecipe (slot : Byte) : permitted (commandCode (.readRecipe port slot)) port = true := by cases port <;> rfl
  have hrepeat (seq : BitVec 32) : permitted (commandCode (.readRepeat port seq)) port = true := by cases port <;> rfl
  have hroll (n : Option (BitVec 32)) : permitted (commandCode (.readRoll port n)) port = true := by cases port <;> rfl
  have hbatch (n : Option (BitVec 32)) : permitted (commandCode (.readBatch port n)) port = true := by
    cases port <;> rfl
  refine ⟨fun slot hslot => ?_, fun slot n hn => ⟨fun hop => ?_, fun hop hnone => ?_, fun r hop hr => ?_⟩, ?_, ?_,
    fun seq hq => ?_, fun seq h t span hh ht hspan => ⟨fun hlow => ?_, fun hlow hhigh => ?_, fun k hlow hhigh hk => ?_⟩,
    fun n => ?_, ?_, fun n => ?_, ?_, fun start => ?_⟩
  · refine exec_reads (a := Answer.plain .outOfRange) rfl (hrecipe slot) ?_
    rw [readRecipeAnswer, slotPlace_outside hslot]
  · exact exec_reads (a := Answer.plain .busy) rfl (hrecipe slot)
      ((readRecipeAnswer_of hn _).trans (if_pos (not_isIdle hop)))
  · refine exec_reads (a := Answer.plain .emptySlot) rfl (hrecipe slot)
      ((readRecipeAnswer_of hn _).trans ((if_neg (isIdle_not hop)).trans ?_))
    rw [show (s.taken port (.readRecipe port slot)).ps.array.slots[n] = none from hnone]
  · refine exec_reads (a := ⟨.done, recipeImageBytes (r.image slot.toNat)⟩) rfl (hrecipe slot)
      ((readRecipeAnswer_of hn _).trans ((if_neg (isIdle_not hop)).trans ?_))
    rw [show (s.taken port (.readRecipe port slot)).ps.array.slots[n] = some r from hr]
  · exact exec_reads (read := fun t => ⟨.done, setupArgBytes t.ps.setup.args ++ [boolByte t.ps.setupStored]⟩) rfl
      (by cases port <;> rfl) rfl
  · exact exec_reads (read := fun t => ⟨.done, counterBytes t.ps⟩) rfl (by cases port <;> rfl) rfl
  · have hempty : s.spanStatus seq.toNat = some .noSuchRepeat := spanStatus_empty hq
    have hbytes : spanBytes s = leBytes 4 0 ++ leBytes 4 0 := by
      rw [spanBytes, State.headSeq, State.tailSeq, hq]
      rfl
    rw [← hbytes]
    exact exec_reads (a := ⟨.noSuchRepeat, spanBytes s⟩) rfl (hrepeat seq)
      (readRepeatAnswer_outside (t := s.taken port (.readRepeat port seq)) hempty)
  · rw [hspan, ← spanBytes_of hh ht]
    exact exec_reads (a := ⟨.tooLate, spanBytes s⟩) rfl (hrepeat seq)
      (readRepeatAnswer_outside (t := s.taken port (.readRepeat port seq)) (spanStatus_tooLate hh ht hlow))
  · rw [hspan, ← spanBytes_of hh ht]
    exact exec_reads (a := ⟨.noSuchRepeat, spanBytes s⟩) rfl (hrepeat seq)
      (readRepeatAnswer_outside (t := s.taken port (.readRepeat port seq)) (spanStatus_beyond hh ht hlow hhigh))
  · rw [hspan, ← spanBytes_of hh ht]
    exact exec_reads (a := ⟨.done, k.bytes ++ spanBytes s⟩) rfl (hrepeat seq)
      (readRepeatAnswer_found (t := s.taken port (.readRepeat port seq)) (spanStatus_within hh ht hlow hhigh) hk)
  · exact exec_reads rfl (hroll (some n)) (readRollAnswer_some n (s.taken port (.readRoll port (some n))))
  · exact exec_reads (a := ⟨.done, rollList s⟩) rfl (hroll none) rfl
  · exact exec_reads rfl (hbatch (some n)) (readBatchAnswer_some n (s.taken port (.readBatch port (some n))))
  · exact exec_reads (a := ⟨.done, batchList s⟩) rfl (hbatch none) rfl
  · exact exec_reads (read := fun t => ⟨.done, eventsData t.events start.toNat⟩) rfl (by cases port <;> rfl) rfl

/-! ### RESUME LINE -/

/-- R31, R181: the commit request that RESUME LINE makes. -/
theorem retryPending_eq (ps : PersistentStore) : ps.retryPending =
    if ps.commitPending = false then ps else match ps.op with
      | .idle => { ps with
          commitPending := false
          array := { ps.array with counters := none }
          op := .committing ⟨ps.reservedNow, 0, false⟩ }
      | .writing w _ => { ps with op := .writing w true }
      | .committing _ => ps
      | .committingOver _ _ => ps := by
  unfold PersistentStore.retryPending
  cases hpending : ps.commitPending with
  | false => rfl
  | true =>
    rw [if_pos rfl, if_neg (nofun : ¬true = false)]
    cases hop : ps.op with
    | idle =>
      dsimp only
      rw [PersistentStore.requestCommit, hop]
      rfl
    | writing w due =>
      dsimp only
      rw [PersistentStore.requestCommit, hop]
      exact congrArg (fun b : Bool => { ps with op := .writing w true, commitPending := b }) hpending
    | committing c => rfl
    | committingOver c w => rfl

/-- Settles O38. -/
theorem resumeLineClearsTheStopLatch : Obligations.ResumeLineClearsTheStopLatch := by
  intro port s
  have hperm : permitted (commandCode (.resumeLine port)) port = true := by cases port <;> rfl
  rw [exec_effect (t := { s with sc := { s.sc with stopLatch := false }, ps := s.ps.retryPending })
    (Answer.plain .done) rfl hperm rfl, retryPending_eq]
  rfl

end Sys2Proof.Proofs
end

section
/-! PROOFS. The session requests: CLEAR LINE, LOAD RECIPE, START RUN and END RUN (R20 to R24, R27 to R29, R105, R134). -/

namespace Sys2Proof.Proofs

open Sys2Proof Sys2Proof.Machine

/-! ### Steps that change the Batch Table alone -/

/-- A state but for its batches. -/
def OnlyBatches (s t : State) : Prop := t = { s with batches := t.batches }

theorem OnlyBatches.trans {s t u : State} (h : OnlyBatches s t) (h' : OnlyBatches t u) : OnlyBatches s u := by
  unfold OnlyBatches at *
  rw [h] at h'
  exact h'

theorem foldl_onlyBatches {β : Type} {f : State → β → State} (hf : ∀ t b, OnlyBatches t (f t b)) (l : List β)
    (s : State) : OnlyBatches s (l.foldl f s) := by
  induction l generalizing s with
  | nil => exact rfl
  | cons b l ih => exact (hf s b).trans (ih (f s b))

theorem lowerQueued_onlyBatches (s : State) (v : ShadeVerdict) : OnlyBatches s (lowerQueued s v) := by
  cases v <;> rfl

theorem lowerRolls_onlyBatches (s : State) (code : Nat) : OnlyBatches s (lowerRolls s code) := rfl

/-! ### CLEAR LINE -/

/-- R28: the Repeat Queue emptied. -/
theorem clearQueue_eq (s : State) : clearQueue s = { s with
    rt := { s.rt with queue := [], emboss := ⟨.seeking, 0⟩, knife := ⟨.seeking, 0⟩ }
    batches := s.batches.map fun b => b.unqueued s.rt.queue } := by
  have honly : OnlyBatches s (s.rt.queue.foldl (fun t k => lowerQueued t k.shade) s) :=
    foldl_onlyBatches (fun t (k : RepeatRecord) => lowerQueued_onlyBatches t k.shade) _ s
  have hbatches := foldl_lowerQueued s.rt.queue s
  unfold OnlyBatches at honly
  rw [clearQueue, honly, hbatches]

/-- The rolls that CLEAR LINE removes. -/
def State.rollsInFlight (s : State) : List Roll := s.rb.rolls.filter Roll.inFlight

/-- R28, R136: the rolls in flight removed. -/
theorem clearRolls_eq (s : State) : clearRolls s = { s with
    rb := { s.rb with
      rolls := s.rb.rolls.filter fun x => !x.inFlight, segment := .none, nextDrop := .a, pendingDrop := false }
    batches := s.batches.map fun b => { b with
      rolls := b.rolls - (State.rollsInFlight s).countP fun x => x.batch == b.code } } := by
  have honly : OnlyBatches s ((State.rollsInFlight s).foldl (fun t x => lowerRolls t x.batch) s) :=
    foldl_onlyBatches (fun t (x : Roll) => lowerRolls_onlyBatches t x.batch) _ s
  have hbatches := foldl_lowerRolls (State.rollsInFlight s) s
  unfold OnlyBatches State.rollsInFlight at *
  rw [clearRolls, honly, hbatches]

/-- The web in flight removed. -/
def clearedWeb (s : State) : State := clearRolls (clearKnife (clearQueue s))

theorem clearedWeb_eq (s : State) : clearedWeb s = { s with
    wpu := { s.wpu with reach := false }
    rt := { s.rt with queue := [], emboss := ⟨.seeking, 0⟩, knife := ⟨.seeking, 0⟩ }
    ks := ⟨[], none, false, .waste⟩
    rb := { s.rb with
      rolls := s.rb.rolls.filter fun x => !x.inFlight, segment := .none, nextDrop := .a, pendingDrop := false }
    batches := (s.batches.map fun b => b.unqueued s.rt.queue).map fun b => { b with
      rolls := b.rolls - (State.rollsInFlight s).countP fun x => x.batch == b.code } } := by
  rw [clearedWeb, clearQueue_eq, clearRolls_eq]
  rfl

theorem closeAndFreeBatches_eq (s : State) : closeAndFreeBatches s = { s with
    batches := (closeAndFreeBatches s).batches
    ports := (closeAndFreeBatches s).ports } := by
  unfold closeAndFreeBatches
  split_ifs <;> rfl

/-- R29: the batches closed and the spent ones freed. -/
theorem closeAndFree_clearedWeb (s : State) :
    (closeAndFreeBatches (clearedWeb s)).batches = s.batchesLeft (State.rollsInFlight s) := by
  rw [closeAndFreeBatches_left, clearedWeb_eq, State.batchesLeft, List.map_map, List.map_map]
  rfl

/-- R28, R29: the state before LINE_CLEARED is logged. -/
def clearedLine (s : State) (r : Recipe) : State :=
  { clearedWeb s with
    sc := { s.sc with session := .loaded .armed r, clearArmed := ⟨false, false, false⟩ }
    erc := s.erc.switchedOff
    batches := s.batchesLeft (State.rollsInFlight s)
    ports := (closeAndFreeBatches (clearedWeb s)).ports.map fun q =>
      { q with raw := q.raw ||| if s.erc.mode = .off then 0 else 0x20 } }

theorem clearNow_eq (s : State) (r : Recipe) : clearNow s r =
    (logEvent (clearedLine s r) ⟨.lineCleared, .line, none, none, none, extraNat s.rt.queue.length⟩).raiseAll
      noticeCleared := by
  have hclosed := closeAndFreeBatches_eq (clearedWeb s)
  rw [closeAndFree_clearedWeb] at hclosed
  have herc : (closeAndFreeBatches (clearedWeb s)).erc = s.erc := by rw [hclosed, clearedWeb_eq]
  have hoff := ercOff_eq (closeAndFreeBatches (clearedWeb s))
  rw [herc] at hoff
  have hsc : (closeAndFreeBatches (clearedWeb s)).sc = s.sc := by rw [hclosed, clearedWeb_eq]
  have hline : { (ercOff (closeAndFreeBatches (clearedWeb s))).enter .armed r with
      sc := { ((ercOff (closeAndFreeBatches (clearedWeb s))).enter .armed r).sc with
        clearArmed := ⟨false, false, false⟩ } } = clearedLine s r := by
    rw [hoff, State.enter]
    dsimp only
    rw [hsc, clearedLine, hclosed]
  exact congrArg (fun t : State => (logEvent t
    ⟨.lineCleared, .line, none, none, none, extraNat s.rt.queue.length⟩).raiseAll noticeCleared) hline

theorem clearedLine_eq (s : State) (r : Recipe) : clearedLine s r = { s with
    wpu := { s.wpu with reach := false }
    sc := { s.sc with session := .loaded .armed r, clearArmed := ⟨false, false, false⟩ }
    rt := { s.rt with queue := [], emboss := ⟨.seeking, 0⟩, knife := ⟨.seeking, 0⟩ }
    erc := s.erc.switchedOff
    batches := s.batchesLeft (State.rollsInFlight s)
    rb := { s.rb with
      rolls := s.rb.rolls.filter fun x => !x.inFlight, segment := .none, nextDrop := .a, pendingDrop := false }
    ks := ⟨[], none, false, .waste⟩
    ports := (clearedLine s r).ports } := by
  have hweb := clearedWeb_eq s
  exact congrArg (fun t : State => { t with
    sc := { s.sc with session := .loaded .armed r, clearArmed := ⟨false, false, false⟩ }
    erc := s.erc.switchedOff
    batches := s.batchesLeft (State.rollsInFlight s)
    ports := (clearedLine s r).ports }) hweb

/-- R28, R29: what a CLEAR LINE does to each block. -/
theorem clearNow_frame (s : State) (r : Recipe) :
    (clearNow s r).sc = { s.sc with session := .loaded .armed r, clearArmed := ⟨false, false, false⟩ } ∧
    (clearNow s r).rt = { s.rt with queue := [], emboss := ⟨.seeking, 0⟩, knife := ⟨.seeking, 0⟩ } ∧
    (clearNow s r).ks = ⟨[], none, false, .waste⟩ ∧ (clearNow s r).wpu = { s.wpu with reach := false } ∧
    (clearNow s r).rb = { s.rb with
      rolls := s.rb.rolls.filter fun x => !x.inFlight, segment := .none, nextDrop := .a, pendingDrop := false } ∧
    (clearNow s r).erc = s.erc.switchedOff ∧
    (clearNow s r).batches = s.batchesLeft (State.rollsInFlight s) ∧ (clearNow s r).ld = s.ld ∧
    (clearNow s r).ps = s.ps ∧
    (clearNow s r).events = (logEvent s ⟨.lineCleared, .line, none, none, none, extraNat s.rt.queue.length⟩).events := by
  have hnote := logEvent_sc_of_note (clearedLine s r)
    ⟨.lineCleared, .line, none, none, none, extraNat s.rt.queue.length⟩ rfl
  rw [clearNow_eq]
  refine ⟨hnote, ?_⟩
  rw [clearedLine_eq]
  exact ⟨rfl, rfl, rfl, rfl, rfl, rfl, rfl, rfl, rfl⟩

/-- R29, R202: the notices of a CLEAR LINE. -/
theorem clearNow_raw (s : State) (r : Recipe) (q : Port) : ((clearNow s r).ports.get q).raw =
    (s.ports.get q).raw ||| (noticeEvent ||| noticeCleared |||
      (if s.batches.any BatchEntry.active = true ∨
        (s.batchesLeft (State.rollsInFlight s)).length < s.batches.length then noticeBatch else 0) |||
      if s.erc.mode = .off then 0 else noticeRegister) := by
  have hweb : ((clearedWeb s).ports.get q).raw = (s.ports.get q).raw := by rw [clearedWeb_eq]
  have hactive : (clearedWeb s).batches.any BatchEntry.active = s.batches.any BatchEntry.active := by
    rw [clearedWeb_eq]
    refine (any_active_map _ _ fun b => ?_).trans (any_active_map _ _ fun b => ?_)
    · rfl
    · rfl
  have hlength : (clearedWeb s).batches.length = s.batches.length := by
    rw [clearedWeb_eq]
    exact (List.length_map _).trans (List.length_map _)
  have hclosed := closeAndFreeBatches_raw (clearedWeb s) q
  rw [hweb, hactive, hlength, closeAndFree_clearedWeb] at hclosed
  have hraised : ((clearNow s r).ports.get q).raw = (((closeAndFreeBatches (clearedWeb s)).ports.get q).raw |||
      (if s.erc.mode = .off then 0 else noticeRegister)) ||| noticeEvent ||| noticeCleared := by
    rw [clearNow_eq]
    cases q <;> rfl
  rw [hraised, hclosed]
  ac_rfl

/-- R198: what the reply placed leaves of a port. -/
theorem place_raw (u : State) (port q : Port) (c : Byte) (a : Answer) :
    ((u.onPort port fun p => p.place c a).ports.get q).raw = (u.ports.get q).raw := by
  cases port <;> cases q <;> rfl

theorem place_slot (u : State) (port : Port) (c : Byte) (a : Answer) :
    ((u.onPort port fun p => p.place c a).ports.get port).slot = ⟨a.status, c, a.data, false⟩ := by
  rw [State.onPort, PerPort.get_set_same, PortState.place]

theorem taken_raw (s : State) (port : Port) (i : Instr) (q : Port) :
    ((s.taken port i).ports.get q).raw = (s.ports.get q).raw := by
  cases port <;> cases q <;> rfl

/-- The frame of a request is no event. -/
theorem logEvent_events_taken (port : Port) (i : Instr) (s : State) (e : EventReport) :
    (logEvent (s.taken port i) e).events = (logEvent s e).events := logEvent_events_congr e rfl rfl rfl

/-- R27: CLEAR LINE carried out. -/
theorem exec_clearLine_cleared {port : Port} {s : State} {run : RunState} {r : Recipe}
    (harmed : s.sc.clearArmed.get port = true) (hsession : s.sc.session = .loaded run r) :
    exec (.clearLine port) s = .next ((clearNow (s.taken port (.clearLine port)) r).onPort port fun p =>
      p.place 10 (Answer.plain .done)) := by
  have hbody : clearLineBody (s.sc.clearArmed.get port) (s.taken port (.clearLine port)) =
      (clearNow (s.taken port (.clearLine port)) r, Answer.plain .done) := by
    have htaken : (s.taken port (.clearLine port)).sc.session = .loaded run r := hsession
    rw [clearLineBody, harmed, htaken]
    rfl
  refine congrArg Host.Outcome.next ((takeRequest_permitted _ _ _ _ (permitted_clearLine port)).trans ?_)
  rw [hbody]
  rfl

/-- Settles O39: the web in flight, the batches left and the notices. -/
theorem clearLineRemovesTheWebInFlight : Obligations.ClearLineRemovesTheWebInFlight := by
  intro port s
  refine ⟨exec_clearLine_notArmed port s, exec_clearLine_unloaded port s, fun run r harmed hsession => ?_⟩
  refine ⟨_, exec_clearLine_cleared harmed hsession, ?_⟩
  obtain ⟨hsc, hrt, hks, hwpu, hrb, herc, hbatches, hld, hps, hevents⟩ :=
    clearNow_frame (s.taken port (.clearLine port)) r
  have hraw (q : Port) := clearNow_raw (s.taken port (.clearLine port)) r q
  have hlogged := logEvent_events_taken port (.clearLine port) s
    ⟨.lineCleared, .line, none, none, none, extraNat s.rt.queue.length⟩
  refine ⟨?_, ?_, hrt, hks, hwpu, hrb, herc, hbatches, hld, hps, ?_, fun q => ?_, place_slot _ port 10 _⟩
  · rw [State.onPort_sc, hsc]
    rfl
  · rw [State.onPort_sc, hsc]
    rfl
  · rw [State.onPort_events, hevents, ← hlogged]
    rfl
  · rw [place_raw, State.onPort_batches, hraw q, taken_raw, hbatches]
    rfl

/-! ### LOAD RECIPE -/

theorem setErc_taken (port : Port) (i : Instr) (s : State) (c : Erc) :
    setErc (s.taken port i) c = (setErc s c).taken port i := by
  have herc : (s.taken port i).erc = s.erc := rfl
  unfold setErc
  rw [herc]
  dsimp only
  by_cases hmode : c.mode = s.erc.mode
  · rw [if_pos hmode, if_pos hmode]
    rfl
  · rw [if_neg hmode, if_neg hmode]
    exact raiseAll_taken port i { s with erc := c } noticeRegister

theorem loadNow_taken (port : Port) (i : Instr) (s : State) (r : Recipe) :
    loadNow (s.taken port i) r = (loadNow s r).taken port i := by
  have hoff : ercOff (s.taken port i) = (ercOff s).taken port i := setErc_taken port i s _
  rw [loadNow, hoff, loadNow]
  rfl

theorem loadNow_eq (s : State) (r : Recipe) : loadNow s r = { s with
    sc := { s.sc with session := .loaded .armed r }
    erc := s.erc.switchedOff
    ports := if s.erc.mode = .off then s.ports else s.ports.map fun q => q.raise noticeRegister } := by
  rw [loadNow, ercOff, setErc]
  dsimp only
  by_cases hoff : s.erc.mode = .off
  · rw [if_pos hoff.symm, if_pos hoff]
    rfl
  · rw [if_neg fun h => hoff h.symm, if_neg hoff]
    rfl

section
variable {n : Nat} {u : State}

theorem loadRecipeBody_inRun (h : u.sc.session.inRun = true) : loadRecipeBody n u = (u, Answer.plain .wrongState) := by
  unfold loadRecipeBody
  cases hsession : u.sc.session with
  | unloaded =>
    rw [hsession] at h
    exact nomatch h
  | loaded run r =>
    cases run with
    | armed =>
      rw [hsession] at h
      exact nomatch h
    | running => rfl
    | draining => rfl

theorem loadRecipeBody_outside (h : u.sc.session.inRun = false) : loadRecipeBody n u = loadSlot n u := by
  unfold loadRecipeBody
  cases hsession : u.sc.session with
  | unloaded => rfl
  | loaded run r =>
    rw [hsession] at h
    cases run with
    | armed => rfl
    | running => exact nomatch h
    | draining => exact nomatch h

/-- R20: the refusals of a slot, and its recipe. -/
theorem loadSlot_of {i : Fin 8} (h : n = i.val + 1) : loadSlot n u =
    if u.ps.validity = .invalid then (u, Answer.plain .storeFailed)
    else if (!u.ps.isIdle) = true then (u, Answer.plain .busy)
    else match u.ps.array.slots[i] with
      | none => (u, Answer.plain .emptySlot)
      | some r => (loadNow u r, Answer.plain .done) := by
  rw [loadSlot, slotPlace_of h]
  rfl

end

/-- Settles O40: the conditions in their order. -/
theorem loadRecipeOutcomes : Obligations.LoadRecipeOutcomes := by
  intro slot s i hi
  subst hi
  refine ⟨fun hrun => exec_plain rfl rfl (loadRecipeBody_inRun hrun), fun hrun => ?_⟩
  have hbody : loadRecipeBody slot.toNat (s.taken .portP (.loadRecipe .portP slot)) =
      loadSlot slot.toNat (s.taken .portP (.loadRecipe .portP slot)) := loadRecipeBody_outside hrun
  have hvalid : s.ps.validity = .valid → ¬s.ps.validity = .invalid := fun h => by rw [h]; nofun
  refine ⟨fun hslot => exec_plain rfl rfl (hbody.trans ?_), fun n hn => ⟨fun hinv => ?_, fun hv hop => ?_,
    fun hv hop hempty => ?_, fun r hv hop hr => ?_⟩⟩
  · rw [loadSlot, slotPlace_outside hslot]
  · exact exec_plain rfl rfl (hbody.trans ((loadSlot_of hn).trans (if_pos hinv)))
  · exact exec_plain rfl rfl (hbody.trans ((loadSlot_of hn).trans ((if_neg (hvalid hv)).trans
      (if_pos (not_isIdle hop)))))
  · refine exec_plain rfl rfl (hbody.trans ((loadSlot_of hn).trans ((if_neg (hvalid hv)).trans
      ((if_neg (isIdle_not hop)).trans ?_))))
    rw [show (s.taken .portP (.loadRecipe .portP slot)).ps.array.slots[n] = none from hempty]
  · rw [exec_effect (t := loadNow s r) (Answer.plain .done) rfl rfl (hbody.trans ((loadSlot_of hn).trans
      ((if_neg (hvalid hv)).trans ((if_neg (isIdle_not hop)).trans ?_)))), loadNow_eq]
    · rfl
    · rw [show (s.taken .portP (.loadRecipe .portP slot)).ps.array.slots[n] = some r from hr]
      exact congrArg (fun t : State => (t, Answer.plain .done)) (loadNow_taken _ _ s r)

/-! ### START RUN -/

theorem webClear_iff (s : State) :
    s.webClear = true ↔ s.rt.queue = [] ∧ s.ks.queue = [] ∧ s.ks.outstanding = none := by
  simp only [State.webClear, Bool.and_eq_true, List.isEmpty_iff, Option.isNone_iff_eq_none, and_assoc]

theorem not_webClear {s : State} (h : s.rt.queue ≠ [] ∨ s.ks.queue ≠ [] ∨ s.ks.outstanding ≠ none) :
    ¬s.webClear = true := by
  rw [webClear_iff]
  rintro ⟨hqueue, hcuts, hout⟩
  exact h.elim (fun h' => h' hqueue) fun h' => h'.elim (fun h' => h' hcuts) fun h' => h' hout

/-- R64: what START RUN does to the ERC. -/
theorem ercStart_eq (s : State) (r : Recipe) : ercStart s r = { s with
    erc := if r.emboss then { s.erc with mode := .acquire } else s.erc
    ports := if r.emboss ∧ s.erc.mode ≠ .acquire then s.ports.map fun q => q.raise noticeRegister else s.ports } := by
  unfold ercStart
  by_cases hemboss : r.emboss = true
  · rw [if_pos hemboss, if_pos hemboss, setErc]
    dsimp only
    by_cases hmode : s.erc.mode = .acquire
    · rw [if_pos hmode.symm, if_neg fun h => h.2 hmode]
    · rw [if_neg fun h => hmode h.symm, if_pos ⟨hemboss, hmode⟩]
      rfl
  · rw [if_neg hemboss, if_neg hemboss, if_neg fun h => hemboss h.1]

theorem startRunNow_taken (port : Port) (i : Instr) (s : State) (r : Recipe) :
    startRunNow (s.taken port i) r = (startRunNow s r).taken port i := by
  have hstart : ercStart (s.taken port i) r = (ercStart s r).taken port i := by
    unfold ercStart
    split_ifs
    · exact setErc_taken port i s _
    · rfl
  rw [startRunNow, hstart, startRunNow]
  rfl

theorem startRunNow_eq (s : State) (r : Recipe) : startRunNow s r = { s with
    sc := { s.sc with session := .loaded .running r, nextSeq := 1, seqSpent := false }
    rt := { s.rt with leaderNext := true, emboss := ⟨.seeking, 0⟩, knife := ⟨.seeking, 0⟩ }
    erc := if r.emboss then { s.erc with mode := .acquire } else s.erc
    rb := { s.rb with segment := .none, nextDrop := .a, pendingDrop := false }
    ports := if r.emboss ∧ s.erc.mode ≠ .acquire then s.ports.map fun q => q.raise noticeRegister else s.ports } := by
  rw [startRunNow, ercStart_eq]
  rfl

section
variable {u : State} {r : Recipe}

theorem startRunBody_armed (h : u.sc.session = .loaded .armed r) : startRunBody u =
    if u.webClear = true then (startRunNow u r, Answer.plain .done) else (u, Answer.plain .wrongState) := by
  rw [startRunBody, h]

theorem startRunBody_wrong (h : ∀ r, u.sc.session ≠ .loaded .armed r) :
    startRunBody u = (u, Answer.plain .wrongState) := by
  unfold startRunBody
  cases hsession : u.sc.session with
  | unloaded => rfl
  | loaded run r =>
    cases run with
    | armed => exact absurd hsession (h r)
    | running => rfl
    | draining => rfl

/-! ### END RUN -/

theorem endRunBody_running (h : u.sc.session = .loaded .running r) :
    endRunBody u = (drainTest (u.enter .draining r), Answer.plain .done) := by
  rw [endRunBody, h]

theorem endRunBody_wrong (h : ∀ r, u.sc.session ≠ .loaded .running r) :
    endRunBody u = (u, Answer.plain .wrongState) := by
  unfold endRunBody
  cases hsession : u.sc.session with
  | unloaded => rfl
  | loaded run r =>
    cases run with
    | armed => rfl
    | running => exact absurd hsession (h r)
    | draining => rfl

/-- R24: with something queued or outstanding the drain goes on. -/
theorem drainTest_waits (h : u.rt.queue ≠ [] ∨ u.ks.queue ≠ [] ∨ u.ks.outstanding ≠ none) :
    drainTest (u.enter .draining r) = u.enter .draining r := if_neg (not_webClear h)

/-- R24: with nothing queued or outstanding it completes. -/
theorem drainTest_completes (hqueue : u.rt.queue = []) (hcuts : u.ks.queue = []) (hout : u.ks.outstanding = none)
    (hstray : NoStrayReach u) : drainTest (u.enter .draining r) = (u.enter .draining r).drained r := by
  exact (drainTest_settled (u.enter .draining r) hstray).trans (if_pos ⟨hqueue, hcuts, hout⟩)

end

/-- Settles O41. -/
theorem runsAreStartedAndEnded : Obligations.RunsAreStartedAndEnded := by
  intro s
  refine ⟨fun r hs hqueue hcuts hout => ?_, fun hnot => ?_, fun r hs hbusy => ?_,
    fun r hs hqueue hcuts hout hstray => ?_, fun hnot => exec_plain rfl rfl (endRunBody_wrong hnot)⟩
  · have hclear : (s.taken .portP (.startRun .portP)).webClear = true := (webClear_iff _).mpr ⟨hqueue, hcuts, hout⟩
    rw [exec_effect (t := startRunNow s r) (Answer.plain .done) rfl rfl
      ((startRunBody_armed (u := s.taken .portP (.startRun .portP)) hs).trans
        ((if_pos hclear).trans ?_)), startRunNow_eq]
    · rfl
    · rw [startRunNow_taken]
  · by_cases hs : ∃ r, s.sc.session = .loaded .armed r
    · obtain ⟨r, hs⟩ := hs
      have hbusy := hnot.resolve_left fun h => h r hs
      exact exec_plain rfl rfl ((startRunBody_armed (u := s.taken .portP (.startRun .portP)) hs).trans
        (if_neg (not_webClear hbusy)))
    · exact exec_plain rfl rfl (startRunBody_wrong fun r hr => hs ⟨r, hr⟩)
  · refine exec_effect (Answer.plain .done) rfl rfl ((endRunBody_running (u := s.taken .portP (.endRun .portP)) hs).trans ?_)
    exact congrArg (fun t : State => (t, Answer.plain .done))
      (drainTest_waits (u := s.taken .portP (.endRun .portP)) hbusy)
  · refine exec_effect (Answer.plain .done) rfl rfl ((endRunBody_running (u := s.taken .portP (.endRun .portP)) hs).trans ?_)
    have hdrained := drainTest_completes (u := s.taken .portP (.endRun .portP)) (r := r) hqueue hcuts hout hstray
    exact congrArg (fun t : State => (t, Answer.plain .done))
      (hdrained.trans (drained_taken .portP (.endRun .portP) (s.enter .draining r) r))

end Sys2Proof.Proofs
end

section
/-! PROOFS. FLUSH RUN (R25, R61, R100 to R105, R135): what it does to each block, the batches it leaves, and its
notices. -/

namespace Sys2Proof.Proofs

open Sys2Proof Sys2Proof.Machine

/-! ### The steps of a flush -/

/-- R25 step 1: every record has left the queue. -/
def flushedQueue (s : State) : State := s.rt.queue.foldl flushRecord s

/-- R25 step 2: the BUILDING roll has closed without an end cut. -/
def flushedRoll (s : State) (r : Recipe) : State := (flushClose (flushedQueue s) r).1

/-- R25 steps 3 to 5: the batches closed, the ERC OFF, the session ARMED. -/
def flushedLine (s : State) (r : Recipe) : State := (ercOff (closeBatches (flushedRoll s r))).enter .armed r

theorem flushNow_eq (s : State) (r : Recipe) : flushNow s r = logEvent (flushedLine s r)
    ⟨.runFlushed, .line, none, (flushClose (flushedQueue s) r).2, none, extraNat s.rt.queue.length⟩ := rfl

theorem flushRecord_wpu (s : State) (k : RepeatRecord) : (flushRecord s k).wpu = s.wpu := by
  rw [flushRecord, freeTestOf_reach, lowerQueued_onlyBatches]

theorem flushedQueue_frame (s : State) :
    (flushedQueue s).rt = { s.rt with queue := [] } ∧ (flushedQueue s).erc = s.erc ∧ (flushedQueue s).rb = s.rb ∧
    (flushedQueue s).ks = s.ks ∧ (flushedQueue s).ld = s.ld ∧ (flushedQueue s).ps = s.ps ∧
    (flushedQueue s).events = s.events ∧ (flushedQueue s).wpu = s.wpu := by
  obtain ⟨hrt, herc, hrb, hks, hld, hps, hevents⟩ := foldl_flushRecord_frame s.rt.queue s
  rw [List.drop_length] at hrt
  exact ⟨hrt, herc, hrb, hks, hld, hps, hevents, foldl_keeps flushRecord State.wpu flushRecord_wpu _ s⟩

section
variable {t : State} {r : Recipe} {x : Roll}

/-- The mark that FLUSH RUN leaves on the BUILDING roll. -/
def Roll.flushed (x : Roll) (cls : RollClass) : Roll :=
  { x with cls := some cls, hold := x.hold.join HoldFlags.ofCutFault }

theorem flushClose_none (h : t.buildingRoll = none) (r : Recipe) : flushClose t r = (endSegment t, none) := by
  rw [flushClose, h]

/-- R135: too short a roll leaves the table. -/
theorem flushClose_remnant (h : t.buildingRoll = some x) (hshort : x.length < r.lShort) :
    flushClose t r = (endSegment (dropRoll (t.updateRoll x.serial fun y => Roll.flushed y .remnant) x),
      some x.serial) := by
  have hcls : x.earlyClass r = .remnant := if_neg (not_le.mpr hshort)
  rw [flushClose, h]
  dsimp only
  rw [hcls]
  rfl

/-- R135: any other is HELD. -/
theorem flushClose_held (h : t.buildingRoll = some x) (hlong : r.lShort ≤ x.length) :
    flushClose t r = (endSegment (holdRoll (t.updateRoll x.serial fun y => Roll.flushed y .short) x.serial),
      some x.serial) := by
  have hcls : x.earlyClass r = .short := if_pos hlong
  rw [flushClose, h]
  dsimp only
  rw [hcls]
  rfl

theorem dropRoll_wpu (t : State) (x : Roll) : (dropRoll t x).wpu = t.wpu := by
  rw [dropRoll, freeTest_wpu]
  rfl

theorem flushClose_wpu (t : State) (r : Recipe) : (flushClose t r).1.wpu = t.wpu := by
  cases h : t.buildingRoll with
  | none => rw [flushClose_none h]; rfl
  | some x =>
    by_cases hshort : x.length < r.lShort
    · rw [flushClose_remnant h hshort]
      exact dropRoll_wpu _ x
    · rw [flushClose_held h (not_lt.mp hshort)]
      rfl

/-- R135: of the RB the flush touches the segment, the pending drop start flag and the rolls. -/
theorem flushClose_rb (t : State) (r : Recipe) : (flushClose t r).1.rb = { t.rb with
    rolls := (flushClose t r).1.rb.rolls, segment := .none, pendingDrop := false } := by
  cases h : t.buildingRoll with
  | none => rw [flushClose_none h]; rfl
  | some x =>
    by_cases hshort : x.length < r.lShort
    · rw [flushClose_remnant h hshort]
      have hrb := dropRoll_rb (t.updateRoll x.serial fun y => Roll.flushed y .remnant) x
      rw [endSegment]
      dsimp only
      rw [hrb]
      rfl
    · rw [flushClose_held h (not_lt.mp hshort)]
      rfl

/-- R135: the rolls when the BUILDING roll leaves the table. -/
theorem flushClose_remnant_rolls (h : t.buildingRoll = some x) (hshort : x.length < r.lShort) :
    (flushClose t r).1.rb.rolls = t.rb.rolls.filter fun y => decide (y.serial ≠ x.serial) := by
  have hrb := dropRoll_rb (t.updateRoll x.serial fun y => Roll.flushed y .remnant) x
  rw [flushClose_remnant h hshort, endSegment]
  dsimp only
  rw [hrb]
  exact eraseBy_updateBy Roll.serial x.serial _ t.rb.rolls fun _ => rfl

/-- R135: the rolls when it is HELD. -/
theorem flushClose_held_rolls (h : t.buildingRoll = some x) (hlong : r.lShort ≤ x.length) (hmem : x ∈ t.rb.rolls)
    (hnodup : (t.rb.rolls.map Roll.serial).Nodup) :
    (flushClose t r).1.rb.rolls = t.rb.rolls.map fun y => if y.serial = x.serial then
      { x with state := .held, cls := some .short, hold := { x.hold with cutFault := true } } else y := by
  have htwice : updateBy Roll.serial x.serial (fun y => { y with state := .held })
      (updateBy Roll.serial x.serial (fun y => Roll.flushed y .short) t.rb.rolls) =
      updateBy Roll.serial x.serial (fun y => { Roll.flushed y .short with state := .held }) t.rb.rolls :=
    updateBy_updateBy _ _ _ _ _ fun _ => rfl
  have hflags : x.hold.join HoldFlags.ofCutFault = { x.hold with cutFault := true } := HoldFlags.join_cutFault x.hold
  rw [flushClose_held h hlong]
  refine htwice.trans ((updateBy_eq_map Roll.serial t.rb.rolls x _ hnodup hmem).trans ?_)
  rw [Roll.flushed, hflags]

end

/-! ### The blocks -/

theorem flushedLine_eq (s : State) (r : Recipe) : flushedLine s r = { flushedRoll s r with
    sc := { (flushedRoll s r).sc with session := .loaded .armed r }
    erc := s.erc.switchedOff
    batches := (closeBatches (flushedRoll s r)).batches
    ports := (closeBatches (flushedRoll s r)).ports.map fun q =>
      { q with raw := q.raw ||| if s.erc.mode = .off then 0 else 0x20 } } := by
  have herc : (flushedRoll s r).erc = s.erc :=
    (flushClose_frame (flushedQueue s) r).2.1.trans (flushedQueue_frame s).2.1
  have hclosed := closeBatches_eq (flushedRoll s r)
  rw [flushedLine, ercOff_eq, State.enter]
  rw [hclosed]
  dsimp only
  rw [herc]

/-- R25: what a flush does to each block. -/
theorem flushNow_frame (s : State) (r : Recipe) :
    (flushNow s r).sc.session = .loaded .armed r ∧ (flushNow s r).sc.nextSeq = s.sc.nextSeq ∧
    (flushNow s r).rt = { s.rt with queue := [] } ∧ (flushNow s r).ks = s.ks ∧ (flushNow s r).ld = s.ld ∧
    (flushNow s r).ps = s.ps ∧ (flushNow s r).wpu = s.wpu ∧
    (flushNow s r).rb = { s.rb with
      rolls := (flushedRoll s r).rb.rolls, segment := .none, pendingDrop := false } ∧
    (flushNow s r).erc = s.erc.switchedOff ∧ (flushNow s r).batches = (closeBatches (flushedRoll s r)).batches ∧
    (flushNow s r).events = (logEvent s
      ⟨.runFlushed, .line, none, (flushClose (flushedQueue s) r).2, none, extraNat s.rt.queue.length⟩).events := by
  obtain ⟨hrt, -, hrb, hks, hld, hps, hevents, hwpu⟩ := flushedQueue_frame s
  obtain ⟨hrt', -, hks', hld', hps', hevents', -⟩ := flushClose_frame (flushedQueue s) r
  have hrb' := flushClose_rb (flushedQueue s) r
  rw [hrb] at hrb'
  have hwpu' : (flushedRoll s r).wpu = s.wpu := (flushClose_wpu _ r).trans hwpu
  have hseq : (flushNow s r).sc.nextSeq = s.sc.nextSeq :=
    (congrArg SessionControl.nextSeq (outerPart_sc (flushNow_outerPart s r))).trans rfl
  refine ⟨rfl, hseq, ?_⟩
  rw [flushNow_eq, flushedLine_eq]
  refine ⟨hrt'.trans hrt, hks'.trans hks, hld'.trans hld, hps'.trans hps, hwpu', hrb', rfl, rfl, ?_⟩
  exact logEvent_events_congr _ (hevents'.trans hevents) (congrArg Wpu.le hwpu') (hps'.trans hps)

theorem closeBatches_closed (t : State) : ∀ b ∈ (closeBatches t).batches, b.active = false := by
  rw [closeBatches_eq]
  intro b hb
  obtain ⟨y, -, rfl⟩ := List.mem_map.mp hb
  rfl

/-! ### The batches -/

/-- An entry closed, and freed when nothing names it. -/
def namesNothing (b : BatchEntry) : Bool := b.queued == 0 && b.rolls == 0

theorem namesNothing_close {b : BatchEntry} (h : b.isSpent = true) : namesNothing b.close = true := by
  rw [isSpent_iff] at h
  obtain ⟨-, hqueued, hrolls⟩ := h
  rw [namesNothing, show b.close.queued = b.queued from rfl, show b.close.rolls = b.rolls from rfl, hqueued, hrolls]
  rfl

/-- The departure of one roll. -/
def BatchEntry.unrolled (b : BatchEntry) (x : Roll) : BatchEntry :=
  if b.code = x.batch then { b with rolls := b.rolls - 1 } else b

theorem BatchEntry.unrolled_code (b : BatchEntry) (x : Roll) : (BatchEntry.unrolled b x).code = b.code := by
  rw [BatchEntry.unrolled]
  split_ifs <;> rfl

theorem isSpent_unrolled (x : Roll) {b : BatchEntry} (h : b.isSpent = true) :
    (BatchEntry.unrolled b x).isSpent = true := by
  rw [BatchEntry.unrolled]
  split_ifs
  · rw [isSpent_iff] at h ⊢
    obtain ⟨hclosed, hqueued, hrolls⟩ := h
    exact ⟨hclosed, hqueued, by simp [hrolls]⟩
  · exact h

section
variable {s : State} (hnodup : (s.batches.map BatchEntry.code).Nodup) (hspare : ∀ b ∈ s.batches, b.isSpent = false)
include hnodup hspare

/-- R25 step 1: the batches once the queue is empty. -/
theorem flushedQueue_batches : (flushedQueue s).batches =
    (s.batches.map fun b => b.unqueued s.rt.queue).filter fun b => !b.isSpent :=
  foldl_flushRecord s.rt.queue s hnodup hspare

theorem flushedQueue_spare : ∀ b ∈ (flushedQueue s).batches, b.isSpent = false := by
  rw [flushedQueue_batches hnodup hspare]
  intro b hb
  simpa using (List.mem_filter.mp hb).2

theorem flushedQueue_nodup : ((flushedQueue s).batches.map BatchEntry.code).Nodup := by
  rw [flushedQueue_batches hnodup hspare]
  refine List.Nodup.sublist (List.Sublist.map _ List.filter_sublist) ?_
  rw [List.map_map]
  exact hnodup

/-- R105: the batches left when no roll leaves. -/
theorem batchesLeft_of_kept {t : State} (ht : t.batches = (flushedQueue s).batches) :
    (closeBatches t).batches = s.batchesLeft [] := by
  have hspare' : ∀ b ∈ t.batches, b.isSpent = false := by
    rw [ht]
    exact flushedQueue_spare hnodup hspare
  rw [closeBatches_left t hspare', ht, flushedQueue_batches hnodup hspare]
  refine (filter_map_filter BatchEntry.close _ BatchEntry.isSpent namesNothing fun b => namesNothing_close).trans ?_
  rw [List.map_map]
  rfl

/-- R102, R105: the batches left when a roll leaves. -/
theorem batchesLeft_of_lost {t : State} {x : Roll} (ht : t.batches = freeSpent x.batch
    ((flushedQueue s).batches.map fun b => BatchEntry.unrolled b x)) :
    (closeBatches t).batches = s.batchesLeft [x] := by
  have hfreed : t.batches = ((s.batches.map fun b => b.unqueued s.rt.queue).map
      fun b => BatchEntry.unrolled b x).filter fun b => !b.isSpent := by
    rw [ht, freeSpent_changed x.batch (fun b => BatchEntry.unrolled b x) _ (flushedQueue_nodup hnodup hspare)
      (flushedQueue_spare hnodup hspare) (fun b hb => if_neg hb) (fun b => BatchEntry.unrolled_code b x),
      flushedQueue_batches hnodup hspare]
    exact filter_map_filter (fun b => BatchEntry.unrolled b x) _ BatchEntry.isSpent BatchEntry.isSpent
      fun b => isSpent_unrolled x
  have hspare' : ∀ b ∈ t.batches, b.isSpent = false := by
    rw [hfreed]
    intro b hb
    simpa using (List.mem_filter.mp hb).2
  have hleft : ∀ b : BatchEntry, (BatchEntry.unrolled (b.unqueued s.rt.queue) x).close = { b with
      state := .closed
      queued := b.queued - s.rt.queue.countP fun k => k.shade == .batch b.code
      rolls := b.rolls - [x].countP fun y => y.batch == b.code } := by
    intro b
    rw [BatchEntry.unrolled, BatchEntry.unqueued_code, List.countP_singleton]
    by_cases hcode : b.code = x.batch
    · rw [if_pos hcode, if_pos (beq_iff_eq.mpr hcode.symm)]
      rfl
    · rw [if_neg hcode, if_neg fun h => hcode (beq_iff_eq.mp h).symm]
      rfl
  rw [closeBatches_left t hspare', hfreed]
  refine (filter_map_filter BatchEntry.close _ BatchEntry.isSpent namesNothing fun b => namesNothing_close).trans ?_
  rw [List.map_map, List.map_map, State.batchesLeft]
  exact congrArg (List.filter fun b : BatchEntry => !(b.queued == 0 && b.rolls == 0))
    (List.map_congr_left fun b _ => hleft b)

end

/-! ### The notices -/

theorem closeBatches_raw (t : State) (q : Port) : ((closeBatches t).ports.get q).raw =
    (t.ports.get q).raw ||| if t.batches.any BatchEntry.active then 0x10 else 0 := by
  rw [closeBatches_eq]
  exact congrArg PortState.raw (PerPort.get_map _ _ q)

/-- R105, R168: BATCH and HELD at the end of the run; `extra` is what was raised beyond the freeing of batches. -/
theorem closeBatches_raw_of_frees {s t u : State} (h : FreesFrom s t) (hbatches : u.batches = t.batches)
    (extra : BitVec 8) (hports : ∀ q, (u.ports.get q).raw = (t.ports.get q).raw ||| extra) (q : Port) :
    ((closeBatches u).ports.get q).raw = (s.ports.get q).raw ||| (if s.batches.any BatchEntry.active = true ∨
      (closeBatches u).batches.length < s.batches.length then noticeBatch else 0) ||| extra := by
  have hclosed : (closeBatches u).batches = (closeBatches t).batches := by
    rw [closeBatches_eq, closeBatches_eq, hbatches]
  have hraw := h.close q
  rw [closeBatches_raw] at hraw
  rw [closeBatches_raw, hports, hbatches, hclosed, ← hraw]
  ac_rfl

/-- R135, R168: whether the flush raises HELD. -/
def State.flushHolds (s : State) (r : Recipe) : BitVec 8 :=
  match s.rb.segment with
  | .roll n => (match s.findRoll n with
    | some x => if r.lShort ≤ x.length then noticeHeld else 0
    | none => 0)
  | .none | .waste | .awaitA => 0

theorem flushHolds_none {s : State} (h : s.buildingRoll = none) (r : Recipe) : State.flushHolds s r = 0 := by
  unfold State.buildingRoll at h
  unfold State.flushHolds
  cases hsegment : s.rb.segment with
  | roll n =>
    rw [hsegment] at h
    dsimp only at h ⊢
    rw [h]
  | none => rfl
  | waste => rfl
  | awaitA => rfl

theorem flushHolds_some {s : State} {x : Roll} (h : s.buildingRoll = some x) (r : Recipe) :
    State.flushHolds s r = if r.lShort ≤ x.length then noticeHeld else 0 := by
  unfold State.buildingRoll at h
  unfold State.flushHolds
  cases hsegment : s.rb.segment with
  | roll n =>
    rw [hsegment] at h
    dsimp only at h ⊢
    rw [h]
  | none => rw [hsegment] at h; exact nomatch h
  | waste => rw [hsegment] at h; exact nomatch h
  | awaitA => rw [hsegment] at h; exact nomatch h

theorem flushedQueue_buildingRoll (s : State) : (flushedQueue s).buildingRoll = s.buildingRoll := by
  obtain ⟨-, -, hrb, -⟩ := flushedQueue_frame s
  rw [State.buildingRoll, hrb, State.buildingRoll]
  cases s.rb.segment <;> first | rfl | exact congrArg (fun rb : RollBuilder => findBy Roll.serial _ rb.rolls) hrb

theorem flushedRoll_raw (s : State) (r : Recipe) (q : Port) : ((closeBatches (flushedRoll s r)).ports.get q).raw =
    (s.ports.get q).raw ||| (if s.batches.any BatchEntry.active = true ∨
      (closeBatches (flushedRoll s r)).batches.length < s.batches.length then noticeBatch else 0) |||
      State.flushHolds s r := by
  have hqueue : FreesFrom s (flushedQueue s) := foldl_flushRecord_frees _ s
  have hzero : ∀ (t : State) (p : Port), (t.ports.get p).raw = (t.ports.get p).raw ||| 0 := fun t p =>
    BitVec.or_zero.symm
  cases h : s.buildingRoll with
  | none =>
    have hclosed := flushClose_none ((flushedQueue_buildingRoll s).trans h) r
    rw [flushHolds_none h, flushedRoll, hclosed]
    exact closeBatches_raw_of_frees (u := endSegment (flushedQueue s)) hqueue rfl 0 (hzero (flushedQueue s)) q
  | some x =>
    rw [flushHolds_some h]
    by_cases hshort : x.length < r.lShort
    · have hclosed := flushClose_remnant (r := r) ((flushedQueue_buildingRoll s).trans h) hshort
      have hlost : FreesFrom s (dropRoll ((flushedQueue s).updateRoll x.serial fun y => Roll.flushed y .remnant) x) :=
        FreesFrom.trans (t := (flushedQueue s).updateRoll x.serial fun y => Roll.flushed y .remnant) hqueue
          (dropRoll_frees _ x)
      rw [if_neg (not_le.mpr hshort), flushedRoll, hclosed]
      exact closeBatches_raw_of_frees (u := endSegment
        (dropRoll ((flushedQueue s).updateRoll x.serial fun y => Roll.flushed y .remnant) x)) hlost rfl 0 (hzero _) q
    · have hlong := not_lt.mp hshort
      have hclosed := flushClose_held (r := r) ((flushedQueue_buildingRoll s).trans h) hlong
      rw [if_pos hlong, flushedRoll, hclosed]
      exact closeBatches_raw_of_frees (u := endSegment
        (holdRoll ((flushedQueue s).updateRoll x.serial fun y => Roll.flushed y .short) x.serial)) hqueue rfl noticeHeld
        (fun p => congrArg PortState.raw (PerPort.get_map (flushedQueue s).ports _ p)) q

/-- R25, R202: the notices of a flush. -/
theorem flushNow_raw (s : State) (r : Recipe) (q : Port) : ((flushNow s r).ports.get q).raw =
    (s.ports.get q).raw ||| (noticeEvent |||
      (if s.batches.any BatchEntry.active = true ∨ (flushNow s r).batches.length < s.batches.length then noticeBatch
        else 0) |||
      (if s.erc.mode = .off then 0 else noticeRegister) ||| State.flushHolds s r) := by
  have hbatches : (flushNow s r).batches = (closeBatches (flushedRoll s r)).batches :=
    (flushNow_frame s r).2.2.2.2.2.2.2.2.2.1
  have hraised : ((flushNow s r).ports.get q).raw = (((closeBatches (flushedRoll s r)).ports.get q).raw |||
      (if s.erc.mode = .off then 0 else noticeRegister)) ||| noticeEvent := by
    rw [flushNow_eq, flushedLine_eq]
    cases q <;> rfl
  rw [hraised, flushedRoll_raw, hbatches]
  ac_rfl

/-! ### The request -/

section
variable {u : State} {r : Recipe}

theorem flushRunBody_draining (h : u.sc.session = .loaded .draining r) :
    flushRunBody u = (flushNow u r, Answer.plain .done) := by
  rw [flushRunBody, h]

theorem flushRunBody_wrong (h : ∀ r, u.sc.session ≠ .loaded .draining r) :
    flushRunBody u = (u, Answer.plain .wrongState) := by
  unfold flushRunBody
  cases hsession : u.sc.session with
  | unloaded => rfl
  | loaded run r =>
    cases run with
    | armed => rfl
    | running => rfl
    | draining => exact absurd hsession (h r)

end

theorem permitted_flushRun {port : Port} (h : port ≠ .portQ) : permitted (commandCode (.flushRun port)) port = true := by
  cases port
  case portQ => exact absurd rfl h
  all_goals rfl

theorem buildingRoll_of_roll {s : State} {n : Nat} (h : s.rb.segment = .roll n) : s.buildingRoll = s.findRoll n := by
  rw [State.buildingRoll, h]

theorem buildingRoll_of_none {s : State} (h : ∀ n, s.rb.segment ≠ .roll n) : s.buildingRoll = none := by
  rw [State.buildingRoll]
  cases hsegment : s.rb.segment with
  | roll n => exact absurd hsegment (h n)
  | none => rfl
  | waste => rfl
  | awaitA => rfl

/-- R25, R135: the flush of a run with no BUILDING roll. -/
theorem flushNow_of_none {s : State} (h : s.buildingRoll = none) (r : Recipe) :
    (flushNow s r).rb.rolls = s.rb.rolls ∧
    (flushNow s r).events =
      (logEvent s ⟨.runFlushed, .line, none, none, none, extraNat s.rt.queue.length⟩).events ∧
    ((s.batches.map BatchEntry.code).Nodup → (∀ b ∈ s.batches, b.isSpent = false) →
      (flushNow s r).batches = s.batchesLeft []) := by
  obtain ⟨-, -, -, -, -, -, -, hrb, -, hbatches, hevents⟩ := flushNow_frame s r
  obtain ⟨-, -, hqueue, -⟩ := flushedQueue_frame s
  have hclosed := flushClose_none ((flushedQueue_buildingRoll s).trans h) r
  have hrolls : (flushedRoll s r).rb.rolls = s.rb.rolls := by
    rw [flushedRoll, hclosed]
    exact (congrArg RollBuilder.rolls hqueue : (flushedQueue s).rb.rolls = s.rb.rolls)
  rw [hclosed] at hevents
  refine ⟨(congrArg RollBuilder.rolls hrb).trans hrolls, hevents, fun hnodup hspare => hbatches.trans ?_⟩
  exact batchesLeft_of_kept hnodup hspare (by rw [flushedRoll, hclosed]; rfl)

/-- R25, R135: the flush of a run with the BUILDING roll `x`. -/
theorem flushNow_of_some {s : State} {x : Roll} (h : s.buildingRoll = some x) (r : Recipe) :
    (flushNow s r).events =
      (logEvent s ⟨.runFlushed, .line, none, some x.serial, none, extraNat s.rt.queue.length⟩).events ∧
    ((s.batches.map BatchEntry.code).Nodup → (∀ b ∈ s.batches, b.isSpent = false) →
      (flushNow s r).batches = s.batchesLeft (if x.length < r.lShort then [x] else [])) ∧
    (x.length < r.lShort → (flushNow s r).rb.rolls = s.rb.rolls.filter fun y => decide (y.serial ≠ x.serial)) ∧
    (r.lShort ≤ x.length → x ∈ s.rb.rolls → (s.rb.rolls.map Roll.serial).Nodup →
      (flushNow s r).rb.rolls = s.rb.rolls.map fun y => if y.serial = x.serial then
        { x with state := .held, cls := some .short, hold := { x.hold with cutFault := true } } else y) := by
  obtain ⟨-, -, -, -, -, -, -, hrb, -, hbatches, hevents⟩ := flushNow_frame s r
  obtain ⟨-, -, hqueue, -⟩ := flushedQueue_frame s
  have hrolls : (flushedQueue s).rb.rolls = s.rb.rolls := congrArg RollBuilder.rolls hqueue
  have hbuilding := (flushedQueue_buildingRoll s).trans h
  have hserial : (flushClose (flushedQueue s) r).2 = some x.serial := by
    by_cases hshort : x.length < r.lShort
    · rw [flushClose_remnant hbuilding hshort]
    · rw [flushClose_held hbuilding (not_lt.mp hshort)]
  rw [hserial] at hevents
  refine ⟨hevents, fun hnodup hspare => hbatches.trans ?_, fun hshort => (congrArg RollBuilder.rolls hrb).trans ?_,
    fun hlong hmem hnodup => (congrArg RollBuilder.rolls hrb).trans ?_⟩
  · by_cases hshort : x.length < r.lShort
    · rw [if_pos hshort]
      refine batchesLeft_of_lost hnodup hspare ?_
      rw [flushedRoll, flushClose_remnant hbuilding hshort]
      exact dropRoll_batches ((flushedQueue s).updateRoll x.serial fun y => Roll.flushed y .remnant) x
    · rw [if_neg hshort]
      refine batchesLeft_of_kept hnodup hspare ?_
      rw [flushedRoll, flushClose_held hbuilding (not_lt.mp hshort)]
      rfl
  · have hleft := flushClose_remnant_rolls hbuilding hshort
    rwa [hrolls] at hleft
  · have hheld := flushClose_held_rolls hbuilding hlong (by rwa [hrolls]) (by rwa [hrolls])
    rwa [hrolls] at hheld

theorem exec_flushRun_draining {port : Port} {s : State} {r : Recipe} (hport : port ≠ .portQ)
    (hs : s.sc.session = .loaded .draining r) : exec (.flushRun port) s =
      .next ((flushNow (s.taken port (.flushRun port)) r).onPort port fun p => p.place 19 (Answer.plain .done)) := by
  refine congrArg Host.Outcome.next ((takeRequest_permitted _ _ _ _ (permitted_flushRun hport)).trans ?_)
  rw [flushRunBody_draining (u := s.taken port (.flushRun port)) hs]
  rfl

/-- Settles O42: the flush on the state in which the request is carried out. -/
theorem flushRunEndsTheDrain : Obligations.FlushRunEndsTheDrain := by
  intro port s hport
  refine ⟨fun hnot => exec_plain rfl (permitted_flushRun hport) (flushRunBody_wrong hnot),
    fun r hs => ⟨_, exec_flushRun_draining hport hs, ?_⟩⟩
  obtain ⟨hsession, hseq, hrt, hks, hld, hps, hwpu, hrb, herc, hbatches, hevents⟩ :=
    flushNow_frame (s.taken port (.flushRun port)) r
  have hactive : ∀ b ∈ (flushNow (s.taken port (.flushRun port)) r).batches, b.active = false := by
    rw [hbatches]
    exact closeBatches_closed _
  have hnone (hsegment : ∀ n, s.rb.segment ≠ .roll n) :=
    flushNow_of_none (s := s.taken port (.flushRun port)) (buildingRoll_of_none hsegment) r
  have hsome {n : Nat} {x : Roll} (hsegment : s.rb.segment = .roll n) (hx : s.findRoll n = some x) :=
    flushNow_of_some (s := s.taken port (.flushRun port))
      ((buildingRoll_of_roll (s := s.taken port (.flushRun port)) hsegment).trans hx) r
  refine ⟨hsession, hseq, hrt, hks, hld, hps, hwpu, ?_, ?_, ?_, ?_, hactive, herc, fun hsegment => ?_,
    fun hnodup hspare => ⟨fun hsegment => ?_, fun n x hsegment hx => ?_⟩, fun n x hsegment hx hnodup => ?_,
    fun q => ?_, place_slot _ port 19 _⟩
  · exact congrArg RollBuilder.segment hrb
  · exact congrArg RollBuilder.pendingDrop hrb
  · exact (congrArg RollBuilder.nextDrop hrb).trans rfl
  · exact (congrArg RollBuilder.lastHandOver hrb).trans rfl
  · obtain ⟨hrolls, hlogged, -⟩ := hnone hsegment
    refine ⟨hrolls, ?_⟩
    rw [State.onPort_events, hlogged, ← logEvent_events_taken port (.flushRun port) s]
    rfl
  · obtain ⟨-, -, hleft⟩ := hnone hsegment
    exact hleft hnodup hspare
  · obtain ⟨-, hleft, -⟩ := hsome hsegment hx
    exact hleft hnodup hspare
  · obtain ⟨hmem, hserial⟩ := findBy_mem _ _ _ _ hx
    obtain ⟨hlogged, -, hlost, hheld⟩ := hsome hsegment hx
    subst hserial
    refine ⟨?_, hlost, fun hlong => hheld hlong hmem hnodup⟩
    rw [State.onPort_events, hlogged, ← logEvent_events_taken port (.flushRun port) s]
    rfl
  · rw [place_raw, flushNow_raw, taken_raw]
    rfl

end Sys2Proof.Proofs
end

section
/-! PROOFS. The reports on records: REPORT DEFECT (R57, R58) and SHADE REPORT (R86, R87, R90 to R99). -/

namespace Sys2Proof.Proofs

open Sys2Proof Sys2Proof.Machine

/-! ### Defects -/

theorem defectKindOf_beyond {b : Byte} (h : 4 ≤ b.toNat) : defectKindOf b = none := by
  unfold defectKindOf
  split
  case h_5 => rfl
  all_goals omega

theorem severityOf_beyond {b : Byte} (h : 2 ≤ b.toNat) : severityOf b = none := by
  unfold severityOf
  split
  case h_3 => rfl
  all_goals omega

theorem defectKindOf_byte {b : Byte} {k : DefectKind} (h : defectKindOf b = some k) : k.byte = b := by
  unfold defectKindOf at h
  split at h
  case h_5 => exact nomatch h
  all_goals
    cases h
    exact BitVec.eq_of_toNat_eq (Eq.symm ‹_›)

theorem severityOf_byte {b : Byte} {v : Severity} (h : severityOf b = some v) : v.byte = b := by
  unfold severityOf at h
  split at h
  case h_3 => exact nomatch h
  all_goals
    cases h
    exact BitVec.eq_of_toNat_eq (Eq.symm ‹_›)

/-- R57: arguments out of range. -/
theorem defectOf_outOfRange {kind sev : Byte} {cross : BitVec 16}
    (h : 4 ≤ kind.toNat ∨ 2 ≤ sev.toNat ∨ (2000 < cross.toNat ∧ cross.toNat ≠ 65535)) :
    defectOf kind sev cross = none := by
  unfold defectOf
  rcases h with h | h | ⟨hbig, hnot⟩
  · rw [defectKindOf_beyond h]
  · rw [severityOf_beyond h]
    cases defectKindOf kind <;> rfl
  · cases defectKindOf kind with
    | none => rfl
    | some k =>
      cases severityOf sev with
      | none => rfl
      | some v => exact (if_neg hnot).trans (if_neg (not_le.mpr hbig))

/-- R57: what the defect of the arguments is. -/
theorem defectOf_some {kind sev : Byte} {cross : BitVec 16} {d : Defect} (h : defectOf kind sev cross = some d) :
    d.kind.byte = kind ∧ d.severity.byte = sev ∧
    d.cross = if cross.toNat = 65535 then none else some cross.toNat := by
  unfold defectOf at h
  cases hkind : defectKindOf kind with
  | none => rw [hkind] at h; exact nomatch h
  | some k =>
    cases hsev : severityOf sev with
    | none => rw [hkind, hsev] at h; exact nomatch h
    | some v =>
      rw [hkind, hsev] at h
      dsimp only at h
      by_cases habsent : cross.toNat = 65535
      · rw [if_pos habsent] at h ⊢
        cases h
        exact ⟨defectKindOf_byte hkind, severityOf_byte hsev, rfl⟩
      · by_cases hin : cross.toNat ≤ 2000
        · rw [if_neg habsent, if_pos hin] at h
          cases h
          exact ⟨defectKindOf_byte hkind, severityOf_byte hsev, (if_neg habsent).symm⟩
        · rw [if_neg habsent, if_neg hin] at h
          exact nomatch h

/-- R58: what a defect does to its record. -/
theorem addDefect_eq (k : RepeatRecord) (d : Defect) : k.addDefect d = { k with
    defects := if k.defects.length < 4 then k.defects ++ [d] else k.defects
    overflow := if k.defects.length < 4 then k.overflow else min 255 (k.overflow + 1)
    major := k.major || d.severity == .major } := by
  unfold RepeatRecord.addDefect
  by_cases hroom : k.defects.length < 4
  · rw [if_pos hroom, if_pos hroom]
    exact if_pos hroom
  · rw [if_neg hroom, if_neg hroom]
    exact if_neg hroom

section
variable {seq : Nat} {kind sev : Byte} {cross : BitVec 16} {u : State} {d : Defect}

theorem reportDefectBody_outOfRange (h : defectOf kind sev cross = none) :
    reportDefectBody seq kind sev cross u = (u, Answer.plain .outOfRange) := by
  rw [reportDefectBody, h]

theorem reportDefectBody_outside {st : Status} (h : defectOf kind sev cross = some d) (hst : u.spanStatus seq = some st) :
    reportDefectBody seq kind sev cross u = (u, Answer.plain st) := by
  rw [reportDefectBody, h]
  dsimp only
  rw [hst]

theorem reportDefectBody_within (h : defectOf kind sev cross = some d) (hst : u.spanStatus seq = none) :
    reportDefectBody seq kind sev cross u = (u.updateRecord seq fun k => k.addDefect d, Answer.plain .done) := by
  rw [reportDefectBody, h]
  dsimp only
  rw [hst]

end

theorem permitted_reportDefect {port : Port} (h : port ≠ .portF) (seq : BitVec 32) (kind sev : Byte)
    (cross : BitVec 16) : permitted (commandCode (.reportDefect port seq kind sev cross)) port = true := by
  cases port
  case portF => exact absurd rfl h
  all_goals rfl

/-- Settles O43. -/
theorem reportDefectOutcomes : Obligations.ReportDefectOutcomes := by
  intro port seq kind sev cross s i hport hi
  subst hi
  have hperm := permitted_reportDefect hport seq kind sev cross
  have hspan : ∀ n, (s.taken port (.reportDefect port seq kind sev cross)).spanStatus n = s.spanStatus n := fun _ => rfl
  refine ⟨fun hout => exec_plain rfl hperm (reportDefectBody_outOfRange (defectOf_outOfRange hout)), fun d hd => ?_⟩
  obtain ⟨hkind, hsev, hcross⟩ := defectOf_some hd
  refine ⟨hkind, hsev, hcross, fun hq => ?_, fun h t hh ht => ⟨fun hlow => ?_, fun hlow hhigh => ?_,
    fun hlow hhigh => ?_⟩⟩
  · exact exec_plain rfl hperm (reportDefectBody_outside hd ((hspan _).trans (spanStatus_empty hq)))
  · exact exec_plain rfl hperm (reportDefectBody_outside hd ((hspan _).trans (spanStatus_tooLate hh ht hlow)))
  · exact exec_plain rfl hperm (reportDefectBody_outside hd ((hspan _).trans (spanStatus_beyond hh ht hlow hhigh)))
  · have hwithin := (hspan seq.toNat).trans (spanStatus_within hh ht hlow hhigh)
    rw [exec_effect (t := s.updateRecord seq.toNat fun k => k.addDefect d) (Answer.plain .done) rfl hperm
      (reportDefectBody_within hd hwithin)]
    simp only [State.updateRecord, updateBy, addDefect_eq]
    rfl

/-! ### Readings -/

/-- R86: the ranges of a reading. -/
theorem readingOf_eq (l a b : BitVec 16) : readingOf l a b =
    if 10000 < l.toNat ∨ a.toInt < -12800 ∨ 12799 < a.toInt ∨ b.toInt < -12800 ∨ 12799 < b.toInt then none
    else some ⟨l.toNat, a.toInt, b.toInt⟩ := by
  unfold readingOf
  by_cases hout : 10000 < l.toNat ∨ a.toInt < -12800 ∨ 12799 < a.toInt ∨ b.toInt < -12800 ∨ 12799 < b.toInt
  · rw [if_pos hout]
    exact if_neg fun h => by omega
  · rw [if_neg hout]
    exact if_pos (by omega)

section
variable {seq : Nat} {l a b : BitVec 16} {u : State} {x : Lab} {r : Recipe} {st : Status}

theorem shadeReportBody_outside (h : u.sc.session.inRun = false) :
    shadeReportBody seq l a b u = (u, Answer.plain .wrongState) := by
  unfold shadeReportBody
  cases hsession : u.sc.session with
  | unloaded => rfl
  | loaded run r =>
    rw [hsession] at h
    cases run with
    | armed => rfl
    | running => exact nomatch h
    | draining => exact nomatch h

theorem recipe_of_inRun {y : Session} (h : y.inRun = true) : ∃ r, y.recipe? = some r := by
  cases y with
  | unloaded => exact nomatch h
  | loaded run r => exact ⟨r, rfl⟩

theorem shadeReportBody_inRun (h : u.sc.session.inRun = true) (hr : u.sc.session.recipe? = some r) :
    shadeReportBody seq l a b u = (match readingOf l a b with
      | none => (u, Answer.plain .outOfRange)
      | some x => shadeRecord u r seq x) := by
  unfold shadeReportBody
  cases hsession : u.sc.session with
  | unloaded => rw [hsession] at h; exact nomatch h
  | loaded run r' =>
    rw [hsession] at h hr
    cases hr
    cases run with
    | armed => exact nomatch h
    | running => rfl
    | draining => rfl

theorem shadeRecord_outside (h : u.spanStatus seq = some st) : shadeRecord u r seq x = (u, Answer.plain st) := by
  rw [shadeRecord, h]

theorem shadeRecord_found {k : RepeatRecord} (h : u.spanStatus seq = none) (hk : u.findRecord seq = some k) :
    shadeRecord u r seq x =
      if k.reading.isSome = true then (u, Answer.plain .alreadyReported) else takeReading u r seq x := by
  rw [shadeRecord, h]
  dsimp only
  rw [hk]

end

/-! ### The winner -/

section
variable {s : State} {r : Recipe} {seq : Nat} {x : Lab} {e : BatchEntry}

/-- The queue with a reading and its verdict written into one record. -/
def State.reported (s : State) (seq : Nat) (x : Lab) (v : ShadeVerdict) : RepeatTracker :=
  { s.rt with queue := s.rt.queue.map fun y => if y.seq = seq then { y with reading := some x, shade := v } else y }

/-- R87: the reading and the verdict that the classifier gave. -/
theorem takeReading_of {t : State} {v : ShadeVerdict} (h : classify s r seq x = (t, v)) (hrt : t.rt = s.rt) :
    takeReading s r seq x = ({ t with rt := State.reported s seq x v },
      ⟨.done, leBytes 4 v.num ++ [batchStateByte t v]⟩) := by
  rw [takeReading, h]
  dsimp only [State.updateRecord]
  rw [hrt]
  rfl

/-- R87: the state byte of a batch found. -/
theorem batchStateByte_of {t : State} {code : Nat} {b : BatchEntry} (h : t.findBatch code = some b) :
    batchStateByte t (.batch code) = b.state.byte := by
  rw [batchStateByte, h]
  rfl

/-- The entry in its table after it was replaced. -/
theorem findBatch_replaced {t : State} {l : List BatchEntry} {z : BatchEntry}
    (ht : t.batches = l.map fun y => if y.code = e.code then z else y) (hmem : e ∈ l) (hz : z.code = e.code)
    (hnodup : (l.map BatchEntry.code).Nodup) : t.findBatch e.code = some z := by
  have hcodes : t.batches.map BatchEntry.code = l.map BatchEntry.code := by
    rw [ht, List.map_map]
    refine List.map_congr_left fun y _ => ?_
    dsimp only [Function.comp_apply]
    by_cases hy : y.code = e.code
    · rw [if_pos hy, hz, hy]
    · rw [if_neg hy]
  have hin : z ∈ t.batches := by
    rw [ht]
    exact List.mem_map.mpr ⟨e, hmem, if_pos rfl⟩
  rw [← hz]
  exact findBy_nodup BatchEntry.code _ z (hcodes.symm ▸ hnodup) hin

/-- R91: the winner's entry replaced. -/
theorem winBatch_eq (hmem : e ∈ s.batches) (hnodup : (s.batches.map BatchEntry.code).Nodup) :
    winBatch s r seq x e = { s with
      batches := s.batches.map fun y => if y.code = e.code then e.win seq x r.nLearn else y
      ports := if e.state ≠ .opened ∧ (e.win seq x r.nLearn).state = .opened then
        s.ports.map fun q => q.raise noticeBatch else s.ports } := by
  have hbatches := updateBy_eq_map BatchEntry.code s.batches e (fun y => y.win seq x r.nLearn) hnodup hmem
  unfold winBatch State.updateBatch
  rw [hbatches]
  dsimp only
  split_ifs <;> rfl

theorem win_code (e : BatchEntry) (seq : Nat) (x : Lab) (n : Nat) : (e.win seq x n).code = e.code := by
  unfold BatchEntry.win BatchEntry.learn
  dsimp only
  cases e.state <;> rfl

/-- R87, R90, R91: a reading that a batch wins. -/
theorem takeReading_won (hwin : winner s.batches x r.t = some e) (hfind : s.findBatch e.code = some e)
    (hnodup : (s.batches.map BatchEntry.code).Nodup) : takeReading s r seq x =
      ({ s with
        rt := State.reported s seq x (.batch e.code)
        batches := s.batches.map fun y => if y.code = e.code then e.win seq x r.nLearn else y
        ports := if e.state ≠ .opened ∧ (e.win seq x r.nLearn).state = .opened then
          s.ports.map fun q => q.raise noticeBatch else s.ports },
      ⟨.done, leBytes 4 e.code ++ [(e.win seq x r.nLearn).state.byte]⟩) := by
  have hmem : e ∈ s.batches := (findBy_mem _ _ _ _ hfind).1
  have hclass : classify s r seq x = (winBatch s r seq x e, .batch e.code) := by
    rw [classify, hwin]
  have hstate := batchStateByte_of (findBatch_replaced (t := winBatch s r seq x e) (e := e)
    (congrArg State.batches (winBatch_eq hmem hnodup)) hmem (win_code e seq x r.nLearn) hnodup)
  have hrt : (winBatch s r seq x e).rt = s.rt := by rw [winBatch_eq hmem hnodup]
  rw [takeReading_of hclass hrt, hstate, winBatch_eq hmem hnodup]
  rfl

/-- R93: an OPEN winner. -/
theorem win_opened (h : e.state = .opened) (seq : Nat) (x : Lab) (n : Nat) :
    e.win seq x n = { e with queued := e.queued + 1, lastSeq := seq } := by
  rw [BatchEntry.win, BatchEntry.learn]
  dsimp only
  rw [h]

/-- R92, R93: a LEARNING winner. -/
theorem win_learning {sums : Lab} {m : Nat} (h : e.state = .learning sums m) (seq : Nat) (x : Lab) (n : Nat) :
    e.win seq x n = { e with
      queued := e.queued + 1
      lastSeq := seq
      reference := (sums.add x).mean (m + 1)
      state := if n ≤ m + 1 then .opened else .learning (sums.add x) (m + 1) } := by
  rw [BatchEntry.win, BatchEntry.learn]
  dsimp only
  rw [h]

/-! ### A new batch -/

/-- R94: with the batch counter exhausted. -/
theorem classify_exhausted {c : Counters} (hwin : winner s.batches x r.t = none) (hres : s.ps.reserved = some c)
    (hc : c.batch = 16777215) : classify s r seq x =
      (logEvent s ⟨.counterExhausted, .store, some seq, none, none, 0⟩, .noBatch) := by
  rw [classify, hwin]
  dsimp only
  rw [openBatch, reservedNow_some _ _ hres, hc]
  rfl

theorem slotCleared_keeps {u : State} (h : SlotCleared s r u) : u.rt = s.rt ∧ u.ps = s.ps := by
  rcases h with ⟨-, rfl⟩ | ⟨-, b, -, -, -, v, rfl, rfl⟩
  · exact ⟨rfl, rfl⟩
  · exact ⟨rfl, rfl⟩

/-- R94 to R97: what becomes of a reading for which a batch is to be opened. -/
theorem classify_opens {c : Counters} {u : State} (hwin : winner s.batches x r.t = none)
    (hres : s.ps.reserved = some c) (hc : c.batch < 16777215) (hcleared : SlotCleared s r u)
    (hnodup : (s.batches.map BatchEntry.code).Nodup) : classify s r seq x =
      if 16 ≤ u.batches.length then
        (logEvent u ⟨.batchTableFull, .quality, some seq, none, none, 16⟩, .noBatch)
      else createBatch u r seq x := by
  have hroom : ¬Config.maxBatchCode ≤ c.batch := not_le.mpr hc
  rw [classify, hwin]
  dsimp only
  rw [openBatch, reservedNow_some _ _ hres, if_neg hroom, slotClosure_cleared s u r hnodup hcleared]
  rfl

/-- R98, R99: the state after a batch was opened. -/
def State.opened (u : State) (r : Recipe) (c : Counters) (seq : Nat) (x : Lab) : State :=
  logEvent { u with
      ps := u.ps.reservedTo { c with batch := c.batch + 1 }
      batches := u.batches ++ [newBatch r (c.batch + 1) seq x] }
    ⟨.batchOpened, .quality, some seq, none, some (c.batch + 1), extraNat (u.batches.length + 1)⟩

theorem createBatch_eq {c : Counters} {u : State} (hres : u.ps.reserved = some c)
    (hcodes : ∀ y ∈ u.batches, y.code ≤ c.batch) : createBatch u r seq x =
      ((State.opened u r c seq x).raiseAll noticeBatch, .batch (c.batch + 1)) := by
  have hlast : insertBy BatchEntry.code (newBatch r (c.batch + 1) seq x) u.batches =
      u.batches ++ [newBatch r (c.batch + 1) seq x] :=
    insertBy_last _ _ _ fun y hy => Nat.le_succ_of_le (hcodes y hy)
  rw [createBatch, reservedNow_some _ _ hres, reserveBatch_reservedTo _ _ hres]
  dsimp only
  rw [hlast, List.length_append, List.length_singleton]
  rfl

/-- The new entry is the one of its code. -/
theorem findBatch_opened {c : Counters} {u : State} (hcodes : ∀ y ∈ u.batches, y.code ≤ c.batch) :
    ((State.opened u r c seq x).raiseAll noticeBatch).findBatch (c.batch + 1) =
      some (newBatch r (c.batch + 1) seq x) := by
  have hnone : u.batches.find? (fun y => decide (y.code = c.batch + 1)) = none :=
    List.find?_eq_none.mpr fun y hy h => by
      have hcode := of_decide_eq_true h
      have hle := hcodes y hy
      omega
  have hfind : findBy BatchEntry.code (c.batch + 1) (u.batches ++ [newBatch r (c.batch + 1) seq x]) =
      some (newBatch r (c.batch + 1) seq x) := by
    rw [findBy, List.find?_append, hnone, Option.none_or]
    exact List.find?_cons_of_pos (decide_eq_true rfl)
  exact hfind

end

/-- R86: a SHADE REPORT whose reading is taken. -/
theorem exec_shadeReport_taken {s t : State} {seq : BitVec 32} {l a b : BitVec 16} {x : Lab} {r : Recipe}
    {k : RepeatRecord} {h h' : Nat} {data : List Byte} (hrun : s.sc.session.inRun = true)
    (hx : readingOf l a b = some x) (hh : s.headSeq = some h) (ht : s.tailSeq = some h') (hlow : h ≤ seq.toNat)
    (hhigh : seq.toNat ≤ h') (hk : s.findRecord seq.toNat = some k) (hnone : k.reading = none)
    (hr : s.sc.session.recipe? = some r) (htaken : takeReading s r seq.toNat x = (t, ⟨.done, data⟩)) :
    exec (.shadeReport .portQ seq l a b) s = .next (t.answered .portQ (.shadeReport .portQ seq l a b) .done data) := by
  refine exec_effect ⟨.done, data⟩ rfl rfl
    ((shadeReportBody_inRun (u := s.taken .portQ (.shadeReport .portQ seq l a b)) hrun hr).trans ?_)
  rw [hx]
  refine (shadeRecord_found (u := s.taken .portQ (.shadeReport .portQ seq l a b))
    (spanStatus_within hh ht hlow hhigh) hk).trans ?_
  rw [hnone, takeReading_taken, htaken]
  rfl

/-- Settles O44. -/
theorem shadeReportOutcomes : Obligations.ShadeReportOutcomes := by
  intro seq l a b s i hi
  subst hi
  have hbody (hrun : s.sc.session.inRun = true) : ∃ r, shadeReportBody seq.toNat l a b
      (s.taken .portQ (.shadeReport .portQ seq l a b)) = (match readingOf l a b with
        | none => (s.taken .portQ (.shadeReport .portQ seq l a b), Answer.plain .outOfRange)
        | some x => shadeRecord (s.taken .portQ (.shadeReport .portQ seq l a b)) r seq.toNat x) := by
    obtain ⟨r, hr⟩ := recipe_of_inRun hrun
    exact ⟨r, shadeReportBody_inRun (u := s.taken .portQ (.shadeReport .portQ seq l a b)) hrun hr⟩
  have hspan : ∀ n, (s.taken .portQ (.shadeReport .portQ seq l a b)).spanStatus n = s.spanStatus n := fun _ => rfl
  have houtside {x : Lab} {st : Status} (hrun : s.sc.session.inRun = true) (hx : readingOf l a b = some x)
      (hst : s.spanStatus seq.toNat = some st) : exec (.shadeReport .portQ seq l a b) s =
        .next (s.answered .portQ (.shadeReport .portQ seq l a b) st []) := by
    obtain ⟨r, hr⟩ := hbody hrun
    rw [hx] at hr
    exact exec_plain rfl rfl (hr.trans (shadeRecord_outside ((hspan _).trans hst)))
  refine ⟨readingOf_eq l a b, fun hrun => exec_plain rfl rfl (shadeReportBody_outside hrun), fun hrun hx => ?_,
    fun x hrun hx hq => houtside hrun hx (spanStatus_empty hq), fun x h t hrun hx hh ht => ⟨fun hlow =>
    houtside hrun hx (spanStatus_tooLate hh ht hlow), fun hlow hhigh =>
    houtside hrun hx (spanStatus_beyond hh ht hlow hhigh), fun k hlow hhigh hk hread => ?_,
    fun k r hlow hhigh hk hnone hr hnodup => ⟨fun e hwin hfind => ⟨fun hopen => ?_, fun sums n z hlearn hz => ?_⟩,
    fun c hwin hres => ⟨fun hc => ?_, fun u hc hcleared => ⟨fun hfull => ?_, fun v hroom hcodes hv => ?_⟩⟩⟩⟩⟩
  · obtain ⟨r, hr⟩ := hbody hrun
    rw [hx] at hr
    exact exec_plain rfl rfl hr
  · obtain ⟨r, hr⟩ := hbody hrun
    rw [hx] at hr
    refine exec_plain rfl rfl (hr.trans ((shadeRecord_found (u := s.taken .portQ (.shadeReport .portQ seq l a b))
      (spanStatus_within hh ht hlow hhigh) hk).trans (if_pos hread)))
  · refine exec_shadeReport_taken hrun hx hh ht hlow hhigh hk hnone hr ((takeReading_won hwin hfind hnodup).trans ?_)
    rw [win_opened hopen, if_neg fun h => h.1 hopen, hopen]
    rfl
  · refine exec_shadeReport_taken hrun hx hh ht hlow hhigh hk hnone hr ((takeReading_won hwin hfind hnodup).trans ?_)
    subst hz
    have hnot : e.state ≠ .opened := by rw [hlearn]; nofun
    rw [win_learning hlearn]
    by_cases hn : r.nLearn ≤ n + 1
    · rw [if_pos hn, if_pos hn, if_pos hn, if_pos hn, if_pos ⟨hnot, rfl⟩]
      rfl
    · rw [if_neg hn, if_neg hn, if_neg hn, if_neg hn, if_neg fun h => nomatch h.2]
      rfl
  · refine exec_shadeReport_taken hrun hx hh ht hlow hhigh hk hnone hr ?_
    exact takeReading_of (classify_exhausted hwin hres hc) rfl
  · obtain ⟨hrt, -⟩ := slotCleared_keeps hcleared
    refine exec_shadeReport_taken hrun hx hh ht hlow hhigh hk hnone hr ?_
    exact takeReading_of ((classify_opens hwin hres hc hcleared hnodup).trans (if_pos hfull)) hrt
  · obtain ⟨hrt, hps⟩ := slotCleared_keeps hcleared
    have hresU : u.ps.reserved = some c := by rw [hps, hres]
    have hclass := ((classify_opens (seq := seq.toNat) hwin hres hc hcleared hnodup).trans
      (if_neg (not_le.mpr hroom))).trans (createBatch_eq hresU hcodes)
    have hstate := batchStateByte_of (findBatch_opened (r := r) (seq := seq.toNat) (x := x) hcodes)
    refine exec_shadeReport_taken hrun hx hh ht hlow hhigh hk hnone hr ((takeReading_of hclass hrt).trans ?_)
    rw [hstate, hv]
    by_cases hn : r.nLearn ≤ 1
    · rw [newBatch, if_pos hn, if_pos hn, State.opened, newBatch, if_pos hn]
      rfl
    · rw [newBatch, if_neg hn, if_neg hn, State.opened, newBatch, if_neg hn]
      rfl

end Sys2Proof.Proofs
end

section
/-! PROOFS. Labels and rolls disposed of (R103, R158, R165, R166, R169 to R171), and the logging of an event (R187, R190,
R191). -/

namespace Sys2Proof.Proofs

open Sys2Proof Sys2Proof.Machine

/-! ### LABEL DONE -/

/-- R157: when the head of the label order is ready. -/
theorem headIsReady_iff_codes (u : State) : u.headIsReady = true ↔ ∃ h y m, u.ld.order.head? = some h ∧
    u.findRoll h = some y ∧ u.ps.mirror = some m ∧ y.batch ≤ m.batch ∧ y.serial ≤ m.roll := by
  rw [State.headIsReady, State.labelHead]
  cases horder : u.ld.order.head? with
  | none => exact ⟨nofun, fun ⟨_, _, _, hnone, _⟩ => nomatch hnone⟩
  | some h =>
    cases hy : u.findRoll h with
    | none =>
      rw [Option.bind_some, hy]
      refine ⟨nofun, fun ⟨h', y, _, hh, hy', _⟩ => ?_⟩
      cases hh
      exact nomatch hy.symm.trans hy'
    | some y =>
      rw [Option.bind_some, hy]
      refine (persisted_iff y u.ps.mirror).trans ⟨fun ⟨m, hm, hcodes⟩ => ⟨h, y, m, rfl, hy, hm, hcodes⟩,
        fun ⟨h', y', m, hh, hy', hm, hcodes⟩ => ?_⟩
      cases hh
      cases hy.symm.trans hy'
      exact ⟨m, hm, hcodes⟩

section
variable {u : State} {x : Roll}

/-- R166: the roll removed, its batch counted and tested. -/
def labelledRoll (u : State) (x : Roll) : State :=
  freeTest ((u.popOrder.eraseRoll x.serial).updateBatch x.batch BatchEntry.labelRoll) x.batch

theorem removeLabelled_eq (u : State) (x : Roll) : removeLabelled u x = readinessTest (labelledRoll u x) := rfl

theorem labelledRoll_frame (u : State) (x : Roll) :
    (labelledRoll u x).rb = { u.rb with rolls := u.rb.rolls.filter fun y => decide (y.serial ≠ x.serial) } ∧
    (labelledRoll u x).ld = ⟨u.ld.order.tail, none, false⟩ ∧
    (labelledRoll u x).batches = freeSpent x.batch (u.batches.map fun c => if c.code = x.batch then
      { c with rolls := c.rolls - 1, labelled := min 4294967295 (c.labelled + 1) } else c) ∧
    (labelledRoll u x).rt = u.rt ∧ (labelledRoll u x).ks = u.ks ∧ (labelledRoll u x).ps = u.ps ∧
    (labelledRoll u x).erc = u.erc ∧ (labelledRoll u x).events = u.events ∧ (labelledRoll u x).wpu = u.wpu := by
  obtain ⟨hrt, herc, hrb, hks, hld, hps, hevents, -⟩ :=
    freeTest_frame ((u.popOrder.eraseRoll x.serial).updateBatch x.batch BatchEntry.labelRoll) x.batch
  exact ⟨hrb, hld, freeTest_batches _ _, hrt, hks, hps, herc, hevents, freeTest_wpu _ _⟩

/-- R104, R166: BATCH when the batch is freed. -/
theorem labelledRoll_ports (u : State) (x : Roll) (q : Port) : (labelledRoll u x).ports.get q =
    (u.ports.get q).gaining (if (labelledRoll u x).batches.length < u.batches.length then noticeBatch else 0) := by
  have hlength : ((u.popOrder.eraseRoll x.serial).updateBatch x.batch BatchEntry.labelRoll).batches.length =
      u.batches.length := List.length_map _
  rw [← hlength]
  exact freeTest_ports _ _ q

/-- R158, R166: what the removal of a labelled roll does to each block. -/
theorem removeLabelled_frame (u : State) (x : Roll) :
    (removeLabelled u x).rb = { u.rb with rolls := u.rb.rolls.filter fun y => decide (y.serial ≠ x.serial) } ∧
    (removeLabelled u x).ld.order = u.ld.order.tail ∧ (removeLabelled u x).ld.outstanding = none ∧
    ((removeLabelled u x).ld.headReady = true ↔ ∃ h y m, u.ld.order.tail.head? = some h ∧
      (removeLabelled u x).findRoll h = some y ∧ u.ps.mirror = some m ∧ y.batch ≤ m.batch ∧ y.serial ≤ m.roll) ∧
    (removeLabelled u x).batches = freeSpent x.batch (u.batches.map fun c => if c.code = x.batch then
      { c with rolls := c.rolls - 1, labelled := min 4294967295 (c.labelled + 1) } else c) ∧
    (∀ q, ((removeLabelled u x).ports.get q).raw = (u.ports.get q).raw |||
      ((if (removeLabelled u x).ld.headReady then noticeLabel else 0) |||
        if (removeLabelled u x).batches.length < u.batches.length then noticeBatch else 0)) ∧
    (removeLabelled u x).rt = u.rt ∧ (removeLabelled u x).ks = u.ks ∧ (removeLabelled u x).ps = u.ps ∧
    (removeLabelled u x).erc = u.erc ∧ (removeLabelled u x).events = u.events ∧ (removeLabelled u x).wpu = u.wpu := by
  obtain ⟨hrb, hld, hbatches, hrt, hks, hps, herc, hevents, hwpu⟩ := labelledRoll_frame u x
  obtain ⟨hrt', herc', hbatches', hrb', hks', hps', hevents', -⟩ := readinessTest_frame (labelledRoll u x)
  have hready : (readinessTest (labelledRoll u x)).ld =
      ⟨u.ld.order.tail, none, (labelledRoll u x).headIsReady⟩ := by
    rw [readinessTest_ld, hld]
    rfl
  rw [removeLabelled_eq]
  refine ⟨hrb'.trans hrb, by rw [hready], by rw [hready], ?_, hbatches'.trans hbatches, fun q => ?_, hrt'.trans hrt,
    hks'.trans hks, hps'.trans hps, herc'.trans herc, hevents'.trans hevents, (readinessTest_wpu _).trans hwpu⟩
  · have hfind : ∀ h, (readinessTest (labelledRoll u x)).findRoll h = (labelledRoll u x).findRoll h := fun h => by
      rw [State.findRoll, hrb', State.findRoll]
    have hiff := headIsReady_iff_codes (labelledRoll u x)
    rw [hld, hps] at hiff
    rw [hready]
    simp only [hfind]
    exact hiff
  · have hraised := readinessTest_ports (labelledRoll u x) q
    rw [labelledRoll_ports, gaining_gaining, hld, hready] at hraised
    rw [hraised, hbatches', hready]
    dsimp only [PortState.gaining]
    cases (labelledRoll u x).headIsReady
    · rw [if_pos (rfl : false = false), if_neg Bool.false_ne_true]
      ac_rfl
    · rw [if_neg (nofun : ¬true = false), if_pos (rfl : true = true)]
      ac_rfl

/-- R165: the outstanding label done. -/
theorem labelDoneBody_done {n : Nat} (hn : n ≠ 0) (hout : u.ld.outstanding = some n) (hx : u.findRoll n = some x) :
    labelDoneBody n u = (removeLabelled u x, ⟨.done, labelDoneData u x⟩) := by
  rw [labelDoneBody, if_neg hn, hout]
  refine (if_neg fun h => h rfl).trans ?_
  rw [hx]

theorem labelDoneBody_notFound {n : Nat} (hn : n ≠ 0) (hout : u.ld.outstanding ≠ some n) :
    labelDoneBody n u = (u, Answer.plain .notFound) := by
  rw [labelDoneBody, if_neg hn]
  cases ho : u.ld.outstanding with
  | none => rfl
  | some m => exact if_pos fun h => hout (by rw [ho, h])

/-- R165, R203: the reply of LABEL DONE. -/
theorem labelDoneData_of {c : BatchEntry} (h : u.findBatch x.batch = some c) : labelDoneData u x =
    leBytes 4 x.serial ++ leBytes 3 x.batch ++ leBytes 4 (min 4294967295 (c.labelled + 1)) ++
      leBytes 1 u.ld.order.tail.length := by
  rw [labelDoneData, State.labelledAfter, h]
  rfl

end

/-- Settles O47. -/
theorem labelDoneOutcomes : Obligations.LabelDoneOutcomes := by
  intro n s i hi
  subst hi
  refine ⟨fun hzero => exec_plain rfl rfl (if_pos hzero),
    fun hn hout => exec_plain rfl rfl (labelDoneBody_notFound hn hout), fun x hn hout hx => ?_⟩
  have hserial : x.serial = n.toNat := (findBy_mem _ _ _ _ hx).2
  have hexec : exec (.labelDone .portQ n) s = .next
      ((removeLabelled (s.taken .portQ (.labelDone .portQ n)) x).onPort .portQ fun p =>
        p.place 49 ⟨.done, labelDoneData (s.taken .portQ (.labelDone .portQ n)) x⟩) := by
    refine congrArg Host.Outcome.next ((takeRequest_permitted _ _ _ _ rfl).trans ?_)
    rw [labelDoneBody_done (u := s.taken .portQ (.labelDone .portQ n)) hn hout hx]
    rfl
  obtain ⟨hrb, horder, hnone, hready, hbatches, hraw, hrt, hks, hps, herc, hevents, hwpu⟩ :=
    removeLabelled_frame (s.taken .portQ (.labelDone .portQ n)) x
  rw [hserial] at hrb
  refine ⟨_, hexec, hrb, horder, hnone, hready, hbatches, fun q => ?_, hrt, hks, hps, herc, hevents, hwpu,
    congrArg ReplySlot.status (place_slot _ .portQ 49 _), fun c hc => ?_⟩
  · rw [place_raw, hraw q, taken_raw]
    rfl
  · have hdata := labelDoneData_of (u := s.taken .portQ (.labelDone .portQ n)) hc
    rw [hserial] at hdata
    exact (congrArg ReplySlot.data (place_slot _ .portQ 49 _)).trans hdata

/-! ### ROLL DISPOSITION -/

section
variable {u : State} {x : Roll} {n : Nat} {d : Byte}

theorem decisionOf_beyond (h : 2 ≤ d.toNat) : decisionOf d = none := by
  unfold decisionOf
  split
  case h_3 => rfl
  all_goals omega

theorem decisionOf_within (h : d.toNat < 2) : ∃ v, decisionOf d = some v := by
  unfold decisionOf
  split
  case h_1 => exact ⟨_, rfl⟩
  case h_2 => exact ⟨_, rfl⟩
  case h_3 h0 h1 =>
    have hzero : d.toNat ≠ 0 := h0
    have hone : d.toNat ≠ 1 := h1
    omega

theorem rollDispositionBody_outOfRange (h : n = 0 ∨ 2 ≤ d.toNat) :
    rollDispositionBody n d u = (u, Answer.plain .outOfRange) := by
  unfold rollDispositionBody
  cases hd : decisionOf d with
  | none => rfl
  | some v => exact if_pos (h.resolve_right fun h' => nomatch hd.symm.trans (decisionOf_beyond h'))

theorem rollDispositionBody_of {v : Decision} (hn : n ≠ 0) (hd : decisionOf d = some v) : rollDispositionBody n d u =
    (match u.findRoll n with
      | none => (u, Answer.plain .notFound)
      | some x => disposeRoll u x v) := by
  rw [rollDispositionBody, hd]
  exact if_neg hn

/-- R170: what an acceptance does to each block. -/
theorem acceptRoll_frame (hx : u.findRoll n = some x) (hnodup : (u.rb.rolls.map Roll.serial).Nodup) :
    (acceptRoll u n).rb = { u.rb with rolls := u.rb.rolls.map fun y =>
      if y.serial = n then { x with state := .closed, accepted := true } else y } ∧
    (acceptRoll u n).ld.order = u.ld.order ++ [n] ∧ (acceptRoll u n).ld.outstanding = u.ld.outstanding ∧
    ((acceptRoll u n).ld.headReady = true ↔ u.ld.headReady = true ∨ u.ld.order = [] ∧
      ∃ m, u.ps.mirror = some m ∧ x.batch ≤ m.batch ∧ x.serial ≤ m.roll) ∧
    (∀ q, (acceptRoll u n).ports.get q = (u.ports.get q).gaining
      (if (acceptRoll u n).ld.headReady = u.ld.headReady then 0 else noticeLabel)) ∧
    (acceptRoll u n).rt = u.rt ∧ (acceptRoll u n).ks = u.ks ∧ (acceptRoll u n).ps = u.ps ∧
    (acceptRoll u n).erc = u.erc ∧ (acceptRoll u n).events = u.events ∧ (acceptRoll u n).batches = u.batches := by
  obtain ⟨hmem, hserial⟩ := findBy_mem _ _ _ _ hx
  subst hserial
  have hrolls : (u.updateRoll x.serial fun y => { y with state := .closed, accepted := true }).rb.rolls =
      replaced u.rb.rolls x.serial { x with state := .closed, accepted := true } :=
    updateBy_eq_map Roll.serial u.rb.rolls x _ hnodup hmem
  have hfind := find_replaced _ u.rb.rolls x.serial x { x with state := .closed, accepted := true } hrolls hmem rfl rfl
    hnodup
  obtain ⟨hrt, herc, hbatches, hrb, hks, hps, hevents, -⟩ :=
    joinOrder_frame (u.updateRoll x.serial fun y => { y with state := .closed, accepted := true }) x.serial
  obtain ⟨horder, hout⟩ :=
    joinOrder_ld (u.updateRoll x.serial fun y => { y with state := .closed, accepted := true }) x.serial
  refine ⟨hrb.trans ?_, horder, hout, joinOrder_headReady _ x.serial { x with state := .closed, accepted := true } hfind,
    joinOrder_ports _ x.serial, hrt, hks, hps,
    herc, hevents, hbatches⟩
  exact congrArg (fun l : List Roll => { u.rb with rolls := l }) hrolls

/-- The number that the hold flags make. -/
theorem holdFlags_num (h : HoldFlags) : extraNat h.num = BitVec.ofNat 16 ((if h.cutFault then 1 else 0) +
    (if h.offMatch then 2 else 0) + (if h.trackingFault then 4 else 0)) := by
  obtain ⟨fault, off, tracking⟩ := h
  cases fault <;> cases off <;> cases tracking <;> rfl

/-- R171: what a VOID does to each block. -/
theorem voidRoll_frame (u : State) (x : Roll) :
    (voidRoll u x).rb = { u.rb with rolls := u.rb.rolls.filter fun y => decide (y.serial ≠ x.serial) } ∧
    (voidRoll u x).events = (logEvent u ⟨.rollVoided, .label, some x.lastSeq, some x.serial, some x.batch,
      BitVec.ofNat 16 ((if x.hold.cutFault then 1 else 0) + (if x.hold.offMatch then 2 else 0) +
        (if x.hold.trackingFault then 4 else 0))⟩).events ∧
    (voidRoll u x).batches = freeSpent x.batch (u.batches.map fun b => if b.code = x.batch then
      { b with rolls := b.rolls - 1 } else b) ∧
    (∀ q, ((voidRoll u x).ports.get q).raw = (u.ports.get q).raw ||| (noticeEvent |||
      if (voidRoll u x).batches.length < u.batches.length then noticeBatch else 0)) ∧
    (voidRoll u x).rt = u.rt ∧ (voidRoll u x).ks = u.ks ∧ (voidRoll u x).ps = u.ps ∧ (voidRoll u x).erc = u.erc ∧
    (voidRoll u x).ld = u.ld := by
  obtain ⟨hrt, herc, hks, hld, hps, hevents, -⟩ := dropRoll_frame u x
  refine ⟨dropRoll_rb u x, ?_, dropRoll_batches u x, fun q => ?_, hrt, hks, hps, herc, hld⟩
  · rw [voidRoll, holdFlags_num]
    exact logEvent_events_congr _ hevents (congrArg Wpu.le (dropRoll_wpu u x)) hps
  · have hports : ((voidRoll u x).ports.get q).raw = ((dropRoll u x).ports.get q).raw ||| noticeEvent :=
      congrArg PortState.raw (PerPort.get_map _ _ q)
    have hbatches : (voidRoll u x).batches = (dropRoll u x).batches := rfl
    rw [hports, dropRoll_ports, hbatches]
    dsimp only [PortState.gaining]
    ac_rfl

end

/-- Settles O48. -/
theorem rollDispositionOutcomes : Obligations.RollDispositionOutcomes := by
  intro n d s i hi
  subst hi
  refine ⟨fun hbad => exec_plain rfl rfl (rollDispositionBody_outOfRange hbad), fun hn hd hnone => ?_,
    fun x hn hd hx => ⟨fun hstate => ?_, fun hstate hd0 hnodup => ?_, fun hstate hd1 => ?_⟩⟩
  · obtain ⟨v, hv⟩ := decisionOf_within hd
    refine exec_plain rfl rfl
      ((rollDispositionBody_of (u := s.taken .portQ (.rollDisposition .portQ n d)) hn hv).trans ?_)
    rw [show (s.taken .portQ (.rollDisposition .portQ n d)).findRoll n.toNat = none from hnone]
  · obtain ⟨v, hv⟩ := decisionOf_within hd
    refine exec_plain rfl rfl
      ((rollDispositionBody_of (u := s.taken .portQ (.rollDisposition .portQ n d)) hn hv).trans ?_)
    rw [show (s.taken .portQ (.rollDisposition .portQ n d)).findRoll n.toNat = some x from hx]
    exact if_pos hstate
  · subst hd0
    have hserial : x.serial = n.toNat := (findBy_mem _ _ _ _ hx).2
    have hexec : exec (.rollDisposition .portQ n 0) s = .next
        ((acceptRoll (s.taken .portQ (.rollDisposition .portQ n 0)) n.toNat).onPort .portQ fun p =>
          p.place 50 ⟨.done, leBytes 1 (s.ld.order.length + 1)⟩) := by
      refine congrArg Host.Outcome.next ((takeRequest_permitted _ _ _ _ rfl).trans ?_)
      rw [rollDispositionBody_of (u := s.taken .portQ (.rollDisposition .portQ n 0)) (v := .accept) hn rfl,
        show (s.taken .portQ (.rollDisposition .portQ n 0)).findRoll n.toNat = some x from hx]
      dsimp only
      rw [disposeRoll, if_neg fun h => h hstate, hserial]
      rfl
    obtain ⟨hrb, horder, hout, hready, hports, hrt, hks, hps, herc, hevents, hbatches⟩ :=
      acceptRoll_frame (u := s.taken .portQ (.rollDisposition .portQ n 0)) hx hnodup
    refine ⟨_, hexec, hrb, horder, hout, hready, fun q => ?_, place_slot _ .portQ 50 _, hrt, hks, hps, herc, hevents,
      hbatches⟩
    rw [place_raw, hports q, PortState.gaining, taken_raw]
    rfl
  · subst hd1
    have hserial : x.serial = n.toNat := (findBy_mem _ _ _ _ hx).2
    have hexec : exec (.rollDisposition .portQ n 1) s = .next
        ((voidRoll (s.taken .portQ (.rollDisposition .portQ n 1)) x).onPort .portQ fun p =>
          p.place 50 (Answer.plain .done)) := by
      refine congrArg Host.Outcome.next ((takeRequest_permitted _ _ _ _ rfl).trans ?_)
      rw [rollDispositionBody_of (u := s.taken .portQ (.rollDisposition .portQ n 1)) (v := .void) hn rfl,
        show (s.taken .portQ (.rollDisposition .portQ n 1)).findRoll n.toNat = some x from hx]
      dsimp only
      rw [disposeRoll, if_neg fun h => h hstate]
      rfl
    obtain ⟨hrb, hevents, hbatches, hraw, hrt, hks, hps, herc, hld⟩ :=
      voidRoll_frame (s.taken .portQ (.rollDisposition .portQ n 1)) x
    rw [hserial] at hrb hevents
    refine ⟨_, hexec, hrb, ?_, hbatches, fun q => ?_, place_slot _ .portQ 50 _, hrt, hks, hps, herc, hld⟩
    · rw [State.onPort_events, hevents, ← logEvent_events_taken .portQ (.rollDisposition .portQ n 1) s]
    · rw [place_raw, hraw q, taken_raw]
      rfl

/-! ### Events -/

theorem StationRefs.get_put_same (r : StationRefs) (st : Station) (v : Bool) : (r.put st v).get st = v := by
  cases st <;> rfl

theorem StationRefs.get_put_other (r : StationRefs) {st st' : Station} (h : st' ≠ st) (v : Bool) :
    (r.put st v).get st' = r.get st' := by
  cases st <;> cases st' <;> first | rfl | exact absurd rfl h

theorem StationRefs.any_put_true (r : StationRefs) (st : Station) : (r.put st true).any = true := by
  cases st <;> simp [StationRefs.put, StationRefs.any]

/-- R190, R192: what follows the placing of an entry touches the references and the summary alone. -/
theorem logEvent_refs (s : State) (r : EventReport) : (logEvent s r).events = { s.events.place (s.entryOf r) with
    refs := (logEvent s r).events.refs
    summary := (logEvent s r).events.summary } := by
  rw [logEvent_events, LineEvents.applyRecovery]
  cases s.actionOf r.code <;> cases r.code.isRecovery <;> rfl

theorem place_room {ev : LineEvents} (h : ev.entries.length < 40) (e : EventEntry) :
    ev.place e = { ev with entries := ev.entries ++ [e], total := e.number } := if_pos h

theorem place_full {ev : LineEvents} (h : ev.entries.length = 40) (e : EventEntry) : ev.place e = { ev with
    entries := ev.entries.take 8 ++ ev.entries.drop 9 ++ [e]
    total := e.number
    discarded := min 4294967295 (ev.discarded + 1) } :=
  if_neg (by rw [h]; exact lt_irrefl 40)

theorem place_refs (ev : LineEvents) (e : EventEntry) :
    (ev.place e).refs = ev.refs ∧ (ev.place e).summary = ev.summary ∧ (ev.place e).total = e.number := by
  rw [LineEvents.place]
  split_ifs <;> exact ⟨rfl, rfl, rfl⟩

/-- R189, R192: a recovery code has the native action NOTE. -/
theorem nativeAction_of_isRecovery {c : EventCode} (h : c.isRecovery = true) : c.nativeAction = .note := by
  cases c <;> first | rfl | exact nomatch h

section
variable {s : State} {r : EventReport}

/-- R190: the action of a code that is no recovery. -/
theorem logEvent_applied (h : r.code.isRecovery = false) :
    (logEvent s r).events = (s.events.place (s.entryOf r)).applyAction (s.actionOf r.code) r.station := by
  rw [logEvent_events, LineEvents.applyRecovery, h]
  exact if_neg Bool.false_ne_true

theorem actionOf_note_of_isRecovery (h : r.code.isRecovery = true) : s.actionOf r.code = .note := by
  simp only [State.actionOf, effectiveAction, nativeAction_of_isRecovery h]

/-- R192: a recovery code. -/
theorem logEvent_recovered (h : r.code.isRecovery = true) :
    (logEvent s r).events = (s.events.place (s.entryOf r)).putRef r.station false := by
  rw [logEvent_events, LineEvents.applyRecovery, actionOf_note_of_isRecovery h]
  exact if_pos h

theorem logEvent_sc_of_not_stop (h : s.actionOf r.code ≠ .stop) : (logEvent s r).sc = s.sc := by
  rw [logEvent_sc, beq_eq_false_iff_ne.mpr h, Bool.or_false]

/-- R191: the references of the other stations. -/
theorem logEvent_refs_other {st : Station} (h : st ≠ r.station) :
    (logEvent s r).events.refs.get st = s.events.refs.get st := by
  obtain ⟨hrefs, -, -⟩ := place_refs s.events (s.entryOf r)
  cases hrec : r.code.isRecovery with
  | true =>
    rw [logEvent_recovered hrec]
    exact (StationRefs.get_put_other _ h false).trans (by rw [hrefs])
  | false =>
    rw [logEvent_applied hrec]
    cases s.actionOf r.code with
    | note => exact congrArg (fun f : StationRefs => f.get st) hrefs
    | flag => exact (StationRefs.get_put_other _ h true).trans (by rw [hrefs])
    | stop => exact (StationRefs.get_put_other _ h true).trans (by rw [hrefs])

/-- R190: FLAG and STOP set the reference of the station and the summary. -/
theorem logEvent_flags (hrec : r.code.isRecovery = false) (hact : s.actionOf r.code ≠ .note) :
    (logEvent s r).events.refs.get r.station = true ∧ (logEvent s r).events.summary = true := by
  rw [logEvent_applied hrec]
  cases h : s.actionOf r.code with
  | note => exact absurd h hact
  | flag => exact ⟨StationRefs.get_put_same _ _ _, StationRefs.any_put_true _ _⟩
  | stop => exact ⟨StationRefs.get_put_same _ _ _, StationRefs.any_put_true _ _⟩

end

/-- Settles O49. -/
theorem loggingAnEvent : Obligations.LoggingAnEvent := by
  intro s r e act hact he
  have haction : s.actionOf r.code = act := hact.symm
  have hentry : s.entryOf r = e := by
    rw [he, State.entryOf, haction]
    rfl
  obtain ⟨hrefs, -, htotal⟩ := place_refs s.events (s.entryOf r)
  have hplaced := logEvent_refs s r
  refine ⟨?_, fun hroom => ?_, fun hfull => ?_, fun hrec => ⟨fun hnote => ?_, fun hnot => ?_, fun hstop => ?_,
    fun hflag => ?_⟩, fun hrec => ?_, fun st hst => logEvent_refs_other hst, fun q => PerPort.get_map _ _ q, rfl, rfl,
    rfl, rfl, rfl, rfl, rfl, rfl, rfl⟩
  · rw [hplaced, ← hentry]
    exact htotal
  · rw [hplaced, place_room hroom, hentry]
    exact ⟨rfl, rfl⟩
  · rw [hplaced, place_full hfull, hentry]
    exact ⟨rfl, rfl⟩
  · refine ⟨?_, logEvent_sc_of_not_stop (by rw [haction, hnote]; nofun)⟩
    rw [logEvent_applied hrec, haction, hnote]
    exact hrefs
  · exact logEvent_flags hrec (by rwa [haction])
  · rw [logEvent_sc, haction, hstop]
    exact congrArg (fun b : Bool => { s.sc with stopLatch := b }) (Bool.or_true _)
  · exact logEvent_sc_of_not_stop (by rw [haction, hflag]; nofun)
  · refine ⟨?_, logEvent_sc_of_not_stop (by rw [actionOf_note_of_isRecovery hrec]; nofun)⟩
    rw [logEvent_recovered hrec]
    exact StationRefs.get_put_same _ _ _

end Sys2Proof.Proofs
end

section
/-! PROOFS. The frame of a request spells it (section 11): the fields of the argument bytes read back, and the frame
check passes them. -/

namespace Sys2Proof.Proofs

open Sys2Proof Sys2Proof.Machine

/-! ### Fields of a list of bytes -/

/-- A field behind a first part is read in the rest. -/
theorem fieldAt_append {a b : List Byte} {off : Nat} (h : a.length ≤ off) (len : Nat) :
    fieldAt (a ++ b) off len = fieldAt b (off - a.length) len := by
  rw [fieldAt, List.drop_append, List.drop_of_length_le h, List.nil_append, fieldAt]

/-- A number of `n` bytes in front is read back. -/
theorem fieldAt_leBytes_append (n v : Nat) (b : List Byte) : fieldAt (leBytes n v ++ b) 0 n = v % 256 ^ n := by
  rw [fieldAt, List.drop_zero, List.take_append_of_le_length (Nat.le_of_eq (length_leBytes n v).symm),
    List.take_of_length_le (Nat.le_of_eq (length_leBytes n v)), leNat_leBytes]

/-- A number of `n` bytes alone is read back. -/
theorem fieldAt_leBytes (n v : Nat) : fieldAt (leBytes n v) 0 n = v % 256 ^ n := by
  rw [← List.append_nil (leBytes n v), fieldAt_leBytes_append]

/-- A field behind a first byte is read in the rest. -/
theorem fieldAt_cons (x : Byte) (b : List Byte) (off len : Nat) : fieldAt (x :: b) (off + 1) len = fieldAt b off len :=
  rfl

/-- A byte behind a first part is read in the rest. -/
theorem byteAt_append {a b : List Byte} {off : Nat} (h : a.length ≤ off) :
    byteAt (a ++ b) off = byteAt b (off - a.length) := List.getD_append_right _ _ _ _ h

@[simp] theorem byteAt_cons_zero (x : Byte) (b : List Byte) : byteAt (x :: b) 0 = x := rfl

@[simp] theorem byteAt_cons_succ (x : Byte) (b : List Byte) (off : Nat) : byteAt (x :: b) (off + 1) = byteAt b off :=
  rfl

/-- The bytes of a vector are read back. -/
theorem byteAt_vector_append {n : Nat} (v : Vector Byte n) (b : List Byte) (i : Fin n) :
    byteAt (v.toList ++ b) i = v[i] := by
  have hi : i.val < v.toList.length := by simp
  rw [byteAt, List.getD_append _ _ _ _ hi, List.getD_eq_getElem _ _ hi]
  simp

/-! ### Packed numbers -/

/-- Two words of one number: the low one. -/
theorem ofNat_low {w : Nat} (x : BitVec w) (k : Nat) : BitVec.ofNat w (x.toNat + 2 ^ w * k) = x := by
  apply BitVec.eq_of_toNat_eq
  rw [BitVec.toNat_ofNat, Nat.add_mul_mod_self_left, Nat.mod_eq_of_lt x.isLt]

/-- Two words of one number: the number above the low one. -/
theorem high_of_packed {w : Nat} (x : BitVec w) (k : Nat) : (x.toNat + 2 ^ w * k) / 2 ^ w = k := by
  rw [Nat.add_mul_div_left _ _ (Nat.two_pow_pos w), Nat.div_eq_of_lt x.isLt, Nat.zero_add]

/-- A number of a whole number of bytes holds the word. -/
theorem ofNat_toNat_mod {w m : Nat} (x : BitVec w) (h : 2 ^ w ∣ m) : BitVec.ofNat w (x.toNat % m) = x := by
  apply BitVec.eq_of_toNat_eq
  rw [BitVec.toNat_ofNat, Nat.mod_mod_of_dvd _ h, Nat.mod_eq_of_lt x.isLt]

/-- Two words of one number. -/
theorem words_of_packed {w v n p : Nat} (x : BitVec w) (y : BitVec v) (hp : p = 2 ^ w)
    (h : n = x.toNat + p * y.toNat) : BitVec.ofNat w n = x ∧ BitVec.ofNat v (n / p) = y := by
  rw [h, hp]
  refine ⟨ofNat_low x _, ?_⟩
  rw [high_of_packed, BitVec.ofNat_toNat, BitVec.setWidth_eq]

/-- Section 11.6: 14 bits and two flags above them. -/
theorem flags_of_packed (x : BitVec 14) (a b : Bool) {n : Nat} (h : n = x.toNat + 16384 * a.toNat + 32768 * b.toNat) :
    BitVec.ofNat 14 n = x ∧ (n / 16384 % 2 == 1) = a ∧ (n / 32768 % 2 == 1) = b := by
  have hx := x.isLt
  have ha : (n / 16384 % 2 == 1) = (a.toNat == 1) := congrArg (· == 1) (by have := a.toNat_le; omega)
  have hb : (n / 32768 % 2 == 1) = (b.toNat == 1) :=
    congrArg (· == 1) (by have := a.toNat_le; have := b.toNat_le; omega)
  refine ⟨?_, ha.trans (by cases a <;> rfl), hb.trans (by cases b <;> rfl)⟩
  rw [h, show x.toNat + 16384 * a.toNat + 32768 * b.toNat = x.toNat + 2 ^ 14 * (a.toNat + 2 * b.toNat) by omega,
    ofNat_low]

/-- Section 11.6: 12 bits, 3 bits and a flag above them. -/
theorem words_flag_of_packed (x : BitVec 12) (y : BitVec 3) (b : Bool) {n : Nat}
    (h : n = x.toNat + 4096 * y.toNat + 32768 * b.toNat) :
    BitVec.ofNat 12 n = x ∧ BitVec.ofNat 3 (n / 4096) = y ∧ (n / 32768 % 2 == 1) = b := by
  have hx := x.isLt
  have hy := y.isLt
  have hb : (n / 32768 % 2 == 1) = (b.toNat == 1) := congrArg (· == 1) (by have := b.toNat_le; omega)
  have hn : n = x.toNat + 2 ^ 12 * (y.toNat + 2 ^ 3 * b.toNat) := by omega
  refine ⟨?_, ?_, hb.trans (by cases b <;> rfl)⟩
  · rw [hn, ofNat_low]
  · rw [hn, show 4096 = 2 ^ 12 by rfl, high_of_packed, ofNat_low]

/-! ### Images -/

/-- Section 11.6: where each number of a recipe image stands. -/
theorem fieldAt_recipeImageBytes (m : RecipeImage) :
    fieldAt (recipeImageBytes m) 0 1 = m.slot.toNat + 16 * m.drop16.toNat ∧
    fieldAt (recipeImageBytes m) 9 2 = m.rNom.toNat ∧
    fieldAt (recipeImageBytes m) 11 2 = m.rTol.toNat + 16384 * m.lookAhead.toNat + 32768 * m.emboss.toNat ∧
    fieldAt (recipeImageBytes m) 13 2 = m.phiCut.toNat ∧ fieldAt (recipeImageBytes m) 15 3 = m.lOrd.toNat ∧
    fieldAt (recipeImageBytes m) 18 3 = m.lShort.toNat ∧ fieldAt (recipeImageBytes m) 21 3 = m.cc.toNat ∧
    fieldAt (recipeImageBytes m) 24 2 = m.aT.toNat + 16384 * m.kcCode.toNat ∧
    fieldAt (recipeImageBytes m) 30 3 = m.wLock.toNat + 4096 * m.eTol.toNat ∧
    fieldAt (recipeImageBytes m) 33 2 = m.wCap.toNat ∧
    fieldAt (recipeImageBytes m) 35 2 = m.t.toNat + 4096 * m.bSlots.toNat + 32768 * m.drop.toNat := by
  have := m.slot.isLt; have := m.drop16.isLt; have := m.rTol.isLt; have := m.lookAhead.toNat_le
  have := m.emboss.toNat_le; have := m.aT.isLt; have := m.kcCode.isLt; have := m.wLock.isLt; have := m.eTol.isLt
  have := m.t.isLt; have := m.bSlots.isLt; have := m.drop.toNat_le
  have := m.rNom.isLt; have := m.phiCut.isLt; have := m.lOrd.isLt; have := m.lShort.isLt; have := m.cc.isLt
  have := m.wCap.isLt
  simp only [recipeImageBytes, List.append_assoc]
  refine ⟨?_, ?_, ?_, ?_, ?_, ?_, ?_, ?_, ?_, ?_, ?_⟩ <;>
    simp [fieldAt_append, fieldAt_cons, fieldAt_leBytes_append] <;> omega

/-- Section 11.6: where each byte of a recipe image stands. -/
theorem byteAt_recipeImageBytes (m : RecipeImage) :
    (∀ i : Fin 8, byteAt (recipeImageBytes m) (1 + i) = m.pattern[i]) ∧
    byteAt (recipeImageBytes m) 26 = m.db ∧ byteAt (recipeImageBytes m) 27 = m.kp ∧
    byteAt (recipeImageBytes m) 28 = m.ki ∧ byteAt (recipeImageBytes m) 29 = m.sl ∧
    byteAt (recipeImageBytes m) 37 = m.nLearn := by
  simp only [recipeImageBytes, List.append_assoc]
  refine ⟨fun i => ?_, ?_⟩
  · rw [byteAt_append (by simp), length_leBytes, Nat.add_sub_cancel_left, byteAt_vector_append]
  · simp [byteAt_append]

/-- Section 11.6: a recipe image is read back from its bytes. -/
theorem recipeImageOf_recipeImageBytes (m : RecipeImage) : recipeImageOf (recipeImageBytes m) = m := by
  obtain ⟨h0, h9, h11, h13, h15, h18, h21, h24, h30, h33, h35⟩ := fieldAt_recipeImageBytes m
  obtain ⟨hpattern, h26, h27, h28, h29, h37⟩ := byteAt_recipeImageBytes m
  have hpat : Vector.ofFn (fun i : Fin 8 => byteAt (recipeImageBytes m) (1 + i)) = m.pattern := by
    refine Vector.ext fun i hi => ?_
    rw [Vector.getElem_ofFn]
    exact hpattern ⟨i, hi⟩
  obtain ⟨hslot, hdrop16⟩ := words_of_packed (p := 16) m.slot m.drop16 rfl h0
  obtain ⟨hrTol, hlook, hemboss⟩ := flags_of_packed m.rTol m.lookAhead m.emboss h11
  obtain ⟨haT, hkc⟩ := words_of_packed (p := 16384) m.aT m.kcCode rfl h24
  obtain ⟨hwLock, heTol⟩ := words_of_packed (p := 4096) m.wLock m.eTol rfl h30
  obtain ⟨ht, hbSlots, hdrop⟩ := words_flag_of_packed m.t m.bSlots m.drop h35
  rw [recipeImageOf, hpat, hslot, hdrop16, hrTol, hlook, hemboss, haT, hkc, hwLock, heTol, ht, hbSlots, hdrop, h9, h13,
    h15, h18, h21, h26, h27, h28, h29, h33, h37]
  simp only [BitVec.ofNat_toNat, BitVec.setWidth_eq]

/-- Section 11.2: the setup arguments are read back from their bytes. -/
theorem setupArgsOf_setupArgBytes (u : SetupArgs) : setupArgsOf (setupArgBytes u) = u := by
  simp [setupArgsOf, setupArgBytes, fieldAt_append, fieldAt_leBytes_append, byteAt_append, fieldAt_cons,
    ofNat_toNat_mod]

/-! ### Requests -/

/-- Section 11.2: the optional argument is read back from its bytes. -/
theorem optionalWord_leBytes (n : BitVec 32) : optionalWord (leBytes 4 n.toNat) = some n := by
  change some (BitVec.ofNat 32 (fieldAt (leBytes 4 n.toNat) 0 4)) = some n
  rw [fieldAt_leBytes, ofNat_toNat_mod (m := 256 ^ 4) n (dvd_refl _)]

/-- A first field of four bytes is read back. -/
theorem word_leBytes_append (n : BitVec 32) (b : List Byte) :
    BitVec.ofNat 32 (fieldAt (leBytes 4 n.toNat ++ b) 0 4) = n := by
  rw [fieldAt_leBytes_append, ofNat_toNat_mod (m := 256 ^ 4) n (dvd_refl _)]

/-- A field of four bytes alone is read back. -/
theorem word_leBytes (n : BitVec 32) : BitVec.ofNat 32 (fieldAt (leBytes 4 n.toNat) 0 4) = n := by
  rw [fieldAt_leBytes, ofNat_toNat_mod (m := 256 ^ 4) n (dvd_refl _)]

/-- Section 11.2: the arguments of REPORT DEFECT are read back from their bytes. -/
theorem defectArguments (seq : BitVec 32) (kind sev : Byte) (cross : BitVec 16) {bs : List Byte}
    (h : bs = leBytes 4 seq.toNat ++ [kind, sev] ++ leBytes 2 cross.toNat) :
    BitVec.ofNat 32 (fieldAt bs 0 4) = seq ∧ byteAt bs 4 = kind ∧ byteAt bs 5 = sev ∧
      BitVec.ofNat 16 (fieldAt bs 6 2) = cross := by
  subst h
  simp [fieldAt_append, fieldAt_leBytes_append, fieldAt_leBytes, byteAt_append, fieldAt_cons, ofNat_toNat_mod]

/-- Section 11.2: the arguments of SHADE REPORT are read back from their bytes. -/
theorem shadeArguments (seq : BitVec 32) (l a b : BitVec 16) {bs : List Byte}
    (h : bs = leBytes 4 seq.toNat ++ leBytes 2 l.toNat ++ leBytes 2 a.toNat ++ leBytes 2 b.toNat) :
    BitVec.ofNat 32 (fieldAt bs 0 4) = seq ∧ BitVec.ofNat 16 (fieldAt bs 4 2) = l ∧
      BitVec.ofNat 16 (fieldAt bs 6 2) = a ∧ BitVec.ofNat 16 (fieldAt bs 8 2) = b := by
  subst h
  simp [fieldAt_append, fieldAt_leBytes_append, fieldAt_leBytes, ofNat_toNat_mod]

/-- Section 11.1: the frame of a request spells the request. -/
theorem requestOfFrame_requestBytes {i : Instr} {port : Port} (h : slotRequest i = some port) :
    requestOfFrame port (requestBytes i) = some i := by
  cases i with cases h
  | writeRecipe _ m => exact congrArg (fun x => some (Instr.writeRecipe port x)) (recipeImageOf_recipeImageBytes m)
  | writeSetup _ u => exact congrArg (fun x => some (Instr.writeSetup port x)) (setupArgsOf_setupArgBytes u)
  | seedCounters _ b r =>
    exact congrArg₂ (fun x y => some (Instr.seedCounters port x y)) (word_leBytes_append b _) (word_leBytes r)
  | reportDefect _ seq kind sev cross =>
    obtain ⟨hseq, hkind, hsev, hcross⟩ := defectArguments seq kind sev cross
      (bs := argumentBytes (.reportDefect port seq kind sev cross)) rfl
    change some (Instr.reportDefect port _ _ _ _) = _
    rw [hseq, hkind, hsev, hcross]
  | shadeReport _ seq l a b =>
    obtain ⟨hseq, hl, ha, hb⟩ := shadeArguments seq l a b (bs := argumentBytes (.shadeReport port seq l a b)) rfl
    change some (Instr.shadeReport port _ _ _ _) = _
    rw [hseq, hl, ha, hb]
  | readRepeat _ seq => exact congrArg (fun x => some (Instr.readRepeat port x)) (word_leBytes seq)
  | readRoll _ serial =>
    cases serial with
    | none => rfl
    | some n => exact congrArg (fun x => some (Instr.readRoll port x)) (optionalWord_leBytes n)
  | readBatch _ code =>
    cases code with
    | none => rfl
    | some n => exact congrArg (fun x => some (Instr.readBatch port x)) (optionalWord_leBytes n)
  | labelDone _ n => exact congrArg (fun x => some (Instr.labelDone port x)) (word_leBytes n)
  | rollDisposition _ n d =>
    exact congrArg (fun x => some (Instr.rollDisposition port x d)) (word_leBytes_append n [d])
  | readEvents _ n => exact congrArg (fun x => some (Instr.readEvents port x)) (word_leBytes n)
  | _ => rfl

/-- Section 11.2: a slot request has its row in the catalogue. -/
theorem catalogueLength_of_slotRequest {i : Instr} {port : Port} (h : slotRequest i = some port) :
    ∃ row ∈ catalogue, row.code = commandCode i ∧ (argumentBytes i).length ∈ row.lengths := by
  have hrow : Laws.CatalogueLength.Statement i := by
    cases i with cases h
    | setNotices => exact Laws.CatalogueLength.setNotices ..
    | ackNotices => exact Laws.CatalogueLength.ackNotices ..
    | resumeLine => exact Laws.CatalogueLength.resumeLine ..
    | clearArm => exact Laws.CatalogueLength.clearArm ..
    | clearLine => exact Laws.CatalogueLength.clearLine ..
    | loadRecipe => exact Laws.CatalogueLength.loadRecipe ..
    | startRun => exact Laws.CatalogueLength.startRun ..
    | endRun => exact Laws.CatalogueLength.endRun ..
    | flushRun => exact Laws.CatalogueLength.flushRun ..
    | writeRecipe => exact Laws.CatalogueLength.writeRecipe ..
    | readRecipe => exact Laws.CatalogueLength.readRecipe ..
    | writeSetup => exact Laws.CatalogueLength.writeSetup ..
    | readSetup => exact Laws.CatalogueLength.readSetup ..
    | seedCounters => exact Laws.CatalogueLength.seedCounters ..
    | readCounters => exact Laws.CatalogueLength.readCounters ..
    | reportDefect => exact Laws.CatalogueLength.reportDefect ..
    | shadeReport => exact Laws.CatalogueLength.shadeReport ..
    | readRepeat => exact Laws.CatalogueLength.readRepeat ..
    | readRoll => exact Laws.CatalogueLength.readRoll ..
    | readBatch => exact Laws.CatalogueLength.readBatch ..
    | getLabel => exact Laws.CatalogueLength.getLabel ..
    | labelDone => exact Laws.CatalogueLength.labelDone ..
    | rollDisposition => exact Laws.CatalogueLength.rollDisposition ..
    | readEvents => exact Laws.CatalogueLength.readEvents ..
    | clearEvents => exact Laws.CatalogueLength.clearEvents ..
  refine hrow.resolve_left fun hzero => ?_
  have := commandCode_mem_slotCodes h
  rw [hzero] at this
  exact absurd this (by decide)

/-- R197: a whole frame that its row does not reject passes the frame check. -/
theorem frameBad_eq_false {row : CommandRow} {code n : Byte} {rest : List Byte} (hmem : row ∈ catalogue)
    (hrow : ¬ RowRejects row code n rest) : frameBad ⟨code :: n :: rest, false⟩ = false := by
  refine Bool.eq_false_iff.mpr fun hbad => ?_
  rcases (frameBad_iff rfl).mp hbad with hpart | hrows
  · cases hpart
  · exact hrow (hrows row hmem)

/-- R197: the frame of a request passes the frame check. -/
theorem frameBad_requestBytes {i : Instr} {port : Port} (h : slotRequest i = some port) :
    frameBad ⟨requestBytes i, false⟩ = false := by
  obtain ⟨row, hmem, hcode, hlen⟩ := catalogueLength_of_slotRequest h
  have hbound : (argumentBytes i).length % 2 ^ 8 = (argumentBytes i).length :=
    Nat.mod_eq_of_lt (Nat.lt_of_le_of_lt (catalogue_lengths row hmem _ hlen) (by decide))
  have hcodes : ∀ code ∈ slotCodes, code % 2 ^ 8 = code := by decide
  refine frameBad_eq_false hmem ?_
  rintro (hrej | hrej | ⟨-, -, hrej⟩)
  · exact hrej (by rw [hcode, BitVec.toNat_ofNat, hcodes _ (commandCode_mem_slotCodes h)])
  · exact hrej (by rwa [BitVec.toNat_ofNat, hbound])
  · exact hrej (by rw [BitVec.toNat_ofNat, hbound])

/-- R197: the frame of a streamed request passes the frame check, whatever is clocked behind its argument length. -/
theorem frameBad_streamed (code : Byte) (clocked : List Byte) (h : code = 1 ∨ code = 2) :
    frameBad ⟨code :: 0 :: clocked, false⟩ = false := by
  have hcode : code.toNat = 1 ∨ code.toNat = 2 := h.imp (congrArg BitVec.toNat) (congrArg BitVec.toNat)
  have hmem : (⟨code.toNat, allPorts, [0]⟩ : CommandRow) ∈ catalogue := by
    rcases h with rfl | rfl <;> decide
  refine frameBad_eq_false hmem ?_
  rintro (hrej | hrej | ⟨hone, htwo, -⟩)
  · exact hrej rfl
  · exact hrej (List.mem_singleton.mpr rfl)
  · exact hcode.elim hone htwo

/-- A request has one meaning, by its event or by its frame. -/
theorem requestMeaning_eq_exec {i : Instr} {port : Port} (h : slotRequest i = some port) (s : State) :
    requestMeaning i s = exec i s := by
  cases i with cases h
  | _ => rfl

/-- Settles O52: the frame check and the reading of the frame, each from where the fields stand. -/
theorem frameOfARequestSpellsIt : Obligations.FrameOfARequestSpellsIt := by
  refine ⟨fun i port hi => ?_, fun port clocked => ?_⟩
  · have hbad := frameBad_requestBytes hi
    have hspells := requestOfFrame_requestBytes hi
    refine ⟨hbad, hspells, fun s => ?_⟩
    calc exec (.badFrame port ⟨requestBytes i, false⟩) s
        = execBadFrame port ⟨requestBytes i, false⟩ s := rfl
      _ = requestMeaning i s := by
        simp [execBadFrame, hbad, hspells, show requestBytes i ≠ [] from List.cons_ne_nil _ _]
      _ = exec i s := requestMeaning_eq_exec hi s
  · exact ⟨frameBad_streamed 1 clocked (.inl rfl), frameBad_streamed 2 clocked (.inr rfl), rfl, rfl⟩

end Sys2Proof.Proofs
end
